-- ==== Sys2Proof/Word.lean ====
section
/-! DEFINITION. The word types of the Tamion Q4 and their plainest arithmetic, and the two sparse containers
(a map by number, and byte memory) that State is built from. -/

namespace Sys2Proof

/-- A scalar register, a generic pointer or an 8-byte memory value (R68, R172). -/
abbrev Word := BitVec 64

/-- A vector element, an instruction word or a 4-byte memory word (R68, R109, R197). -/
abbrev W32 := BitVec 32

abbrev Byte := BitVec 8

/-- A 7-bit register field (R111). -/
abbrev Reg := BitVec 7

/-- A vector register: 96 elements, element j at position j (R197). -/
abbrev VReg := List W32

/-- The lanes of a wave in ascending order (R121). -/
def lanes : List Nat := List.range 96

/-- Sign extension of the low `n` bits of an unbounded number (R121). -/
def sextNat (x n : Nat) : Int :=
  let m := x % 2 ^ n
  if m < 2 ^ (n - 1) then (m : Int) else (m : Int) - (2 ^ n : Nat)

/-- A finite map kept as key and value pairs with strictly rising keys. -/
abbrev Map (α : Type) := List (Nat × α)

namespace Map

variable {α : Type}

/-- The value at a key, if one is listed. -/
def get? : Map α → Nat → Option α
  | [], _ => none
  | (k, v) :: t, i => if i = k then some v else get? t i

def getD (m : Map α) (i : Nat) (d : α) : α := (get? m i).getD d

def has (m : Map α) (i : Nat) : Bool := (get? m i).isSome

/-- List a value at a key, keeping the keys in rising order. -/
def set : Map α → Nat → α → Map α
  | [], i, x => [(i, x)]
  | (k, v) :: t, i, x =>
    if i = k then (i, x) :: t
    else if i < k then (i, x) :: (k, v) :: t
    else (k, v) :: set t i x

def erase (m : Map α) (i : Nat) : Map α := m.filter fun p => p.1 != i

/-- Apply a function to the value at a key, where one is listed. -/
def adjust (m : Map α) (i : Nat) (f : α → α) : Map α :=
  match get? m i with
  | some v => set m i (f v)
  | none => m

def keys (m : Map α) : List Nat := m.map (·.1)

def vals (m : Map α) : List α := m.map (·.2)

/-- Strictly rising keys. -/
def sorted : Map α → Bool
  | [] => true
  | [_] => true
  | (a, _) :: (b, y) :: t => decide (a < b) && sorted ((b, y) :: t)

/-- List a value, or remove the key when the value is the default: the form in which equal maps are equal data. -/
def put [DecidableEq α] (m : Map α) (i : Nat) (x d : α) : Map α :=
  if x = d then erase m i else set m i x

end Map

/-- Byte memory: the bytes that differ from what an unlisted address reads as, by rising address (log 1). -/
abbrev Memory := List (Nat × Byte)

namespace Memory

/-- What an address that is not listed reads as: 0 (DESIGN CHOICE, log 1: the manual gives no power-on contents). -/
def unlisted : Byte := 0

def read (m : Memory) (a : Nat) : Byte := Map.getD m a unlisted

def write (m : Memory) (a : Nat) (b : Byte) : Memory := Map.put m a b unlisted

/-- The little-endian number held by `n` bytes from `a` (R1). -/
def readN (m : Memory) (a : Nat) : Nat → Nat
  | 0 => 0
  | n + 1 => (read m a).toNat + 256 * readN m (a + 1) n

/-- Write the low `n` bytes of a number, little-endian (R1). -/
def writeN (m : Memory) (a : Nat) : Nat → Nat → Memory
  | 0, _ => m
  | n + 1, x => writeN (write m a (BitVec.ofNat 8 x)) (a + 1) n (x / 256)

def writeBytes (m : Memory) (a : Nat) : List Byte → Memory
  | [] => m
  | b :: t => writeBytes (write m a b) (a + 1) t

def readBytes (m : Memory) (a : Nat) : Nat → List Byte
  | 0 => []
  | n + 1 => read m a :: readBytes m (a + 1) n

/-- The canonical form: rising addresses, and no entry equal to what an unlisted address reads as. -/
def wf (m : Memory) : Bool := Map.sorted m && m.all fun p => p.2 != unlisted

end Memory

/-- The little-endian number of a list of bytes. -/
def leNat : List Byte → Nat
  | [] => 0
  | b :: t => b.toNat + 256 * leNat t

/-- The low `n` bytes of a number, little-endian. -/
def leBytes : Nat → Nat → List Byte
  | 0, _ => []
  | n + 1, x => BitVec.ofNat 8 x :: leBytes n (x / 256)

/-- Bits `h:l` of a number (R1). -/
def bits (x h l : Nat) : Nat := x / 2 ^ l % 2 ^ (h + 1 - l)

end Sys2Proof
end

