-- ==== Sys2Proof/Syntax.lean ====
section
/-! DEFINITION. The syntax of the Jorrik instruction set: one constructor of Instr per row of the opcode table, the
378 instruction words and the 103 events of the machine (95_what_each_step_holds.md: each row is one whole step).
An event's arguments say which unit it concerns and what arrives from outside the package. -/

namespace Sys2Proof

/-- The policy field of an access (R84); code 3 is reserved and has no constructor. -/
inductive Policy where
  | l1 | llc | st
  deriving DecidableEq, Repr

/-- Access size of `lp` and `sp` (R224). -/
inductive Size4 where
  | byte | half | word | double
  deriving DecidableEq, Repr

/-- Access size of the vector accesses (R226); code 3 is reserved. -/
inductive Size3 where
  | byte | half | word
  deriving DecidableEq, Repr

/-- The scopes of release, acquire and fence (R81). -/
inductive Scope where
  | blk | die | pkg | sys
  deriving DecidableEq, Repr

/-- The level a `pf` reaches (R225). -/
inductive PfLevel where
  | toL1 | toLlc
  deriving DecidableEq, Repr

/-- The operation of an atomic (R230). -/
inductive AtomOp where
  | add | and | or | xor | min | max | minu | maxu | xchg | fadd | cas
  deriving DecidableEq, Repr

/-- Which list of a thread an engine runs: its Lattice list, its Barrow list, or the follow-on block of one of the
core's Barrow commands (R263, R264, R294). -/
inductive ListId where
  | lattice
  | barrow
  | follow (cmd : Nat)
  deriving DecidableEq, Repr

/-- What a fabric packet asks of its destination (R348, R369). -/
inductive Req where
  | load (n : Nat)
  /-- The fetch of an instruction word, which is never a race (R274). -/
  | fetch
  /-- A read of n bytes that is never a race: an evaluation of `wsleep` (R243), a load of an open transaction (R238); final: without
  the scope check. -/
  | eval (final : Bool) (n : Nat)
  /-- An 8-byte page-table entry, which stalls the walk below package scope only (R371). -/
  | entry
  /-- The words of a transaction about to commit, by offset: their values come back, and the home holds them for thread uid of the
  source until `commit` (R105). -/
  | lock (uid : Nat) (words : List Nat)
  /-- The bytes a commit writes, by offset and byte of the word; the words are held no longer (R105, R240). -/
  | commit (uid : Nat) (words : List (Nat × List (Nat × Byte)))
  | store (bytes : List Byte)
  /-- The lanes of one vector store that meet in one word, by byte of the word, as a single write (R228). -/
  | scatter (bytes : List (Nat × Byte))
  /-- The lanes of one vector atomic that meet in one word, in ascending order, with their operands (R92). -/
  | combined (op : AtomOp) (xs : List (Nat × Nat))
  /-- An atomic of n bytes; ret: it returns the old value; red: it is an `rred` (R348). -/
  | atomic (op : AtomOp) (n x y : Nat) (ret red : Bool)
  /-- A write that revokes a registration and is never a race: a completion word, a collective's buffer (R41, R359). -/
  | write (bytes : List Byte)
  deriving DecidableEq, Repr

/-- A packet of a flow (R342, R351, R354). off is the offset in the destination's export window (R369); cover lists
the (source package, first sequence, count) ranges of a merged packet. -/
structure Packet where
  src : Nat
  dst : Nat
  seq : Nat
  ctx : Nat
  owner : BitVec 32
  off : Nat
  req : Req
  window : Option Nat
  phase : Bool
  noMerge : Bool
  resync : Bool
  cover : List (Nat × Nat × Nat)
  /-- The issuing instruction, which the source keeps beside the packet (R392). -/
  pc : Word
  deriving DecidableEq, Repr

/-- What an acknowledgement carries back to the source (R343, R365, R369). -/
inductive Reply where
  | performed
  | value (v : Nat)
  /-- The old value each lane of a combined atomic found (R92), or of the words of a `lock` each value, 2^32 for a word refused, 2^32 + 1
  for one under an error. -/
  | values (vs : List Nat)
  /-- The home's export window refused the access (R369). -/
  | refused
  /-- A race at the home, with the required scope, the RSCOPE found and the owner (R86). -/
  | race (need found : Nat) (owner : BitVec 32)
  | poison
  deriving DecidableEq, Repr

/-- A packet that reaches the package at one of its ports (R345, R347). -/
structure Arrival where
  port : Nat
  packet : Packet
  deriving DecidableEq, Repr

/-- A line fill for a thread: the line of its next word, or (ahead) a later line that run-ahead fetch brings (R273, R374). -/
structure LineAsk where
  uid : Nat
  ahead : Nat
  deriving DecidableEq, Repr

/-- A request of a core (R385). kind 0: a part of an outstanding access, by thread, program-order number and place among the parts; 1: the
next element of a copy command, by core and command, its source (part 0) or destination; 2: a thread's instruction fetch; 3: a walk's
read, by thread, address and level; 4: a word of a collective's send buffer, by issuing thread and program-order number. -/
structure PartName where
  kind : Nat
  uid : Nat
  seq : Nat
  part : Nat
  deriving DecidableEq, Repr

/-- What the last training brings up: the capacities of the CXL ports (R411), the package's number (R11), and the elements each flow's
route passes (R344). -/
structure PortsUp where
  caps : List Nat
  /-- Host ports that train in PCIe mode (R411). -/
  pcie : List Bool
  pkg : Nat
  routes : List (Nat × List Nat)
  deriving DecidableEq, Repr

/-- The algorithms a host offers at a port (R419): signatures and hashes, as SPDM's bit masks (log 45). -/
structure AlgOffer where
  port : Nat
  asym : Nat
  hash : Nat
  deriving DecidableEq, Repr

/-- A gang's prepare message as a member receives it (R363). -/
structure GangMsg where
  key : Nat
  index : Nat
  ctx : Nat
  record : Nat
  deriving DecidableEq, Repr

/-- The send buffer of a collective's participant on another package, and whether its record differs (R359, R361). -/
structure CollPart where
  rank : Nat
  bytes : List Byte
  differs : Bool
  deriving DecidableEq, Repr

/-- What the service runtime sets when it creates a context (R422, R406, R272, R380). -/
structure CtxParams where
  ctx : Nat
  ptroot : Nat
  budget : Nat
  spillPages : Nat
  overPages : Nat
  privBytes : Nat
  privBase : Nat
  poolVa : Nat
  poolLen : Nat
  poolPages : List Nat
  handler : Nat
  faultRing : Nat
  faultSlots : Nat
  packages : List Nat
  deriving DecidableEq, Repr

/-- Why a word, or a sequence of bytes, is no instruction (R118). -/
inductive Reject where
  | tooFewBytes
  | illegalMajor
  | reservedF
  | nonzeroField
  | tripleRange
  | casPairRange
  | badImmediate
  | badOperationCode
  deriving DecidableEq, Repr

/-- The steps of the machine: one constructor per row of the opcode table. -/
inductive Instr where
  /-- ADD (R178). 64-bit add of two scalar registers, wrapping modulo 2^64. -/
  | add (d : Reg) (a : Reg) (b : Reg)
  /-- SUB (R178). 64-bit subtract of two scalar registers. -/
  | sub (d : Reg) (a : Reg) (b : Reg)
  /-- AND (R178). 64-bit bitwise AND. -/
  | and (d : Reg) (a : Reg) (b : Reg)
  /-- OR (R178). 64-bit bitwise OR. -/
  | or (d : Reg) (a : Reg) (b : Reg)
  /-- XOR (R178). 64-bit bitwise XOR. -/
  | xor (d : Reg) (a : Reg) (b : Reg)
  /-- ANDN (R178). 64-bit a AND NOT b. -/
  | andn (d : Reg) (a : Reg) (b : Reg)
  /-- SLL (R178). 64-bit logical left shift by b[5:0]. -/
  | sll (d : Reg) (a : Reg) (b : Reg)
  /-- SRL (R178). 64-bit logical right shift by b[5:0]. -/
  | srl (d : Reg) (a : Reg) (b : Reg)
  /-- SRA (R178). 64-bit arithmetic right shift by b[5:0]. -/
  | sra (d : Reg) (a : Reg) (b : Reg)
  /-- MIN (R178). Signed 64-bit minimum. -/
  | min (d : Reg) (a : Reg) (b : Reg)
  /-- MAX (R178). Signed 64-bit maximum. -/
  | max (d : Reg) (a : Reg) (b : Reg)
  /-- MINU (R178). Unsigned 64-bit minimum. -/
  | minu (d : Reg) (a : Reg) (b : Reg)
  /-- MAXU (R178). Unsigned 64-bit maximum. -/
  | maxu (d : Reg) (a : Reg) (b : Reg)
  /-- SLT (R178). Writes 1 if a < b signed, else 0. -/
  | slt (d : Reg) (a : Reg) (b : Reg)
  /-- SLTU (R178). Writes 1 if a < b unsigned, else 0. -/
  | sltu (d : Reg) (a : Reg) (b : Reg)
  /-- SEQ (R178). Writes 1 if a = b, else 0. -/
  | seq (d : Reg) (a : Reg) (b : Reg)
  /-- ADD_W (R179). 32-bit add of low halves, sign-extended. -/
  | addW (d : Reg) (a : Reg) (b : Reg)
  /-- SUB_W (R179). 32-bit subtract, sign-extended. -/
  | subW (d : Reg) (a : Reg) (b : Reg)
  /-- AND_W (R179). 32-bit AND, sign-extended. -/
  | andW (d : Reg) (a : Reg) (b : Reg)
  /-- OR_W (R179). 32-bit OR, sign-extended. -/
  | orW (d : Reg) (a : Reg) (b : Reg)
  /-- XOR_W (R179). 32-bit XOR, sign-extended. -/
  | xorW (d : Reg) (a : Reg) (b : Reg)
  /-- ANDN_W (R179). 32-bit a AND NOT b, sign-extended. -/
  | andnW (d : Reg) (a : Reg) (b : Reg)
  /-- SLL_W (R179). 32-bit left shift by y[4:0], sign-extended. -/
  | sllW (d : Reg) (a : Reg) (b : Reg)
  /-- SRL_W (R179). 32-bit logical right shift, sign-extended. -/
  | srlW (d : Reg) (a : Reg) (b : Reg)
  /-- SRA_W (R179). 32-bit arithmetic right shift, sign-extended. -/
  | sraW (d : Reg) (a : Reg) (b : Reg)
  /-- MIN_W (R179). Signed 32-bit minimum, sign-extended. -/
  | minW (d : Reg) (a : Reg) (b : Reg)
  /-- MAX_W (R179). Signed 32-bit maximum, sign-extended. -/
  | maxW (d : Reg) (a : Reg) (b : Reg)
  /-- MINU_W (R179). Unsigned 32-bit minimum, sign-extended. -/
  | minuW (d : Reg) (a : Reg) (b : Reg)
  /-- MAXU_W (R179). Unsigned 32-bit maximum, sign-extended. -/
  | maxuW (d : Reg) (a : Reg) (b : Reg)
  /-- SLT_W (R179). Signed 32-bit less-than. -/
  | sltW (d : Reg) (a : Reg) (b : Reg)
  /-- SLTU_W (R179). Unsigned 32-bit less-than. -/
  | sltuW (d : Reg) (a : Reg) (b : Reg)
  /-- SEQ_W (R179). 32-bit equality. -/
  | seqW (d : Reg) (a : Reg) (b : Reg)
  /-- MUL (R180). Low 64 bits of the product. -/
  | mul (d : Reg) (a : Reg) (b : Reg)
  /-- MULH (R180). High 64 bits of the signed product. -/
  | mulh (d : Reg) (a : Reg) (b : Reg)
  /-- MULHU (R180). High 64 bits of the unsigned product. -/
  | mulhu (d : Reg) (a : Reg) (b : Reg)
  /-- MULHM (R180). High 64 bits of signed-by-unsigned product. -/
  | mulhm (d : Reg) (a : Reg) (b : Reg)
  /-- DIV (R180). Signed 64-bit quotient, no trap on zero or overflow. -/
  | div (d : Reg) (a : Reg) (b : Reg)
  /-- DIVU (R180). Unsigned 64-bit quotient. -/
  | divu (d : Reg) (a : Reg) (b : Reg)
  /-- REM (R180). Signed 64-bit remainder. -/
  | rem (d : Reg) (a : Reg) (b : Reg)
  /-- REMU (R180). Unsigned 64-bit remainder. -/
  | remu (d : Reg) (a : Reg) (b : Reg)
  /-- MUL_W (R180). Sign-extended low 32 bits of the 32-bit product. -/
  | mulW (d : Reg) (a : Reg) (b : Reg)
  /-- DIV_W (R180). Signed 32-bit quotient, sign-extended. -/
  | divW (d : Reg) (a : Reg) (b : Reg)
  /-- DIVU_W (R180). Unsigned 32-bit quotient, sign-extended. -/
  | divuW (d : Reg) (a : Reg) (b : Reg)
  /-- REM_W (R180). Signed 32-bit remainder, sign-extended. -/
  | remW (d : Reg) (a : Reg) (b : Reg)
  /-- REMU_W (R180). Unsigned 32-bit remainder, sign-extended. -/
  | remuW (d : Reg) (a : Reg) (b : Reg)
  /-- CLZ (R181). Count leading zero bits. -/
  | clz (d : Reg) (a : Reg)
  /-- CTZ (R181). Count trailing zero bits. -/
  | ctz (d : Reg) (a : Reg)
  /-- POPC (R181). Count set bits. -/
  | popc (d : Reg) (a : Reg)
  /-- BSWAP (R181). Reverse the eight bytes. -/
  | bswap (d : Reg) (a : Reg)
  /-- BREV (R181). Reverse the 64 bits. -/
  | brev (d : Reg) (a : Reg)
  /-- SEXTB (R181). Sign-extend from 8 bits. -/
  | sextb (d : Reg) (a : Reg)
  /-- SEXTH (R181). Sign-extend from 16 bits. -/
  | sexth (d : Reg) (a : Reg)
  /-- SEXTW (R181). Sign-extend from 32 bits. -/
  | sextw (d : Reg) (a : Reg)
  /-- ZEXTB (R181). Zero-extend from 8 bits. -/
  | zextb (d : Reg) (a : Reg)
  /-- ZEXTH (R181). Zero-extend from 16 bits. -/
  | zexth (d : Reg) (a : Reg)
  /-- ZEXTW (R181). Zero-extend from 32 bits. -/
  | zextw (d : Reg) (a : Reg)
  /-- CSEL (R182). Selects a or b by whether the old destination is nonzero. -/
  | csel (d : Reg) (a : Reg) (b : Reg)
  /-- MAND3 (R183). Lane-wise AND of two mask triples. -/
  | mand3 (d : Reg) (a : Reg) (b : Reg)
  /-- MOR3 (R183). Lane-wise OR of two triples. -/
  | mor3 (d : Reg) (a : Reg) (b : Reg)
  /-- MANDN3 (R183). Lane-wise a AND NOT b of triples. -/
  | mandn3 (d : Reg) (a : Reg) (b : Reg)
  /-- MXOR3 (R183). Lane-wise XOR of triples. -/
  | mxor3 (d : Reg) (a : Reg) (b : Reg)
  /-- MNOT3 (R183). Lane-wise NOT of a triple. -/
  | mnot3 (d : Reg) (a : Reg)
  /-- MCNT3 (R183). Counts set lanes of a triple into a scalar. -/
  | mcnt3 (d : Reg) (a : Reg)
  /-- MFIRST3 (R183). Lowest set lane of a triple, or 96. -/
  | mfirst3 (d : Reg) (a : Reg)
  /-- ADDI (R184). Adds a sign-extended 11-bit immediate. -/
  | addi (d : Reg) (a : Reg) (i : BitVec 11)
  /-- ANDI (R184). ANDs a zero-extended immediate. -/
  | andi (d : Reg) (a : Reg) (i : BitVec 11)
  /-- ORI (R184). ORs a zero-extended immediate. -/
  | ori (d : Reg) (a : Reg) (i : BitVec 11)
  /-- XORI (R184). XORs a zero-extended immediate. -/
  | xori (d : Reg) (a : Reg) (i : BitVec 11)
  /-- SLTI (R184). Signed compare with a sign-extended immediate. -/
  | slti (d : Reg) (a : Reg) (i : BitVec 11)
  /-- SLTIU (R184). Unsigned compare with a sign-extended immediate. -/
  | sltiu (d : Reg) (a : Reg) (i : BitVec 11)
  /-- SLLI (R184). Left shift by an immediate 0 to 63. -/
  | slli (d : Reg) (a : Reg) (i : BitVec 6)
  /-- SRLI (R184). Logical right shift by an immediate. -/
  | srli (d : Reg) (a : Reg) (i : BitVec 6)
  /-- SRAI (R184). Arithmetic right shift by an immediate. -/
  | srai (d : Reg) (a : Reg) (i : BitVec 6)
  /-- ADDI_W (R184). 32-bit add of an immediate, sign-extended. -/
  | addiW (d : Reg) (a : Reg) (i : BitVec 11)
  /-- LDI (R185). Loads a sign-extended 18-bit immediate. -/
  | ldi (d : Reg) (i : BitVec 18)
  /-- LSH (R185). Shifts the destination left 18 and ORs in an immediate. -/
  | lsh (d : Reg) (i : BitVec 18)
  /-- PCADD (R185). Writes pc plus a scaled immediate. -/
  | pcadd (d : Reg) (i : BitVec 18)
  /-- BEQ (R186). Branches when two scalars are equal. -/
  | beq (a : Reg) (b : Reg) (x : BitVec 11)
  /-- BNE (R186). Branches when two scalars differ. -/
  | bne (a : Reg) (b : Reg) (x : BitVec 11)
  /-- BLT (R186). Branches on signed less-than. -/
  | blt (a : Reg) (b : Reg) (x : BitVec 11)
  /-- BGE (R186). Branches on signed greater-or-equal. -/
  | bge (a : Reg) (b : Reg) (x : BitVec 11)
  /-- BLTU (R186). Branches on unsigned less-than. -/
  | bltu (a : Reg) (b : Reg) (x : BitVec 11)
  /-- BGEU (R186). Branches on unsigned greater-or-equal. -/
  | bgeu (a : Reg) (b : Reg) (x : BitVec 11)
  /-- BNONE (R187). Branches when no lane bit of a triple is set. -/
  | bnone (t : Reg) (x : BitVec 11)
  /-- BANY (R187). Branches when any lane bit is set. -/
  | bany (t : Reg) (x : BitVec 11)
  /-- BALL (R187). Branches when all 96 lane bits are set. -/
  | ball (t : Reg) (x : BitVec 11)
  /-- J (R188). Jumps pc-relative. -/
  | jmp (x : BitVec 25)
  /-- JAL (R188). Jumps pc-relative and writes pc + 4 into s1. -/
  | jal (x : BitVec 25)
  /-- JALR (R114). Jumps to a register target and writes the link register. -/
  | jalr (d : Reg) (a : Reg)
  /-- WAITC (R191). Waits until the LD, ST and MX counters reach the given limits and delivers the oldest covered deferred trap. -/
  | waitc (l : Reg) (s : Reg) (m : Reg)
  /-- CSRR (R124). Reads a CSR into a scalar register. -/
  | csrr (d : Reg) (n : BitVec 11)
  /-- CSRW (R124). Writes a scalar register to a CSR under its access codes. -/
  | csrw (a : Reg) (n : BitVec 11)
  /-- VWIN (R195). Sets VBASE to 32 times the window index. -/
  | vwin (k : BitVec 11)
  /-- LB (R223). Loads a sign-extended byte. -/
  | lb (d : Reg) (a : Reg) (i : BitVec 11)
  /-- LBU (R223). Loads a zero-extended byte. -/
  | lbu (d : Reg) (a : Reg) (i : BitVec 11)
  /-- LH (R223). Loads a sign-extended half. -/
  | lh (d : Reg) (a : Reg) (i : BitVec 11)
  /-- LHU (R223). Loads a zero-extended half. -/
  | lhu (d : Reg) (a : Reg) (i : BitVec 11)
  /-- LW (R223). Loads a sign-extended word. -/
  | lw (d : Reg) (a : Reg) (i : BitVec 11)
  /-- LWU (R223). Loads a zero-extended word. -/
  | lwu (d : Reg) (a : Reg) (i : BitVec 11)
  /-- LD (R223). Loads a doubleword. -/
  | ld (d : Reg) (a : Reg) (i : BitVec 11)
  /-- SB (R223). Stores a byte. -/
  | sb (d : Reg) (a : Reg) (i : BitVec 11)
  /-- SH (R223). Stores a half. -/
  | sh (d : Reg) (a : Reg) (i : BitVec 11)
  /-- SW (R223). Stores a word. -/
  | sw (d : Reg) (a : Reg) (i : BitVec 11)
  /-- SD (R223). Stores a doubleword. -/
  | sd (d : Reg) (a : Reg) (i : BitVec 11)
  /-- LP (R224). Zero-extending load at base plus scaled index with a policy. -/
  | lp (d : Reg) (a : Reg) (b : Reg) (z : Size4) (p : Policy)
  /-- SP (R224). Store at base plus scaled index with a policy. -/
  | sp (d : Reg) (a : Reg) (b : Reg) (z : Size4) (p : Policy)
  /-- PF (R225). Prefetches a line into L1 or the home LLC without faulting or registering. -/
  | pf (l : PfLevel) (a : Reg) (i : BitVec 11)
  /-- HINT (R119). Any hint-space word executes as a no-op. -/
  | hint (h : BitVec 25)
  /-- VADD (R203). Lane-wise 32-bit add, vector B. -/
  | vadd (d : Reg) (a : Reg) (b : Reg)
  /-- VSUB (R203). Lane-wise subtract, vector B. -/
  | vsub (d : Reg) (a : Reg) (b : Reg)
  /-- VMUL (R203). Lane-wise low product, vector B. -/
  | vmul (d : Reg) (a : Reg) (b : Reg)
  /-- VMULH (R203). Lane-wise signed high product, vector B. -/
  | vmulh (d : Reg) (a : Reg) (b : Reg)
  /-- VMULHU (R203). Lane-wise unsigned high product, vector B. -/
  | vmulhu (d : Reg) (a : Reg) (b : Reg)
  /-- VAND (R203). Lane-wise AND, vector B. -/
  | vand (d : Reg) (a : Reg) (b : Reg)
  /-- VOR (R203). Lane-wise OR, vector B. -/
  | vor (d : Reg) (a : Reg) (b : Reg)
  /-- VXOR (R203). Lane-wise XOR, vector B. -/
  | vxor (d : Reg) (a : Reg) (b : Reg)
  /-- VSLL (R203). Lane-wise left shift, vector B. -/
  | vsll (d : Reg) (a : Reg) (b : Reg)
  /-- VSRL (R203). Lane-wise logical right shift, vector B. -/
  | vsrl (d : Reg) (a : Reg) (b : Reg)
  /-- VSRA (R203). Lane-wise arithmetic right shift, vector B. -/
  | vsra (d : Reg) (a : Reg) (b : Reg)
  /-- VMIN (R203). Lane-wise signed minimum, vector B. -/
  | vmin (d : Reg) (a : Reg) (b : Reg)
  /-- VMAX (R203). Lane-wise signed maximum, vector B. -/
  | vmax (d : Reg) (a : Reg) (b : Reg)
  /-- VMINU (R203). Lane-wise unsigned minimum, vector B. -/
  | vminu (d : Reg) (a : Reg) (b : Reg)
  /-- VMAXU (R203). Lane-wise unsigned maximum, vector B. -/
  | vmaxu (d : Reg) (a : Reg) (b : Reg)
  /-- VANDN (R203). Lane-wise AND NOT, vector B. -/
  | vandn (d : Reg) (a : Reg) (b : Reg)
  /-- VADD_S (R203). Lane-wise add, scalar B broadcast. -/
  | vaddS (d : Reg) (a : Reg) (b : Reg)
  /-- VSUB_S (R203). Lane-wise subtract, scalar B. -/
  | vsubS (d : Reg) (a : Reg) (b : Reg)
  /-- VMUL_S (R203). Lane-wise low product, scalar B. -/
  | vmulS (d : Reg) (a : Reg) (b : Reg)
  /-- VMULH_S (R203). Lane-wise signed high product, scalar B. -/
  | vmulhS (d : Reg) (a : Reg) (b : Reg)
  /-- VMULHU_S (R203). Lane-wise unsigned high product, scalar B. -/
  | vmulhuS (d : Reg) (a : Reg) (b : Reg)
  /-- VAND_S (R203). Lane-wise AND, scalar B. -/
  | vandS (d : Reg) (a : Reg) (b : Reg)
  /-- VOR_S (R203). Lane-wise OR, scalar B. -/
  | vorS (d : Reg) (a : Reg) (b : Reg)
  /-- VXOR_S (R203). Lane-wise XOR, scalar B. -/
  | vxorS (d : Reg) (a : Reg) (b : Reg)
  /-- VSLL_S (R203). Lane-wise left shift, scalar B. -/
  | vsllS (d : Reg) (a : Reg) (b : Reg)
  /-- VSRL_S (R203). Lane-wise logical right shift, scalar B. -/
  | vsrlS (d : Reg) (a : Reg) (b : Reg)
  /-- VSRA_S (R203). Lane-wise arithmetic right shift, scalar B. -/
  | vsraS (d : Reg) (a : Reg) (b : Reg)
  /-- VMIN_S (R203). Lane-wise signed minimum, scalar B. -/
  | vminS (d : Reg) (a : Reg) (b : Reg)
  /-- VMAX_S (R203). Lane-wise signed maximum, scalar B. -/
  | vmaxS (d : Reg) (a : Reg) (b : Reg)
  /-- VMINU_S (R203). Lane-wise unsigned minimum, scalar B. -/
  | vminuS (d : Reg) (a : Reg) (b : Reg)
  /-- VMAXU_S (R203). Lane-wise unsigned maximum, scalar B. -/
  | vmaxuS (d : Reg) (a : Reg) (b : Reg)
  /-- VANDN_S (R203). Lane-wise AND NOT, scalar B. -/
  | vandnS (d : Reg) (a : Reg) (b : Reg)
  /-- VABS (R204). Lane-wise absolute value. -/
  | vabs (d : Reg) (a : Reg)
  /-- VNEG (R204). Lane-wise negation. -/
  | vneg (d : Reg) (a : Reg)
  /-- VCLZ (R204). Lane-wise leading-zero count. -/
  | vclz (d : Reg) (a : Reg)
  /-- VPOPC (R204). Lane-wise population count. -/
  | vpopc (d : Reg) (a : Reg)
  /-- VBREV (R204). Lane-wise bit reverse. -/
  | vbrev (d : Reg) (a : Reg)
  /-- VBSWAP (R204). Lane-wise byte reverse. -/
  | vbswap (d : Reg) (a : Reg)
  /-- VSEXTB (R204). Lane-wise sign extension from 8 bits. -/
  | vsextb (d : Reg) (a : Reg)
  /-- VSEXTH (R204). Lane-wise sign extension from 16 bits. -/
  | vsexth (d : Reg) (a : Reg)
  /-- VZEXTB (R204). Lane-wise zero extension from 8 bits. -/
  | vzextb (d : Reg) (a : Reg)
  /-- VZEXTH (R204). Lane-wise zero extension from 16 bits. -/
  | vzexth (d : Reg) (a : Reg)
  /-- VNOT (R204). Lane-wise bitwise NOT. -/
  | vnot (d : Reg) (a : Reg)
  /-- VMAD (R205). Lane-wise multiply-add into the destination, vector B. -/
  | vmad (d : Reg) (a : Reg) (b : Reg)
  /-- VMSB (R205). Lane-wise multiply-subtract from the destination, vector B. -/
  | vmsb (d : Reg) (a : Reg) (b : Reg)
  /-- VMAD_S (R205). Multiply-add with scalar B. -/
  | vmadS (d : Reg) (a : Reg) (b : Reg)
  /-- VMSB_S (R205). Multiply-subtract with scalar B. -/
  | vmsbS (d : Reg) (a : Reg) (b : Reg)
  /-- VCMP_EQ (R206). Integer equality compare into a triple, vector B. -/
  | vcmpEq (d : Reg) (a : Reg) (b : Reg)
  /-- VCMP_NE (R206). Integer inequality compare, vector B. -/
  | vcmpNe (d : Reg) (a : Reg) (b : Reg)
  /-- VCMP_LT (R206). Signed less-than compare, vector B. -/
  | vcmpLt (d : Reg) (a : Reg) (b : Reg)
  /-- VCMP_LE (R206). Signed less-or-equal compare, vector B. -/
  | vcmpLe (d : Reg) (a : Reg) (b : Reg)
  /-- VCMP_LTU (R206). Unsigned less-than compare, vector B. -/
  | vcmpLtu (d : Reg) (a : Reg) (b : Reg)
  /-- VCMP_LEU (R206). Unsigned less-or-equal compare, vector B. -/
  | vcmpLeu (d : Reg) (a : Reg) (b : Reg)
  /-- VCMP_EQ_S (R206). Integer equality compare, scalar B. -/
  | vcmpEqS (d : Reg) (a : Reg) (b : Reg)
  /-- VCMP_NE_S (R206). Integer inequality compare, scalar B. -/
  | vcmpNeS (d : Reg) (a : Reg) (b : Reg)
  /-- VCMP_LT_S (R206). Signed less-than compare, scalar B. -/
  | vcmpLtS (d : Reg) (a : Reg) (b : Reg)
  /-- VCMP_LE_S (R206). Signed less-or-equal compare, scalar B. -/
  | vcmpLeS (d : Reg) (a : Reg) (b : Reg)
  /-- VCMP_LTU_S (R206). Unsigned less-than compare, scalar B. -/
  | vcmpLtuS (d : Reg) (a : Reg) (b : Reg)
  /-- VCMP_LEU_S (R206). Unsigned less-or-equal compare, scalar B. -/
  | vcmpLeuS (d : Reg) (a : Reg) (b : Reg)
  /-- VFADD (R207). FP32 add under FRM, vector B. -/
  | vfadd (d : Reg) (a : Reg) (b : Reg)
  /-- VFSUB (R207). FP32 subtract, vector B. -/
  | vfsub (d : Reg) (a : Reg) (b : Reg)
  /-- VFMUL (R207). FP32 multiply, vector B. -/
  | vfmul (d : Reg) (a : Reg) (b : Reg)
  /-- VFDIV (R207). FP32 divide, vector B. -/
  | vfdiv (d : Reg) (a : Reg) (b : Reg)
  /-- VFMIN (R207). FP32 minimum, vector B. -/
  | vfmin (d : Reg) (a : Reg) (b : Reg)
  /-- VFMAX (R207). FP32 maximum, vector B. -/
  | vfmax (d : Reg) (a : Reg) (b : Reg)
  /-- VFCSIGN (R207). Magnitude of x with the sign of y, vector B. -/
  | vfcsign (d : Reg) (a : Reg) (b : Reg)
  /-- VFNSIGN (R207). Magnitude of x with the inverted sign of y, vector B. -/
  | vfnsign (d : Reg) (a : Reg) (b : Reg)
  /-- VFADD_S (R207). FP32 add, scalar B. -/
  | vfaddS (d : Reg) (a : Reg) (b : Reg)
  /-- VFSUB_S (R207). FP32 subtract, scalar B. -/
  | vfsubS (d : Reg) (a : Reg) (b : Reg)
  /-- VFMUL_S (R207). FP32 multiply, scalar B. -/
  | vfmulS (d : Reg) (a : Reg) (b : Reg)
  /-- VFDIV_S (R207). FP32 divide, scalar B. -/
  | vfdivS (d : Reg) (a : Reg) (b : Reg)
  /-- VFMIN_S (R207). FP32 minimum, scalar B. -/
  | vfminS (d : Reg) (a : Reg) (b : Reg)
  /-- VFMAX_S (R207). FP32 maximum, scalar B. -/
  | vfmaxS (d : Reg) (a : Reg) (b : Reg)
  /-- VFCSIGN_S (R207). Copy sign, scalar B. -/
  | vfcsignS (d : Reg) (a : Reg) (b : Reg)
  /-- VFNSIGN_S (R207). Inverted copy sign, scalar B. -/
  | vfnsignS (d : Reg) (a : Reg) (b : Reg)
  /-- VFMA (R208). Fused x·y + d, vector B. -/
  | vfma (d : Reg) (a : Reg) (b : Reg)
  /-- VFMS (R208). Fused x·y − d, vector B. -/
  | vfms (d : Reg) (a : Reg) (b : Reg)
  /-- VFNMA (R208). Fused −(x·y) − d, vector B. -/
  | vfnma (d : Reg) (a : Reg) (b : Reg)
  /-- VFNMS (R208). Fused −(x·y) + d, vector B. -/
  | vfnms (d : Reg) (a : Reg) (b : Reg)
  /-- VFMA_S (R208). Fused multiply-add, scalar B. -/
  | vfmaS (d : Reg) (a : Reg) (b : Reg)
  /-- VFMS_S (R208). Fused multiply-subtract, scalar B. -/
  | vfmsS (d : Reg) (a : Reg) (b : Reg)
  /-- VFNMA_S (R208). Negated fused multiply-add, scalar B. -/
  | vfnmaS (d : Reg) (a : Reg) (b : Reg)
  /-- VFNMS_S (R208). Negated fused multiply-subtract, scalar B. -/
  | vfnmsS (d : Reg) (a : Reg) (b : Reg)
  /-- VFABS (R209). FP32 magnitude. -/
  | vfabs (d : Reg) (a : Reg)
  /-- VFNEG (R209). FP32 sign inversion. -/
  | vfneg (d : Reg) (a : Reg)
  /-- VFSQRT (R209). Correctly rounded square root. -/
  | vfsqrt (d : Reg) (a : Reg)
  /-- VEXP2 (R209). Correctly rounded 2^x. -/
  | vexp2 (d : Reg) (a : Reg)
  /-- VLOG2 (R209). Correctly rounded log2 x. -/
  | vlog2 (d : Reg) (a : Reg)
  /-- VRCP (R209). Correctly rounded reciprocal. -/
  | vrcp (d : Reg) (a : Reg)
  /-- VRSQ (R209). Correctly rounded reciprocal square root. -/
  | vrsq (d : Reg) (a : Reg)
  /-- VFRINT (R209). Rounds to an integral value under RM. -/
  | vfrint (d : Reg) (a : Reg)
  /-- VFCLASS (R210). Writes a class mask of each FP32 element. -/
  | vfclass (d : Reg) (a : Reg)
  /-- VFCMP_FEQ (R211). FP32 equality compare into a triple, vector B. -/
  | vfcmpFeq (d : Reg) (a : Reg) (b : Reg)
  /-- VFCMP_FLT (R211). FP32 less-than compare, vector B. -/
  | vfcmpFlt (d : Reg) (a : Reg) (b : Reg)
  /-- VFCMP_FLE (R211). FP32 less-or-equal compare, vector B. -/
  | vfcmpFle (d : Reg) (a : Reg) (b : Reg)
  /-- VFCMP_FUN (R211). FP32 unordered compare, vector B. -/
  | vfcmpFun (d : Reg) (a : Reg) (b : Reg)
  /-- VFCMP_FEQ_S (R211). FP32 equality compare, scalar B. -/
  | vfcmpFeqS (d : Reg) (a : Reg) (b : Reg)
  /-- VFCMP_FLT_S (R211). FP32 less-than compare, scalar B. -/
  | vfcmpFltS (d : Reg) (a : Reg) (b : Reg)
  /-- VFCMP_FLE_S (R211). FP32 less-or-equal compare, scalar B. -/
  | vfcmpFleS (d : Reg) (a : Reg) (b : Reg)
  /-- VFCMP_FUN_S (R211). FP32 unordered compare, scalar B. -/
  | vfcmpFunS (d : Reg) (a : Reg) (b : Reg)
  /-- VCVT_I32_F32 (R137). Converts FP32 to signed 32-bit integer. -/
  | vcvtI32F32 (d : Reg) (a : Reg)
  /-- VCVT_F32_I32 (R137). Converts signed integer to FP32. -/
  | vcvtF32I32 (d : Reg) (a : Reg)
  /-- VCVT_N32_F32 (R137). Converts FP32 to non-negative integer. -/
  | vcvtN32F32 (d : Reg) (a : Reg)
  /-- VCVT_F32_N32 (R137). Converts non-negative integer to FP32. -/
  | vcvtF32N32 (d : Reg) (a : Reg)
  /-- VCVT_BF16_F32 (R136). Narrows FP32 to BF16. -/
  | vcvtBf16F32 (d : Reg) (a : Reg)
  /-- VCVT_F32_BF16 (R136). Widens BF16 to FP32. -/
  | vcvtF32Bf16 (d : Reg) (a : Reg)
  /-- VCVT_F16_F32 (R136). Narrows FP32 to FP16. -/
  | vcvtF16F32 (d : Reg) (a : Reg)
  /-- VCVT_F32_F16 (R136). Widens FP16 to FP32. -/
  | vcvtF32F16 (d : Reg) (a : Reg)
  /-- VCVT_E4M3_F32 (R136). Narrows FP32 to E4M3 with saturation. -/
  | vcvtE4m3F32 (d : Reg) (a : Reg)
  /-- VCVT_F32_E4M3 (R136). Widens E4M3 to FP32. -/
  | vcvtF32E4m3 (d : Reg) (a : Reg)
  /-- VCVT_E5M2_F32 (R136). Narrows FP32 to E5M2. -/
  | vcvtE5m2F32 (d : Reg) (a : Reg)
  /-- VCVT_F32_E5M2 (R136). Widens E5M2 to FP32. -/
  | vcvtF32E5m2 (d : Reg) (a : Reg)
  /-- VCVT_BF16X2_F32 (R213). Packs two BF16 results per element from lanes 2j and 2j+1. -/
  | vcvtBf16x2F32 (d : Reg) (a : Reg)
  /-- VCVT_F16X2_F32 (R213). Packs two FP16 results per element. -/
  | vcvtF16x2F32 (d : Reg) (a : Reg)
  /-- VCVT_I8_I32 (R212). Clamps a signed 32-bit value to a byte. -/
  | vcvtI8I32 (d : Reg) (a : Reg)
  /-- VMOV (R214). Copies a vector register. -/
  | vmov (d : Reg) (a : Reg)
  /-- VBCS (R214). Broadcasts a scalar to active lanes. -/
  | vbcs (d : Reg) (a : Reg)
  /-- VEXT (R214). Extracts one lane into a scalar. -/
  | vext (d : Reg) (a : Reg) (b : Reg)
  /-- VINS (R214). Inserts a scalar into one active lane. -/
  | vins (d : Reg) (a : Reg) (b : Reg)
  /-- VLID (R214). Writes each lane's index. -/
  | vlid (d : Reg)
  /-- VPERM (R214). Permutes lanes by an index vector. -/
  | vperm (d : Reg) (a : Reg) (b : Reg)
  /-- VSLUP (R214). Slides elements up by a scalar count. -/
  | vslup (d : Reg) (a : Reg) (b : Reg)
  /-- VSLDN (R214). Slides elements down by a scalar count. -/
  | vsldn (d : Reg) (a : Reg) (b : Reg)
  /-- VMRG (R214). Interleaves the low halves of two registers. -/
  | vmrg (d : Reg) (a : Reg) (b : Reg)
  /-- VFREE (R214). Ends the liveness of an architectural vector register. -/
  | vfree (d : Reg)
  /-- VRADD (R215). Exact signed sum of active lanes into a scalar. -/
  | vradd (d : Reg) (a : Reg)
  /-- VRMIN (R215). Signed minimum of active lanes. -/
  | vrmin (d : Reg) (a : Reg)
  /-- VRMAX (R215). Signed maximum of active lanes. -/
  | vrmax (d : Reg) (a : Reg)
  /-- VRMINU (R215). Unsigned minimum of active lanes. -/
  | vrminu (d : Reg) (a : Reg)
  /-- VRMAXU (R215). Unsigned maximum of active lanes. -/
  | vrmaxu (d : Reg) (a : Reg)
  /-- VRAND (R215). AND of active lanes. -/
  | vrand (d : Reg) (a : Reg)
  /-- VROR (R215). OR of active lanes. -/
  | vror (d : Reg) (a : Reg)
  /-- VRXOR (R215). XOR of active lanes. -/
  | vrxor (d : Reg) (a : Reg)
  /-- VRFADD (R150). FP32 fixed-tree sum of active lanes. -/
  | vrfadd (d : Reg) (a : Reg)
  /-- VRFMIN (R215). FP32 minimum of active lanes. -/
  | vrfmin (d : Reg) (a : Reg)
  /-- VRFMAX (R215). FP32 maximum of active lanes. -/
  | vrfmax (d : Reg) (a : Reg)
  /-- VSADD (R216). Inclusive prefix sum over active lanes. -/
  | vsadd (d : Reg) (a : Reg)
  /-- VSADDX (R216). Exclusive prefix sum over active lanes. -/
  | vsaddx (d : Reg) (a : Reg)
  /-- VSFADD (R151). FP32 prefix sum in ascending lane order, RNE. -/
  | vsfadd (d : Reg) (a : Reg)
  /-- VSMAX (R216). Prefix signed maximum. -/
  | vsmax (d : Reg) (a : Reg)
  /-- VSMIN (R216). Prefix signed minimum. -/
  | vsmin (d : Reg) (a : Reg)
  /-- VHCRC (R217). Reflected CRC-32C of each element with a scalar seed. -/
  | vhcrc (d : Reg) (a : Reg) (b : Reg)
  /-- VHMIX (R217). Non-linear mix of two hash vectors. -/
  | vhmix (d : Reg) (a : Reg) (b : Reg)
  /-- VPART (R217). Takes the top k bits of each element. -/
  | vpart (d : Reg) (a : Reg) (b : Reg)
  /-- VBEQ (R217). Byte-string equality up to a's terminator into a triple. -/
  | vbeq (d : Reg) (a : Reg) (b : Reg)
  /-- VBFZ (R217). Index of each element's first zero byte. -/
  | vbfz (d : Reg) (a : Reg)
  /-- VBDIF (R217). Ordered first-byte difference of two chunks. -/
  | vbdif (d : Reg) (a : Reg) (b : Reg)
  /-- VHIST (R218). Writes each active lane's key rank and total. -/
  | vhist (d : Reg) (a : Reg)
  /-- VLD (R226). Strided vector load, one element per active lane. -/
  | vld (d : Reg) (a : Reg) (b : Reg) (z : Size3) (p : Policy)
  /-- VST (R226). Strided vector store. -/
  | vst (d : Reg) (a : Reg) (b : Reg) (z : Size3) (p : Policy)
  /-- VGTH (R227). Gather by per-lane byte offsets. -/
  | vgth (d : Reg) (a : Reg) (b : Reg) (z : Size3) (p : Policy)
  /-- VSCT (R227). Scatter by per-lane byte offsets, highest lane wins. -/
  | vsct (d : Reg) (a : Reg) (b : Reg) (z : Size3) (p : Policy)
  /-- VLL (R229). Strided local-store vector load. -/
  | vll (d : Reg) (a : Reg) (b : Reg) (z : Size3)
  /-- VSL (R229). Strided local-store vector store. -/
  | vsl (d : Reg) (a : Reg) (b : Reg) (z : Size3)
  /-- VLLG (R229). Local-store gather by per-lane offsets. -/
  | vllg (d : Reg) (a : Reg) (z : Size3)
  /-- VSLG (R229). Local-store scatter by per-lane offsets. -/
  | vslg (d : Reg) (a : Reg) (z : Size3)
  /-- AMO_ADD (R230). 32-bit atomic add at the word's performing place. -/
  | amoAdd (d : Reg) (a : Reg) (b : Reg)
  /-- AMO_AND (R230). 32-bit atomic AND. -/
  | amoAnd (d : Reg) (a : Reg) (b : Reg)
  /-- AMO_OR (R230). 32-bit atomic OR. -/
  | amoOr (d : Reg) (a : Reg) (b : Reg)
  /-- AMO_XOR (R230). 32-bit atomic XOR. -/
  | amoXor (d : Reg) (a : Reg) (b : Reg)
  /-- AMO_MIN (R230). 32-bit atomic signed minimum. -/
  | amoMin (d : Reg) (a : Reg) (b : Reg)
  /-- AMO_MAX (R230). 32-bit atomic signed maximum. -/
  | amoMax (d : Reg) (a : Reg) (b : Reg)
  /-- AMO_MINU (R230). 32-bit atomic unsigned minimum. -/
  | amoMinu (d : Reg) (a : Reg) (b : Reg)
  /-- AMO_MAXU (R230). 32-bit atomic unsigned maximum. -/
  | amoMaxu (d : Reg) (a : Reg) (b : Reg)
  /-- AMO_XCHG (R230). 32-bit atomic exchange. -/
  | amoXchg (d : Reg) (a : Reg) (b : Reg)
  /-- AMO_FADD (R230). 32-bit atomic FP32 add, RNE. -/
  | amoFadd (d : Reg) (a : Reg) (b : Reg)
  /-- AMO_CAS (R230). 32-bit atomic compare-and-swap. -/
  | amoCas (d : Reg) (a : Reg) (b : Reg)
  /-- AMO_D_ADD (R230). 64-bit atomic add. -/
  | amoDAdd (d : Reg) (a : Reg) (b : Reg)
  /-- AMO_D_AND (R230). 64-bit atomic AND. -/
  | amoDAnd (d : Reg) (a : Reg) (b : Reg)
  /-- AMO_D_OR (R230). 64-bit atomic OR. -/
  | amoDOr (d : Reg) (a : Reg) (b : Reg)
  /-- AMO_D_XOR (R230). 64-bit atomic XOR. -/
  | amoDXor (d : Reg) (a : Reg) (b : Reg)
  /-- AMO_D_MIN (R230). 64-bit atomic signed minimum. -/
  | amoDMin (d : Reg) (a : Reg) (b : Reg)
  /-- AMO_D_MAX (R230). 64-bit atomic signed maximum. -/
  | amoDMax (d : Reg) (a : Reg) (b : Reg)
  /-- AMO_D_MINU (R230). 64-bit atomic unsigned minimum. -/
  | amoDMinu (d : Reg) (a : Reg) (b : Reg)
  /-- AMO_D_MAXU (R230). 64-bit atomic unsigned maximum. -/
  | amoDMaxu (d : Reg) (a : Reg) (b : Reg)
  /-- AMO_D_XCHG (R230). 64-bit atomic exchange. -/
  | amoDXchg (d : Reg) (a : Reg) (b : Reg)
  /-- AMO_D_FADD (R230). 64-bit atomic FP64 add; refused on Seedbank words. -/
  | amoDFadd (d : Reg) (a : Reg) (b : Reg)
  /-- AMO_D_CAS (R230). 64-bit atomic compare-and-swap. -/
  | amoDCas (d : Reg) (a : Reg) (b : Reg)
  /-- VAMO_ADD (R232). Per-lane 32-bit atomic add, same-address lanes combined in lane order. -/
  | vamoAdd (d : Reg) (a : Reg) (b : Reg)
  /-- VAMO_AND (R232). Per-lane atomic AND. -/
  | vamoAnd (d : Reg) (a : Reg) (b : Reg)
  /-- VAMO_OR (R232). Per-lane atomic OR. -/
  | vamoOr (d : Reg) (a : Reg) (b : Reg)
  /-- VAMO_XOR (R232). Per-lane atomic XOR. -/
  | vamoXor (d : Reg) (a : Reg) (b : Reg)
  /-- VAMO_MIN (R232). Per-lane atomic signed minimum. -/
  | vamoMin (d : Reg) (a : Reg) (b : Reg)
  /-- VAMO_MAX (R232). Per-lane atomic signed maximum. -/
  | vamoMax (d : Reg) (a : Reg) (b : Reg)
  /-- VAMO_MINU (R232). Per-lane atomic unsigned minimum. -/
  | vamoMinu (d : Reg) (a : Reg) (b : Reg)
  /-- VAMO_MAXU (R232). Per-lane atomic unsigned maximum. -/
  | vamoMaxu (d : Reg) (a : Reg) (b : Reg)
  /-- VAMO_XCHG (R232). Per-lane atomic exchange. -/
  | vamoXchg (d : Reg) (a : Reg) (b : Reg)
  /-- VAMO_FADD (R232). Per-lane atomic FP32 add. -/
  | vamoFadd (d : Reg) (a : Reg) (b : Reg)
  /-- VAMO_CAS (R232). Per-lane atomic compare-and-swap. -/
  | vamoCas (d : Reg) (a : Reg) (b : Reg)
  /-- ACQ (R83). Acquire: invalidates Valid unregistered L1 words of the masked regions. -/
  | acq (a : Reg) (s : Scope)
  /-- REL (R82). Release: waits for earlier accesses and raises RSCOPE of the block's registered words. -/
  | rel (s : Scope)
  /-- FENCE (R104). Orders all earlier accesses before all later ones. -/
  | fence (s : Scope)
  /-- FENCE_SS (R104). Orders stores and atomics against later stores and atomics. -/
  | fenceSs (s : Scope)
  /-- FENCE_LL (R104). Orders loads and atomics against later loads and atomics. -/
  | fenceLl (s : Scope)
  /-- FENCE_IO (R104). Orders stores before later rred, coll and CXL writes, at system scope. -/
  | fenceIo (s : Scope)
  /-- IFENCE (R236). Waits for earlier acquires and discards the core's fetched instructions. -/
  | ifence
  /-- TXB (R237). Opens a lane transaction for the active lanes. -/
  | txb
  /-- TXE (R240). Commits the open lanes whose sets do not collide. -/
  | txe
  /-- TXA (R237). Aborts every active open lane with reason explicit. -/
  | txa
  /-- TXS (R237). Writes the committed triple. -/
  | txs (d : Reg)
  /-- WSLEEP_EQ (R242). Sleeps until a watched word equals the compare value or timeout. -/
  | wsleepEq (d : Reg) (a : Reg) (b : Reg)
  /-- WSLEEP_NE (R242). Sleeps until a watched word differs from the compare value. -/
  | wsleepNe (d : Reg) (a : Reg) (b : Reg)
  /-- WSLEEP_GE (R242). Sleeps until the word is signed greater-or-equal. -/
  | wsleepGe (d : Reg) (a : Reg) (b : Reg)
  /-- WSLEEP_GEU (R242). Sleeps until the word is unsigned greater-or-equal. -/
  | wsleepGeu (d : Reg) (a : Reg) (b : Reg)
  /-- BAR (R248). Block barrier: arrive and wait for every wave of the block. -/
  | bar
  /-- NBINIT (R253). Initialises a named barrier and releases its waiters as ABANDONED. -/
  | nbinit (a : Reg) (b : Reg)
  /-- NBEXP (R253). Adds to a named barrier's expected count and tests completion. -/
  | nbexp (a : Reg) (b : Reg)
  /-- NBARR (R253). Releases at block scope and arrives on a named barrier. -/
  | nbarr (a : Reg)
  /-- NBWAIT (R253). Waits for a named barrier's phase to change. -/
  | nbwait (d : Reg) (a : Reg)
  /-- NBTEST (R253). Reads a named barrier's value without waiting. -/
  | nbtest (d : Reg) (a : Reg)
  /-- TBARR (R256). One arrival on a Trellis identifier. -/
  | tbarr (a : Reg)
  /-- TBWAIT (R256). Waits for a Trellis generation change. -/
  | tbwait (d : Reg) (a : Reg)
  /-- TBAR (R256). Arrives on a Trellis identifier and waits. -/
  | tbar (d : Reg) (a : Reg)
  /-- LAUNCH (R257). Reads and validates a launch record and creates a task. -/
  | launch (d : Reg) (a : Reg)
  /-- LAUNCH_WAIT (R257). Launches a class-C task and waits for its end. -/
  | launchWait (d : Reg) (a : Reg)
  /-- EXIT (R258). Completes outstanding work and ends the wave. -/
  | exit
  /-- EXIT_SUCC (R258). Ends the wave; the last wave of a block starts a successor. -/
  | exitSucc (a : Reg)
  /-- YIELD (R259). Marks the wave not ready for a round or 64 cycles. -/
  | yield
  /-- QPUSH (R260). Copies local-store bytes into a stage queue's tail slot. -/
  | qpush (a : Reg) (b : Reg)
  /-- QPOP (R260). Copies a stage queue's head slot into local store. -/
  | qpop (a : Reg) (b : Reg)
  /-- QSTAT (R260). Reads a stage queue's status. -/
  | qstat (d : Reg) (a : Reg)
  /-- QSET (R261). Sets a role's quota per wave and FIXQ. -/
  | qset (d : Reg) (a : Reg) (b : Reg)
  /-- FORK (R264). Starts a Lattice and a Barrow command list together. -/
  | fork (a : Reg) (b : Reg)
  /-- RENDEZ_L (R265). Joins the Lattice list. -/
  | rendezL
  /-- RENDEZ_B (R265). Joins the Barrow list. -/
  | rendezB
  /-- RENDEZ_LB (R265). Joins both lists. -/
  | rendezLb
  /-- MMA (R324). Checks and queues a matrix multiply-accumulate into a tile. -/
  | mma (d : Reg) (a : Reg) (b : Reg) (g : BitVec 2) (o : Bool)
  /-- MMAG (R324). Checks and queues a gathered matrix multiply-accumulate. -/
  | mmag (d : Reg) (a : Reg) (b : Reg) (g : BitVec 2) (o : Bool)
  /-- TWSET (R325). Writes a tile's width register. -/
  | twset (d : Reg) (a : Reg) (b : Reg)
  /-- ACCALLOC (R327). Allocates a tile of 1 to 4 bands and returns its handle. -/
  | accalloc (d : Reg) (a : Reg) (b : Reg)
  /-- ACCFREE (R328). Waits for earlier tile work, frees the banks and bumps the generation. -/
  | accfree (a : Reg)
  /-- ACCZERO (R329). Queues a command that zeroes a tile and clears POISON. -/
  | acczero (a : Reg)
  /-- ACCCLAIM (R330). Claims or releases one band of a tile. -/
  | accclaim (a : Reg) (b : Reg)
  /-- ACCRD (R331). Reads tile elements into a vector after earlier commands. -/
  | accrd (d : Reg) (a : Reg) (b : Reg)
  /-- ACCRD_CLR (R331). Reads and clears tile elements indivisibly. -/
  | accrdClr (d : Reg) (a : Reg) (b : Reg)
  /-- ACCWR (R332). Queues a command writing a vector into tile elements. -/
  | accwr (d : Reg) (a : Reg) (b : Reg)
  /-- QNT (R335). Queues a Sieve quantisation of L FP32 values into planes. -/
  | qnt (d : Reg) (a : Reg) (b : Reg)
  /-- PLPACK (R336). Queues packing of vector elements into plane words. -/
  | plpack (a : Reg) (b : Reg)
  /-- PLUNP (R336). Queues unpacking of plane words into a vector. -/
  | plunp (d : Reg) (b : Reg)
  /-- CTLD (R278). Reads and loads a copy template into a template number. -/
  | ctld (a : Reg) (b : Reg)
  /-- COPY (R279). Checks and starts a Barrow copy counted by sectors. -/
  | copy (d : Reg) (a : Reg) (b : Reg) (o : Bool) (g : BitVec 2)
  /-- COPYM (R294). Starts a Barrow copy with a follow-on matrix block. -/
  | copym (d : Reg) (a : Reg) (b : Reg) (o : Bool) (g : BitVec 2)
  /-- SBRADD (R341). Reduces active lanes by add into one Seedbank word. -/
  | sbradd (a : Reg) (b : Reg)
  /-- SBRMIN (R341). Reduces by signed minimum into one Seedbank word. -/
  | sbrmin (a : Reg) (b : Reg)
  /-- SBRMAX (R341). Reduces by signed maximum into one Seedbank word. -/
  | sbrmax (a : Reg) (b : Reg)
  /-- SBRFADD (R341). Reduces by FP32 add into one Seedbank word. -/
  | sbrfadd (a : Reg) (b : Reg)
  /-- SBUADD (R341). Adds each lane into its own Seedbank word. -/
  | sbuadd (a : Reg) (b : Reg)
  /-- SBUMIN (R341). Per-lane signed minimum update of Seedbank words. -/
  | sbumin (a : Reg) (b : Reg)
  /-- SBUMAX (R341). Per-lane signed maximum update of Seedbank words. -/
  | sbumax (a : Reg) (b : Reg)
  /-- SBUFADD (R341). Per-lane FP32 add update of Seedbank words. -/
  | sbufadd (a : Reg) (b : Reg)
  /-- RRED_ADD (R348). Remote no-return 32-bit add at the word's home. -/
  | rredAdd (a : Reg) (b : Reg)
  /-- RRED_MIN (R348). Remote signed minimum. -/
  | rredMin (a : Reg) (b : Reg)
  /-- RRED_MAX (R348). Remote signed maximum. -/
  | rredMax (a : Reg) (b : Reg)
  /-- RRED_MINU (R348). Remote unsigned minimum. -/
  | rredMinu (a : Reg) (b : Reg)
  /-- RRED_MAXU (R348). Remote unsigned maximum. -/
  | rredMaxu (a : Reg) (b : Reg)
  /-- RRED_FADD (R348). Remote FP32 add, RNE. -/
  | rredFadd (a : Reg) (b : Reg)
  /-- RRED_ADD_D (R348). Remote 64-bit add. -/
  | rredAddD (a : Reg) (b : Reg)
  /-- RRED_OR (R348). Remote 32-bit OR. -/
  | rredOr (a : Reg) (b : Reg)
  /-- COLL (R358). Checks a collective record and joins the group's next collective. -/
  | coll (a : Reg) (b : Reg)
  /-- CQUIET (R355). Flips the phase bit and waits until the context is quiet for that phase. -/
  | cquiet (a : Reg)
  /-- GLAUNCH (R363). Prepares a gang on its members and begins or cancels it. -/
  | glaunch (d : Reg) (a : Reg)
  /-- GSTAT (R364). Reads the bitmap of gang members that have begun. -/
  | gstat (d : Reg) (a : Reg)
  /-- RWIN (R350). Declares or removes a reduction window. -/
  | rwin (a : Reg) (b : Reg)
  /-- TRAP (R267). Raises SOFTWARE_TRAP with TRAPINFO from a register. -/
  | trap (a : Reg)
  /-- SRET (R269). Leaves trap mode and resumes at TEPC. -/
  | sret
  /-- PGRES (R271). Resolves a translation fault with RETRY, EMULATED or ABORT. -/
  | pgres (a : Reg)
  /-- MAPU (R272). Maps a zeroed page from the context's pool. -/
  | mapu (d : Reg) (a : Reg) (b : Reg)
  /-- TLBINV (R272). Removes the context's translations for a range. -/
  | tlbinv (a : Reg) (b : Reg)
  /-- LANERD (R270). Reads a frozen register, element or CSR. -/
  | lanerd (d : Reg) (a : Reg) (b : Reg)
  /-- LANEWR (R270). Writes a frozen register, element or CSR. -/
  | lanewr (d : Reg) (a : Reg) (b : Reg)
  /-- PENDING_AGING_TICK (R49). Every 10 ms raises pending tasks' priority and hands out a free slot. -/
  | pendingAgingTick
  /-- BLOCK_PLACEMENT (R50). Dispatcher places the chosen task's next block when resources fit. -/
  | blockPlacement (die : Nat)
  /-- ROTATION (R46). Every 1 ms saves the earliest resident concurrent block and restores the longest waiting. -/
  | rotation (core : Nat)
  /-- STARVATION_BOOST (R48). A C wave ready 65,536 cycles without issue gets top priority once. -/
  | starvationBoost (uid : Nat)
  /-- STARVATION (R48). Logs a STARVATION event after 2^24 ready cycles without issue. -/
  | starvation (uid : Nat)
  /-- LOCALITY_SCORE_HALVING (R52). Every 4096 cycles halves every wave's locality score. -/
  | localityScoreHalving (core : Nat)
  /-- ALLOWANCE_STEP (R52). Every 1024 cycles steps the memory-issue allowance by the score sum. -/
  | allowanceStep (core : Nat)
  /-- ALLOWANCE_RESET (R52). Returns the allowance to 32 after 1024 idle cycles. -/
  | allowanceReset (core : Nat)
  /-- LATTICE_SEQUENCER_ROUND (R53). Deficit round-robin round issuing queued Lattice commands. -/
  | latticeSequencerRound (core : Nat)
  /-- QUEUE_EXTENSION (R55). Extends a stage queue from the overflow pool after 10,000 blocked cycles. -/
  | queueExtension (blk : Nat) (q : Nat)
  /-- WAIT_GRAPH_WALK (R56). Walks the block's wait graph to find deadlock cycles. -/
  | waitGraphWalk (blk : Nat)
  /-- QUOTA_MOVE (R59). Every 1024 cycles moves 8 registers between roles of a stalled queue. -/
  | quotaMove (blk : Nat) (q : Nat)
  /-- PREEMPTION (R383). Stops a block, drains its work and saves its state. -/
  | preemption (blk : Nat)
  /-- BLOCK_RESUME (R47). Restores a pre-empted block on a core that fits it. -/
  | blockResume (blk : Nat) (core : Nat)
  /-- BUDGET_WINDOW_START (R407). A new 10 ms budget window admits waiting blocks. -/
  | budgetWindowStart
  /-- ENERGY_CHARGE (R406). Every 10 us charges each context its drawn energy. -/
  | energyCharge (ctx : Nat) (nj : Nat)
  /-- CLOCK_PLANNER_STEP (R407). Every 1 ms lowers or raises the arithmetic clock by measured power. -/
  | clockPlannerStep (watts : Nat)
  /-- LOAD_COMPLETION (R189). A counted load's value returns to its destination and LD falls. -/
  | loadCompletion (uid : Nat) (seq : Nat) (parts : List Nat)
  /-- STORE_COMPLETION (R78). A counted store's registration is granted and written; ST falls. -/
  | storeCompletion (uid : Nat) (seq : Nat) (parts : List Nat)
  /-- ASYNCHRONOUS_TRAP_DELIVERY (R375). Delivers DIE_LOST, FABRIC_UNREACHABLE or a Barrow fault between instructions. -/
  | asynchronousTrapDelivery (uid : Nat)
  /-- REG_REQ (R78). A home receives a registration request and applies the race rule. -/
  | regReq (uid : Nat) (seq : Nat) (part : Nat)
  /-- REG_FWD (R86). An owner answers a forwarded request with its value and RSCOPE. -/
  | regFwd (uid : Nat) (seq : Nat) (part : Nat)
  /-- REG_REVOKE (R79). An owner writes back and drops a word on demand. -/
  | regRevoke (pa : Nat)
  /-- RACE_NAK (R86). A requester receives a refusal and records a pending race trap. -/
  | raceNak (uid : Nat) (seq : Nat) (part : Nat)
  /-- REG_XFER (R292). Barrow asks the home to move a sector's registration to a named agent. -/
  | regXfer (core : Nat) (cmd : Nat) (sector : Nat)
  /-- REG_ACK (R292). The receiver accepts a transfer and becomes owner at home. -/
  | regAck (core : Nat) (cmd : Nat) (sector : Nat)
  /-- L1_FILL (R84). A line returns from the home into L1, its words Valid. -/
  | l1Fill (core : Nat) (ctx : Nat) (va : Nat)
  /-- LLC_FILL (R408). Allocates an LLC line in the lowest free non-quarantined way. -/
  | llcFill (pa : Nat)
  /-- FETCH_FILL (R273). Fills the instruction buffers through L1 from the home. -/
  | fetchFill (r : LineAsk)
  /-- FETCH_RETRY (R274). Every 1 us retries an unfilled fetch word. -/
  | fetchRetry (uid : Nat)
  /-- PAGE_TABLE_WALK (R371). A walk ends with a translation or a fault outcome. -/
  | pageTableWalk (core : Nat) (ctx : Nat) (va : Nat)
  /-- FAULT_RESOLUTION_TIMEOUT (R380). A fault unresolved after 2^24 ticks terminates the context. -/
  | faultResolutionTimeout (ctx : Nat) (record : Nat)
  /-- WSLEEP_WAKE_EVENT (R243). A write at the watched place re-evaluates the sleeper's condition. -/
  | wsleepWakeEvent (uid : Nat)
  /-- WSLEEP_REEVALUATION (R243). Every 1 us re-evaluates when the table is full or RSCOPE is short. -/
  | wsleepReevaluation (uid : Nat)
  /-- WSLEEP_TIMEOUT (R242). The timeout ends the sleep with the last value read. -/
  | wsleepTimeout (uid : Nat)
  /-- TRELLIS_RELEASE (R256). 48 ns after the N-th arrival releases waiters and flips the generation. -/
  | trellisRelease (id : Nat)
  /-- LATTICE_COMMAND_PERFORMED (R317). A queued Lattice command is performed on its tile or planes. -/
  | latticeCommandPerformed (core : Nat) (uid : Nat) (bad : Bool)
  /-- LIST_COMMAND_RECORD (R263). An engine runs one command record of its list. -/
  | listCommandRecord (uid : Nat) (which : ListId)
  /-- LIST_END_RECORD (R263). The list ends once its issued commands complete. -/
  | listEndRecord (uid : Nat) (which : ListId)
  /-- LIST_LOOP_RECORD (R263). Runs the following body records COUNT times with strides. -/
  | listLoopRecord (uid : Nat) (which : ListId)
  /-- LIST_BASEA_RECORD (R263). Sets the Barrow list's A base. -/
  | listBaseaRecord (uid : Nat) (which : ListId)
  /-- LIST_BASEB_RECORD (R263). Sets the Barrow list's B base. -/
  | listBasebRecord (uid : Nat) (which : ListId)
  /-- SECTOR_DELIVERY (R286). A destination sector is fully written and counted on its barrier. -/
  | sectorDelivery (core : Nat) (cmd : Nat) (sector : Nat) (crcBad : Nat)
  /-- BARROW_TRANSLATION_FAULT (R298). A Barrow element's translation fault suspends the command. -/
  | barrowTranslationFault (core : Nat) (cmd : Nat)
  /-- FOLLOW_ON_END (R294). A finished follow-on block adds one arrival to its barrier. -/
  | followOnEnd (core : Nat) (cmd : Nat)
  /-- PACKET_DELIVERY (R345). A destination performs a flow's packet in sequence order once. -/
  | packetDelivery (p : Arrival)
  /-- ACKNOWLEDGEMENT (R343). A source frees a retry-buffer entry on acknowledgement. -/
  | acknowledgement (dst : Nat) (seq : Nat) (r : Reply)
  /-- ACK_TIMEOUT (R344). A packet unacknowledged 8 us declares its link or switch failed. -/
  | ackTimeout (dst : Nat) (elem : Nat)
  /-- LINK_CRC_FAILURE_REPORT (R344). A link partner's CRC failure report declares the element failed. -/
  | linkCrcFailureReport (elem : Nat)
  /-- FLOW_REROUTE (R344). A flow gets a new route and replays its unacknowledged packets. -/
  | flowReroute (dst : Nat) (route : List Nat)
  /-- LINK_RETRAIN (R347). A healthy declared element retrains and rejoins routes. -/
  | linkRetrain (elem : Nat)
  /-- FLOW_UNREACHABLE (R346). After 2 ms with no route, discards packets and traps the contexts. -/
  | flowUnreachable (dst : Nat)
  /-- SWITCH_MERGE (R351). A switch merges eligible rred packets into one entry. -/
  | switchMerge (sw : Nat) (p : Packet)
  /-- MERGE_ENTRY_FORWARD (R351). A switch forwards a merge entry when full, after 2 us, or when quiet. -/
  | mergeEntryForward (sw : Nat) (entry : Nat) (full : Bool)
  /-- MERGED_PACKET_RECEIPT (R352). A home performs or discards a merged packet. -/
  | mergedPacketReceipt (p : Arrival)
  /-- REPLAY_UNMERGED (R352). A source resends named packets with the no-merge bit. -/
  | replayUnmerged (dst : Nat) (seqs : List Nat)
  /-- PHASE_QUIET_REPORT (R354). A package or switch reports it is quiet for a phase. -/
  | phaseQuietReport (ctx : Nat) (ph : Bool) (unit : Nat)
  /-- GANG_PREPARE (R363). A member reads and validates the gang's launch record and reserves. -/
  | gangPrepare (g : GangMsg)
  /-- GANG_PREPARE_ANSWER (R363). The launcher receives a member's prepare status. -/
  | gangPrepareAnswer (slot : Nat) (member : Nat) (status : Nat)
  /-- GANG_PREPARE_TIMEOUT (R363). Members not OK within 100 ms cancel the gang. -/
  | gangPrepareTimeout (slot : Nat)
  /-- BEGIN (R363). A member places its gang blocks. -/
  | gangBegin (key : Nat)
  /-- CANCEL (R363). A member drops its gang reservation. -/
  | gangCancel (key : Nat)
  /-- BEGUN (R363). A member reports its first gang block started; with ended: that its gang blocks have ended, and how many
  count in ENDED. -/
  | gangBegun (slot : Nat) (member : Nat) (ended : Option Nat)
  /-- GANG_BEGIN_TIMEOUT (R363). A member silent 100 ms after BEGIN abandons the gang. -/
  | gangBeginTimeout (slot : Nat)
  /-- COLLECTIVE_COMPLETION (R359). A participant's part completes; its receive buffer is invalidated in L1 and its barrier counted. -/
  | collectiveCompletion (ctx : Nat) (group : Nat) (k : Nat) (rank : Nat) (order : List Nat) (far : List CollPart)
  /-- CROSS_DIE_TIMEOUT (R385). A cross-die request times out after 100 us and is resent by a second path. -/
  | crossDieTimeout (r : PartName)
  /-- REFERENCE_COUNTER_COMPARE (R385). Every 10 us compares each die's counter with the chiplet's. -/
  | referenceCounterCompare (first : Nat) (last : Nat)
  /-- DIECTL_GO (R402). Requests that a die drain and go offline. -/
  | diectlGo (die : Nat)
  /-- DIECTL_CANCEL (R401). Returns a DRAINING die to ONLINE. -/
  | diectlCancel (die : Nat)
  /-- DIE_DRAIN_COMPLETION (R402). The offline request ends done or refused. -/
  | dieDrainCompletion (die : Nat)
  /-- ERRINJ_GO (R405). Plants one error in the selected target. -/
  | errinjGo (v : Word)
  /-- LINKCTL_DOWN_SET (R347). Takes a package port down. -/
  | linkctlDownSet (port : Nat)
  /-- LINKCTL_DOWN_CLEAR (R347). Lets a port retrain and rejoin routes. -/
  | linkctlDownClear (port : Nat)
  /-- FSTAT_WRITE (R194). Waits for earlier vector instructions, then writes FSTAT. -/
  | fstatWrite (v : Word)
  /-- FRM_WRITE (R194). Waits for earlier vector instructions, then writes FRM. -/
  | frmWrite (v : Word)
  /-- MSTAT_CLEAR (R194). Clears MSTAT bits set at execution under W1C. -/
  | mstatClear (v : Word)
  /-- PATROL_SCRUB (R394). Reads LLC lines so each is read at least once every 100 ms. -/
  | patrolScrub (pa : Nat)
  /-- FILTER_CLEAR (R395). Clears the corrected-error filter every 24 hours. -/
  | filterClear
  /-- FREEZE (R403). Stops every clock and reference counter of the package. -/
  | freeze
  /-- THAW (R403). Restarts every clock in the same reference cycle. -/
  | thaw
  /-- TEST_PORT_READ (R403). Reads SRAM arrays and the scan chain while frozen. -/
  | testPortRead (what : Nat) (addr : Nat)
  /-- PWRGOOD (R417). Starts bring-up: oscillator lock and firmware verification. -/
  | pwrgood (sigOk : Bool) (images : List (List Byte)) (straps : List Nat) (fwd : List Nat)
  /-- UCIE_LINK_TRAINING (R417). Dies leave reset and UCIe links finish training. -/
  | ucieLinkTraining (ok : Bool) (images : List (List Byte))
  /-- TIER1_CHANNEL_TRAINING (R417). Tier-1 channels finish training. -/
  | tier1ChannelTraining (ok : Bool)
  /-- CXL_PORT_TRAINING (R411). Host and tier-2 ports train after HOSTSEL is read. -/
  | cxlPortTraining (hostsel : List Bool) (hosts : List Bool) (up : PortsUp)
  /-- HOST_CXL_MEM_READ (R412). A host read performed as an llc load by the bridge. -/
  | hostCxlMemRead (port : Nat) (pa : Nat) (n : Nat)
  /-- HOST_CXL_MEM_WRITE (R412). A host write registered to the bridge with RSCOPE 4. -/
  | hostCxlMemWrite (port : Nat) (pa : Nat) (bytes : List Byte)
  /-- HSTAT_CLEAR (R413). A host write clears HSTAT race bits under W1C. -/
  | hstatClear (v : Word)
  /-- GET_VERSION (R419). SPDM version request. -/
  | getVersion (port : Nat)
  /-- GET_CAPABILITIES (R419). SPDM capabilities request. -/
  | getCapabilities (port : Nat)
  /-- NEGOTIATE_ALGORITHMS (R419). SPDM algorithm negotiation. -/
  | negotiateAlgorithms (o : AlgOffer)
  /-- GET_DIGESTS (R419). SPDM certificate digest request. -/
  | getDigests (port : Nat)
  /-- GET_CERTIFICATE (R419). SPDM certificate chain request for slot 0. -/
  | getCertificate (port : Nat) (slot : Nat) (off : Nat) (len : Nat)
  /-- CHALLENGE (R419). SPDM challenge signed by the identity key. -/
  | challenge (port : Nat) (nonce : List Byte)
  /-- GET_MEASUREMENTS (R419). SPDM request for the eight measurement registers. -/
  | getMeasurements (port : Nat) (index : Nat) (nonce : List Byte)
  /-- ILLEGAL_INSTRUCTION (R118). A wave executes a word whose major is illegal or whose F value is reserved, and takes ILLEGAL_INSTRUCTION with no other effect. -/
  | illegalInstruction (w : W32)
  /-- PACKAGE_RESET (R417). RESET_N resets the package, returning every register to its Reset value, lost and offline dies, retired pages and quarantined ways included. -/
  | packageReset
  /-- HOST_PORT_LINK_DOWN (R411). A host port's link goes down after training, and accesses through that port wait. -/
  | hostPortLinkDown (port : Nat)
  /-- HOST_PORT_LINK_RETRAIN (R411). A host port's downed link retrains, and waiting accesses through that port proceed. -/
  | hostPortLinkRetrain (port : Nat)
  /-- CONTEXT_CREATION (R422). The service runtime creates a context, setting EBUDGET and the sizes of its spill and overflow pools. -/
  | contextCreation (p : CtxParams)
  /-- POOL_ENLARGEMENT (R422). The service runtime enlarges a running context's spill or overflow pool. -/
  | poolEnlargement (ctx : Nat) (spill : Nat) (ovf : Nat)
  /-- TRELLIS_IDENTIFIER_BINDING (R255). The service runtime binds a Trellis identifier to a context, its member tasks and an arrival count N. -/
  | trellisIdentifierBinding (id : Nat) (ctx : Nat) (tasks : List Nat) (n : Nat)
  /-- COLLECTIVE_GROUP_BINDING (R356). The service runtime binds a collective group number to a task or gang and a set of its blocks. -/
  | collectiveGroupBinding (ctx : Nat) (group : Nat) (owner : Nat) (blocks : List Nat)
  deriving DecidableEq, Repr

end Sys2Proof
end

