-- ==== Sys2Proof/WellFormed.lean ====
section
/-! DEFINITION. Which terms of Instr are instructions: the limits R111, R113 and R116 set on fields that a term of
the syntax could break. Every other field's type admits exactly the encodable values. -/

namespace Sys2Proof

/-- A triple names registers r, r + 1 and r + 2 (R111). -/
def tripleOk (r : Reg) : Bool := decide (r.toNat ≤ 125)

/-- A `cas` pair names registers r and r + 1 (R116). -/
def pairOk (r : Reg) : Bool := decide (r.toNat ≤ 126)

/-- The term is an instruction or an event of the machine. Every event is well formed. -/
def Instr.wf : Instr → Bool
  | .add .. => true
  | .sub .. => true
  | .and .. => true
  | .or .. => true
  | .xor .. => true
  | .andn .. => true
  | .sll .. => true
  | .srl .. => true
  | .sra .. => true
  | .min .. => true
  | .max .. => true
  | .minu .. => true
  | .maxu .. => true
  | .slt .. => true
  | .sltu .. => true
  | .seq .. => true
  | .addW .. => true
  | .subW .. => true
  | .andW .. => true
  | .orW .. => true
  | .xorW .. => true
  | .andnW .. => true
  | .sllW .. => true
  | .srlW .. => true
  | .sraW .. => true
  | .minW .. => true
  | .maxW .. => true
  | .minuW .. => true
  | .maxuW .. => true
  | .sltW .. => true
  | .sltuW .. => true
  | .seqW .. => true
  | .mul .. => true
  | .mulh .. => true
  | .mulhu .. => true
  | .mulhm .. => true
  | .div .. => true
  | .divu .. => true
  | .rem .. => true
  | .remu .. => true
  | .mulW .. => true
  | .divW .. => true
  | .divuW .. => true
  | .remW .. => true
  | .remuW .. => true
  | .clz .. => true
  | .ctz .. => true
  | .popc .. => true
  | .bswap .. => true
  | .brev .. => true
  | .sextb .. => true
  | .sexth .. => true
  | .sextw .. => true
  | .zextb .. => true
  | .zexth .. => true
  | .zextw .. => true
  | .csel .. => true
  | .mand3 d a b => tripleOk d && tripleOk a && tripleOk b
  | .mor3 d a b => tripleOk d && tripleOk a && tripleOk b
  | .mandn3 d a b => tripleOk d && tripleOk a && tripleOk b
  | .mxor3 d a b => tripleOk d && tripleOk a && tripleOk b
  | .mnot3 d a => tripleOk d && tripleOk a
  | .mcnt3 _ a => tripleOk a
  | .mfirst3 _ a => tripleOk a
  | .addi .. => true
  | .andi .. => true
  | .ori .. => true
  | .xori .. => true
  | .slti .. => true
  | .sltiu .. => true
  | .slli .. => true
  | .srli .. => true
  | .srai .. => true
  | .addiW .. => true
  | .ldi .. => true
  | .lsh .. => true
  | .pcadd .. => true
  | .beq .. => true
  | .bne .. => true
  | .blt .. => true
  | .bge .. => true
  | .bltu .. => true
  | .bgeu .. => true
  | .bnone t _ => tripleOk t
  | .bany t _ => tripleOk t
  | .ball t _ => tripleOk t
  | .jmp .. => true
  | .jal .. => true
  | .jalr .. => true
  | .waitc .. => true
  | .csrr .. => true
  | .csrw .. => true
  | .vwin k => decide (k.toNat ≤ 12)
  | .lb .. => true
  | .lbu .. => true
  | .lh .. => true
  | .lhu .. => true
  | .lw .. => true
  | .lwu .. => true
  | .ld .. => true
  | .sb .. => true
  | .sh .. => true
  | .sw .. => true
  | .sd .. => true
  | .lp .. => true
  | .sp .. => true
  | .pf .. => true
  | .hint .. => true
  | .vadd .. => true
  | .vsub .. => true
  | .vmul .. => true
  | .vmulh .. => true
  | .vmulhu .. => true
  | .vand .. => true
  | .vor .. => true
  | .vxor .. => true
  | .vsll .. => true
  | .vsrl .. => true
  | .vsra .. => true
  | .vmin .. => true
  | .vmax .. => true
  | .vminu .. => true
  | .vmaxu .. => true
  | .vandn .. => true
  | .vaddS .. => true
  | .vsubS .. => true
  | .vmulS .. => true
  | .vmulhS .. => true
  | .vmulhuS .. => true
  | .vandS .. => true
  | .vorS .. => true
  | .vxorS .. => true
  | .vsllS .. => true
  | .vsrlS .. => true
  | .vsraS .. => true
  | .vminS .. => true
  | .vmaxS .. => true
  | .vminuS .. => true
  | .vmaxuS .. => true
  | .vandnS .. => true
  | .vabs .. => true
  | .vneg .. => true
  | .vclz .. => true
  | .vpopc .. => true
  | .vbrev .. => true
  | .vbswap .. => true
  | .vsextb .. => true
  | .vsexth .. => true
  | .vzextb .. => true
  | .vzexth .. => true
  | .vnot .. => true
  | .vmad .. => true
  | .vmsb .. => true
  | .vmadS .. => true
  | .vmsbS .. => true
  | .vcmpEq d _ _ => tripleOk d
  | .vcmpNe d _ _ => tripleOk d
  | .vcmpLt d _ _ => tripleOk d
  | .vcmpLe d _ _ => tripleOk d
  | .vcmpLtu d _ _ => tripleOk d
  | .vcmpLeu d _ _ => tripleOk d
  | .vcmpEqS d _ _ => tripleOk d
  | .vcmpNeS d _ _ => tripleOk d
  | .vcmpLtS d _ _ => tripleOk d
  | .vcmpLeS d _ _ => tripleOk d
  | .vcmpLtuS d _ _ => tripleOk d
  | .vcmpLeuS d _ _ => tripleOk d
  | .vfadd .. => true
  | .vfsub .. => true
  | .vfmul .. => true
  | .vfdiv .. => true
  | .vfmin .. => true
  | .vfmax .. => true
  | .vfcsign .. => true
  | .vfnsign .. => true
  | .vfaddS .. => true
  | .vfsubS .. => true
  | .vfmulS .. => true
  | .vfdivS .. => true
  | .vfminS .. => true
  | .vfmaxS .. => true
  | .vfcsignS .. => true
  | .vfnsignS .. => true
  | .vfma .. => true
  | .vfms .. => true
  | .vfnma .. => true
  | .vfnms .. => true
  | .vfmaS .. => true
  | .vfmsS .. => true
  | .vfnmaS .. => true
  | .vfnmsS .. => true
  | .vfabs .. => true
  | .vfneg .. => true
  | .vfsqrt .. => true
  | .vexp2 .. => true
  | .vlog2 .. => true
  | .vrcp .. => true
  | .vrsq .. => true
  | .vfrint .. => true
  | .vfclass .. => true
  | .vfcmpFeq d _ _ => tripleOk d
  | .vfcmpFlt d _ _ => tripleOk d
  | .vfcmpFle d _ _ => tripleOk d
  | .vfcmpFun d _ _ => tripleOk d
  | .vfcmpFeqS d _ _ => tripleOk d
  | .vfcmpFltS d _ _ => tripleOk d
  | .vfcmpFleS d _ _ => tripleOk d
  | .vfcmpFunS d _ _ => tripleOk d
  | .vcvtI32F32 .. => true
  | .vcvtF32I32 .. => true
  | .vcvtN32F32 .. => true
  | .vcvtF32N32 .. => true
  | .vcvtBf16F32 .. => true
  | .vcvtF32Bf16 .. => true
  | .vcvtF16F32 .. => true
  | .vcvtF32F16 .. => true
  | .vcvtE4m3F32 .. => true
  | .vcvtF32E4m3 .. => true
  | .vcvtE5m2F32 .. => true
  | .vcvtF32E5m2 .. => true
  | .vcvtBf16x2F32 .. => true
  | .vcvtF16x2F32 .. => true
  | .vcvtI8I32 .. => true
  | .vmov .. => true
  | .vbcs .. => true
  | .vext .. => true
  | .vins .. => true
  | .vlid .. => true
  | .vperm .. => true
  | .vslup .. => true
  | .vsldn .. => true
  | .vmrg .. => true
  | .vfree .. => true
  | .vradd .. => true
  | .vrmin .. => true
  | .vrmax .. => true
  | .vrminu .. => true
  | .vrmaxu .. => true
  | .vrand .. => true
  | .vror .. => true
  | .vrxor .. => true
  | .vrfadd .. => true
  | .vrfmin .. => true
  | .vrfmax .. => true
  | .vsadd .. => true
  | .vsaddx .. => true
  | .vsfadd .. => true
  | .vsmax .. => true
  | .vsmin .. => true
  | .vhcrc .. => true
  | .vhmix .. => true
  | .vpart .. => true
  | .vbeq d _ _ => tripleOk d
  | .vbfz .. => true
  | .vbdif .. => true
  | .vhist .. => true
  | .vld .. => true
  | .vst .. => true
  | .vgth .. => true
  | .vsct .. => true
  | .vll .. => true
  | .vsl .. => true
  | .vllg .. => true
  | .vslg .. => true
  | .amoAdd .. => true
  | .amoAnd .. => true
  | .amoOr .. => true
  | .amoXor .. => true
  | .amoMin .. => true
  | .amoMax .. => true
  | .amoMinu .. => true
  | .amoMaxu .. => true
  | .amoXchg .. => true
  | .amoFadd .. => true
  | .amoCas _ _ b => pairOk b
  | .amoDAdd .. => true
  | .amoDAnd .. => true
  | .amoDOr .. => true
  | .amoDXor .. => true
  | .amoDMin .. => true
  | .amoDMax .. => true
  | .amoDMinu .. => true
  | .amoDMaxu .. => true
  | .amoDXchg .. => true
  | .amoDFadd .. => true
  | .amoDCas _ _ b => pairOk b
  | .vamoAdd .. => true
  | .vamoAnd .. => true
  | .vamoOr .. => true
  | .vamoXor .. => true
  | .vamoMin .. => true
  | .vamoMax .. => true
  | .vamoMinu .. => true
  | .vamoMaxu .. => true
  | .vamoXchg .. => true
  | .vamoFadd .. => true
  | .vamoCas d _ _ => pairOk d
  | .acq .. => true
  | .rel .. => true
  | .fence .. => true
  | .fenceSs .. => true
  | .fenceLl .. => true
  | .fenceIo .. => true
  | .ifence => true
  | .txb => true
  | .txe => true
  | .txa => true
  | .txs d => tripleOk d
  | .wsleepEq .. => true
  | .wsleepNe .. => true
  | .wsleepGe .. => true
  | .wsleepGeu .. => true
  | .bar => true
  | .nbinit .. => true
  | .nbexp .. => true
  | .nbarr .. => true
  | .nbwait .. => true
  | .nbtest .. => true
  | .tbarr .. => true
  | .tbwait .. => true
  | .tbar .. => true
  | .launch .. => true
  | .launchWait .. => true
  | .exit => true
  | .exitSucc .. => true
  | .yield => true
  | .qpush .. => true
  | .qpop .. => true
  | .qstat .. => true
  | .qset .. => true
  | .fork .. => true
  | .rendezL => true
  | .rendezB => true
  | .rendezLb => true
  | .mma .. => true
  | .mmag .. => true
  | .twset .. => true
  | .accalloc .. => true
  | .accfree .. => true
  | .acczero .. => true
  | .accclaim .. => true
  | .accrd .. => true
  | .accrdClr .. => true
  | .accwr .. => true
  | .qnt .. => true
  | .plpack .. => true
  | .plunp .. => true
  | .ctld .. => true
  | .copy .. => true
  | .copym .. => true
  | .sbradd .. => true
  | .sbrmin .. => true
  | .sbrmax .. => true
  | .sbrfadd .. => true
  | .sbuadd .. => true
  | .sbumin .. => true
  | .sbumax .. => true
  | .sbufadd .. => true
  | .rredAdd .. => true
  | .rredMin .. => true
  | .rredMax .. => true
  | .rredMinu .. => true
  | .rredMaxu .. => true
  | .rredFadd .. => true
  | .rredAddD .. => true
  | .rredOr .. => true
  | .coll .. => true
  | .cquiet .. => true
  | .glaunch .. => true
  | .gstat .. => true
  | .rwin .. => true
  | .trap .. => true
  | .sret => true
  | .pgres .. => true
  | .mapu .. => true
  | .tlbinv .. => true
  | .lanerd .. => true
  | .lanewr .. => true
  | .pendingAgingTick => true
  | .blockPlacement .. => true
  | .rotation .. => true
  | .starvationBoost .. => true
  | .starvation .. => true
  | .localityScoreHalving .. => true
  | .allowanceStep .. => true
  | .allowanceReset .. => true
  | .latticeSequencerRound .. => true
  | .queueExtension .. => true
  | .waitGraphWalk .. => true
  | .quotaMove .. => true
  | .preemption .. => true
  | .blockResume .. => true
  | .budgetWindowStart => true
  | .energyCharge .. => true
  | .clockPlannerStep .. => true
  | .loadCompletion .. => true
  | .storeCompletion .. => true
  | .asynchronousTrapDelivery .. => true
  | .regReq .. => true
  | .regFwd .. => true
  | .regRevoke .. => true
  | .raceNak .. => true
  | .regXfer .. => true
  | .regAck .. => true
  | .l1Fill .. => true
  | .llcFill .. => true
  | .fetchFill .. => true
  | .fetchRetry .. => true
  | .pageTableWalk .. => true
  | .faultResolutionTimeout .. => true
  | .wsleepWakeEvent .. => true
  | .wsleepReevaluation .. => true
  | .wsleepTimeout .. => true
  | .trellisRelease .. => true
  | .latticeCommandPerformed .. => true
  | .listCommandRecord .. => true
  | .listEndRecord .. => true
  | .listLoopRecord .. => true
  | .listBaseaRecord .. => true
  | .listBasebRecord .. => true
  | .sectorDelivery .. => true
  | .barrowTranslationFault .. => true
  | .followOnEnd .. => true
  | .packetDelivery .. => true
  | .acknowledgement .. => true
  | .ackTimeout .. => true
  | .linkCrcFailureReport .. => true
  | .flowReroute .. => true
  | .linkRetrain .. => true
  | .flowUnreachable .. => true
  | .switchMerge .. => true
  | .mergeEntryForward .. => true
  | .mergedPacketReceipt .. => true
  | .replayUnmerged .. => true
  | .phaseQuietReport .. => true
  | .gangPrepare .. => true
  | .gangPrepareAnswer .. => true
  | .gangPrepareTimeout .. => true
  | .gangBegin .. => true
  | .gangCancel .. => true
  | .gangBegun .. => true
  | .gangBeginTimeout .. => true
  | .collectiveCompletion .. => true
  | .crossDieTimeout .. => true
  | .referenceCounterCompare .. => true
  | .diectlGo .. => true
  | .diectlCancel .. => true
  | .dieDrainCompletion .. => true
  | .errinjGo .. => true
  | .linkctlDownSet .. => true
  | .linkctlDownClear .. => true
  | .fstatWrite .. => true
  | .frmWrite .. => true
  | .mstatClear .. => true
  | .patrolScrub .. => true
  | .filterClear => true
  | .freeze => true
  | .thaw => true
  | .testPortRead .. => true
  | .pwrgood .. => true
  | .ucieLinkTraining .. => true
  | .tier1ChannelTraining .. => true
  | .cxlPortTraining .. => true
  | .hostCxlMemRead .. => true
  | .hostCxlMemWrite .. => true
  | .hstatClear .. => true
  | .getVersion .. => true
  | .getCapabilities .. => true
  | .negotiateAlgorithms .. => true
  | .getDigests .. => true
  | .getCertificate .. => true
  | .challenge .. => true
  | .getMeasurements .. => true
  | .illegalInstruction .. => true
  | .packageReset => true
  | .hostPortLinkDown .. => true
  | .hostPortLinkRetrain .. => true
  | .contextCreation .. => true
  | .poolEnlargement .. => true
  | .trellisIdentifierBinding .. => true
  | .collectiveGroupBinding .. => true

end Sys2Proof
end

