-- ==== Sys2Proof/Decode.lean ====
section
/-! DEFINITION. The decoder of instruction words (R110 to R120): total on every word and on any bytes, each rejection
under its own name. After it the encoder, written from the same encoding tables. The compiled runtime has no tags for an
inductive of this many constructors, so what builds an Instr is marked noncomputable: the kernel evaluates it. -/

noncomputable section

namespace Sys2Proof

/-- Bits 6:0, the major opcode (R110). -/
def fOp (w : W32) : Nat := w.toNat % 128
/-- Bits 13:7: D, A' or LD. -/
def fD (w : W32) : Reg := BitVec.ofNat 7 (w.toNat / 2 ^ 7)
/-- Bits 20:14: A, B' or ST. -/
def fA (w : W32) : Reg := BitVec.ofNat 7 (w.toNat / 2 ^ 14)
/-- Bits 27:21: B or MX. -/
def fB (w : W32) : Reg := BitVec.ofNat 7 (w.toNat / 2 ^ 21)
/-- Bits 31:28: F. -/
def fF (w : W32) : Nat := w.toNat / 2 ^ 28
/-- Bits 31:21: IMM11. -/
def fI (w : W32) : BitVec 11 := BitVec.ofNat 11 (w.toNat / 2 ^ 21)
/-- Bits 31:21 of the BR format: OFF11. -/
def fO (w : W32) : BitVec 11 := BitVec.ofNat 11 (w.toNat / 2 ^ 21)
/-- Bits 31:14: IMM18. -/
def fU (w : W32) : BitVec 18 := BitVec.ofNat 18 (w.toNat / 2 ^ 14)
/-- Bits 31:7: OFF25 and the hint payload. -/
def fX (w : W32) : BitVec 25 := BitVec.ofNat 25 (w.toNat / 2 ^ 7)

def size4? : Nat → Option Size4
  | 0 => some .byte
  | 1 => some .half
  | 2 => some .word
  | _ => some .double

def size3? : Nat → Option Size3
  | 0 => some .byte
  | 1 => some .half
  | 2 => some .word
  | _ => none

def policy? : Nat → Option Policy
  | 0 => some .l1
  | 1 => some .llc
  | 2 => some .st
  | _ => none

/-- F bits 1:0 as a scope (R81). -/
def scopeOf (f : Nat) : Scope :=
  match f % 4 with
  | 0 => .blk
  | 1 => .die
  | 2 => .pkg
  | _ => .sys

/-- A field of kind 0 must be zero (R111, R118). -/
def zero (r : Reg) (k : Except Reject Instr) : Except Reject Instr := if r = 0 then k else .error .nonzeroField

/-- A triple field is at most 125 (R111). -/
def triple (r : Reg) (k : Except Reject Instr) : Except Reject Instr := if r.toNat ≤ 125 then k else .error .tripleRange

/-- The field of a `cas` pair is at most 126 (R116). -/
def casPair (r : Reg) (k : Except Reject Instr) : Except Reject Instr := if r.toNat ≤ 126 then k else .error .casPairRange

/-- Major 0x01 (R116). -/
def dec01 (w : W32) : Except Reject Instr :=
  match fF w with
  | 0 => .ok (.add (fD w) (fA w) (fB w))
  | 1 => .ok (.sub (fD w) (fA w) (fB w))
  | 2 => .ok (.and (fD w) (fA w) (fB w))
  | 3 => .ok (.or (fD w) (fA w) (fB w))
  | 4 => .ok (.xor (fD w) (fA w) (fB w))
  | 5 => .ok (.andn (fD w) (fA w) (fB w))
  | 6 => .ok (.sll (fD w) (fA w) (fB w))
  | 7 => .ok (.srl (fD w) (fA w) (fB w))
  | 8 => .ok (.sra (fD w) (fA w) (fB w))
  | 9 => .ok (.min (fD w) (fA w) (fB w))
  | 10 => .ok (.max (fD w) (fA w) (fB w))
  | 11 => .ok (.minu (fD w) (fA w) (fB w))
  | 12 => .ok (.maxu (fD w) (fA w) (fB w))
  | 13 => .ok (.slt (fD w) (fA w) (fB w))
  | 14 => .ok (.sltu (fD w) (fA w) (fB w))
  | 15 => .ok (.seq (fD w) (fA w) (fB w))
  | _ => .error .reservedF

/-- Major 0x02 (R116). -/
def dec02 (w : W32) : Except Reject Instr :=
  match fF w with
  | 0 => .ok (.addW (fD w) (fA w) (fB w))
  | 1 => .ok (.subW (fD w) (fA w) (fB w))
  | 2 => .ok (.andW (fD w) (fA w) (fB w))
  | 3 => .ok (.orW (fD w) (fA w) (fB w))
  | 4 => .ok (.xorW (fD w) (fA w) (fB w))
  | 5 => .ok (.andnW (fD w) (fA w) (fB w))
  | 6 => .ok (.sllW (fD w) (fA w) (fB w))
  | 7 => .ok (.srlW (fD w) (fA w) (fB w))
  | 8 => .ok (.sraW (fD w) (fA w) (fB w))
  | 9 => .ok (.minW (fD w) (fA w) (fB w))
  | 10 => .ok (.maxW (fD w) (fA w) (fB w))
  | 11 => .ok (.minuW (fD w) (fA w) (fB w))
  | 12 => .ok (.maxuW (fD w) (fA w) (fB w))
  | 13 => .ok (.sltW (fD w) (fA w) (fB w))
  | 14 => .ok (.sltuW (fD w) (fA w) (fB w))
  | 15 => .ok (.seqW (fD w) (fA w) (fB w))
  | _ => .error .reservedF

/-- Major 0x03 (R116). -/
def dec03 (w : W32) : Except Reject Instr :=
  match fF w with
  | 0 => .ok (.mul (fD w) (fA w) (fB w))
  | 1 => .ok (.mulh (fD w) (fA w) (fB w))
  | 2 => .ok (.mulhu (fD w) (fA w) (fB w))
  | 3 => .ok (.mulhm (fD w) (fA w) (fB w))
  | 4 => .ok (.div (fD w) (fA w) (fB w))
  | 5 => .ok (.divu (fD w) (fA w) (fB w))
  | 6 => .ok (.rem (fD w) (fA w) (fB w))
  | 7 => .ok (.remu (fD w) (fA w) (fB w))
  | 8 => .ok (.mulW (fD w) (fA w) (fB w))
  | 9 => .ok (.divW (fD w) (fA w) (fB w))
  | 10 => .ok (.divuW (fD w) (fA w) (fB w))
  | 11 => .ok (.remW (fD w) (fA w) (fB w))
  | 12 => .ok (.remuW (fD w) (fA w) (fB w))
  | _ => .error .reservedF

/-- Major 0x04 (R116). -/
def dec04 (w : W32) : Except Reject Instr :=
  match fF w with
  | 0 => zero (fB w) <| .ok (.clz (fD w) (fA w))
  | 1 => zero (fB w) <| .ok (.ctz (fD w) (fA w))
  | 2 => zero (fB w) <| .ok (.popc (fD w) (fA w))
  | 3 => zero (fB w) <| .ok (.bswap (fD w) (fA w))
  | 4 => zero (fB w) <| .ok (.brev (fD w) (fA w))
  | 5 => zero (fB w) <| .ok (.sextb (fD w) (fA w))
  | 6 => zero (fB w) <| .ok (.sexth (fD w) (fA w))
  | 7 => zero (fB w) <| .ok (.sextw (fD w) (fA w))
  | 8 => zero (fB w) <| .ok (.zextb (fD w) (fA w))
  | 9 => zero (fB w) <| .ok (.zexth (fD w) (fA w))
  | 10 => zero (fB w) <| .ok (.zextw (fD w) (fA w))
  | _ => .error .reservedF

/-- Major 0x05 (R116). -/
def dec05 (w : W32) : Except Reject Instr :=
  match fF w with
  | 0 => .ok (.csel (fD w) (fA w) (fB w))
  | _ => .error .reservedF

/-- Major 0x06 (R116). -/
def dec06 (w : W32) : Except Reject Instr :=
  match fF w with
  | 0 => triple (fD w) <| triple (fA w) <| triple (fB w) <| .ok (.mand3 (fD w) (fA w) (fB w))
  | 1 => triple (fD w) <| triple (fA w) <| triple (fB w) <| .ok (.mor3 (fD w) (fA w) (fB w))
  | 2 => triple (fD w) <| triple (fA w) <| triple (fB w) <| .ok (.mandn3 (fD w) (fA w) (fB w))
  | 3 => triple (fD w) <| triple (fA w) <| triple (fB w) <| .ok (.mxor3 (fD w) (fA w) (fB w))
  | 4 => zero (fB w) <| triple (fD w) <| triple (fA w) <| .ok (.mnot3 (fD w) (fA w))
  | 5 => zero (fB w) <| triple (fA w) <| .ok (.mcnt3 (fD w) (fA w))
  | 6 => zero (fB w) <| triple (fA w) <| .ok (.mfirst3 (fD w) (fA w))
  | _ => .error .reservedF

/-- Major 0x10 (R116). -/
def dec10 (w : W32) : Except Reject Instr := .ok (.addi (fD w) (fA w) (fI w))

/-- Major 0x11 (R116). -/
def dec11 (w : W32) : Except Reject Instr := .ok (.andi (fD w) (fA w) (fI w))

/-- Major 0x12 (R116). -/
def dec12 (w : W32) : Except Reject Instr := .ok (.ori (fD w) (fA w) (fI w))

/-- Major 0x13 (R116). -/
def dec13 (w : W32) : Except Reject Instr := .ok (.xori (fD w) (fA w) (fI w))

/-- Major 0x14 (R116). -/
def dec14 (w : W32) : Except Reject Instr := .ok (.slti (fD w) (fA w) (fI w))

/-- Major 0x15 (R116). -/
def dec15 (w : W32) : Except Reject Instr := .ok (.sltiu (fD w) (fA w) (fI w))

/-- Major 0x16 (R116). -/
def dec16 (w : W32) : Except Reject Instr := if (fI w).toNat < 64 then .ok (.slli (fD w) (fA w) ((fI w).setWidth 6)) else .error .badImmediate

/-- Major 0x17 (R116). -/
def dec17 (w : W32) : Except Reject Instr := if (fI w).toNat < 64 then .ok (.srli (fD w) (fA w) ((fI w).setWidth 6)) else .error .badImmediate

/-- Major 0x18 (R116). -/
def dec18 (w : W32) : Except Reject Instr := if (fI w).toNat < 64 then .ok (.srai (fD w) (fA w) ((fI w).setWidth 6)) else .error .badImmediate

/-- Major 0x19 (R116). -/
def dec19 (w : W32) : Except Reject Instr := .ok (.addiW (fD w) (fA w) (fI w))

/-- Major 0x1A (R116). -/
def dec1A (w : W32) : Except Reject Instr := .ok (.ldi (fD w) (fU w))

/-- Major 0x1B (R116). -/
def dec1B (w : W32) : Except Reject Instr := .ok (.lsh (fD w) (fU w))

/-- Major 0x1C (R116). -/
def dec1C (w : W32) : Except Reject Instr := .ok (.pcadd (fD w) (fU w))

/-- Major 0x20 (R116). -/
def dec20 (w : W32) : Except Reject Instr := .ok (.beq (fD w) (fA w) (fO w))

/-- Major 0x21 (R116). -/
def dec21 (w : W32) : Except Reject Instr := .ok (.bne (fD w) (fA w) (fO w))

/-- Major 0x22 (R116). -/
def dec22 (w : W32) : Except Reject Instr := .ok (.blt (fD w) (fA w) (fO w))

/-- Major 0x23 (R116). -/
def dec23 (w : W32) : Except Reject Instr := .ok (.bge (fD w) (fA w) (fO w))

/-- Major 0x24 (R116). -/
def dec24 (w : W32) : Except Reject Instr := .ok (.bltu (fD w) (fA w) (fO w))

/-- Major 0x25 (R116). -/
def dec25 (w : W32) : Except Reject Instr := .ok (.bgeu (fD w) (fA w) (fO w))

/-- Major 0x26 (R116). -/
def dec26 (w : W32) : Except Reject Instr := zero (fA w) <| triple (fD w) <| .ok (.bnone (fD w) (fO w))

/-- Major 0x27 (R116). -/
def dec27 (w : W32) : Except Reject Instr := zero (fA w) <| triple (fD w) <| .ok (.bany (fD w) (fO w))

/-- Major 0x28 (R116). -/
def dec28 (w : W32) : Except Reject Instr := zero (fA w) <| triple (fD w) <| .ok (.ball (fD w) (fO w))

/-- Major 0x29 (R116). -/
def dec29 (w : W32) : Except Reject Instr := .ok (.jmp (fX w))

/-- Major 0x2A (R116). -/
def dec2A (w : W32) : Except Reject Instr := .ok (.jal (fX w))

/-- Major 0x2B (R116). -/
def dec2B (w : W32) : Except Reject Instr :=
  match fF w with
  | 0 => zero (fB w) <| .ok (.jalr (fD w) (fA w))
  | _ => .error .reservedF

/-- Major 0x2C (R116). -/
def dec2C (w : W32) : Except Reject Instr := if fF w = 0 then .ok (.waitc (fD w) (fA w) (fB w)) else .error .reservedF

/-- Major 0x2D (R116). -/
def dec2D (w : W32) : Except Reject Instr := zero (fA w) <| .ok (.csrr (fD w) (fI w))

/-- Major 0x2E (R116). -/
def dec2E (w : W32) : Except Reject Instr := zero (fD w) <| .ok (.csrw (fA w) (fI w))

/-- Major 0x2F (R116). -/
def dec2F (w : W32) : Except Reject Instr := zero (fD w) <| zero (fA w) <| if (fI w).toNat ≤ 12 then .ok (.vwin (fI w)) else .error .badImmediate

/-- Major 0x30 (R116). -/
def dec30 (w : W32) : Except Reject Instr := .ok (.lb (fD w) (fA w) (fI w))

/-- Major 0x31 (R116). -/
def dec31 (w : W32) : Except Reject Instr := .ok (.lbu (fD w) (fA w) (fI w))

/-- Major 0x32 (R116). -/
def dec32 (w : W32) : Except Reject Instr := .ok (.lh (fD w) (fA w) (fI w))

/-- Major 0x33 (R116). -/
def dec33 (w : W32) : Except Reject Instr := .ok (.lhu (fD w) (fA w) (fI w))

/-- Major 0x34 (R116). -/
def dec34 (w : W32) : Except Reject Instr := .ok (.lw (fD w) (fA w) (fI w))

/-- Major 0x35 (R116). -/
def dec35 (w : W32) : Except Reject Instr := .ok (.lwu (fD w) (fA w) (fI w))

/-- Major 0x36 (R116). -/
def dec36 (w : W32) : Except Reject Instr := .ok (.ld (fD w) (fA w) (fI w))

/-- Major 0x37 (R116). -/
def dec37 (w : W32) : Except Reject Instr := .ok (.sb (fD w) (fA w) (fI w))

/-- Major 0x38 (R116). -/
def dec38 (w : W32) : Except Reject Instr := .ok (.sh (fD w) (fA w) (fI w))

/-- Major 0x39 (R116). -/
def dec39 (w : W32) : Except Reject Instr := .ok (.sw (fD w) (fA w) (fI w))

/-- Major 0x3A (R116). -/
def dec3A (w : W32) : Except Reject Instr := .ok (.sd (fD w) (fA w) (fI w))

/-- Major 0x3B (R116). -/
def dec3B (w : W32) : Except Reject Instr :=
  match size4? (fF w % 4), policy? (fF w / 4) with
  | some z, some p => .ok (.lp (fD w) (fA w) (fB w) z p)
  | _, _ => .error .reservedF

/-- Major 0x3C (R116). -/
def dec3C (w : W32) : Except Reject Instr :=
  match size4? (fF w % 4), policy? (fF w / 4) with
  | some z, some p => .ok (.sp (fD w) (fA w) (fB w) z p)
  | _, _ => .error .reservedF

/-- Major 0x3D (R116). -/
def dec3D (w : W32) : Except Reject Instr := if (fD w).toNat ≤ 1 then .ok (.pf (if fD w = 0 then .toL1 else .toLlc) (fA w) (fI w)) else .error .badOperationCode

/-- Major 0x3E (R116). -/
def dec3E (w : W32) : Except Reject Instr := .ok (.hint (fX w))

/-- Major 0x40 (R116). -/
def dec40 (w : W32) : Except Reject Instr :=
  match fF w with
  | 0 => .ok (.vadd (fD w) (fA w) (fB w))
  | 1 => .ok (.vsub (fD w) (fA w) (fB w))
  | 2 => .ok (.vmul (fD w) (fA w) (fB w))
  | 3 => .ok (.vmulh (fD w) (fA w) (fB w))
  | 4 => .ok (.vmulhu (fD w) (fA w) (fB w))
  | 5 => .ok (.vand (fD w) (fA w) (fB w))
  | 6 => .ok (.vor (fD w) (fA w) (fB w))
  | 7 => .ok (.vxor (fD w) (fA w) (fB w))
  | 8 => .ok (.vsll (fD w) (fA w) (fB w))
  | 9 => .ok (.vsrl (fD w) (fA w) (fB w))
  | 10 => .ok (.vsra (fD w) (fA w) (fB w))
  | 11 => .ok (.vmin (fD w) (fA w) (fB w))
  | 12 => .ok (.vmax (fD w) (fA w) (fB w))
  | 13 => .ok (.vminu (fD w) (fA w) (fB w))
  | 14 => .ok (.vmaxu (fD w) (fA w) (fB w))
  | 15 => .ok (.vandn (fD w) (fA w) (fB w))
  | _ => .error .reservedF

/-- Major 0x41 (R116). -/
def dec41 (w : W32) : Except Reject Instr :=
  match fF w with
  | 0 => .ok (.vaddS (fD w) (fA w) (fB w))
  | 1 => .ok (.vsubS (fD w) (fA w) (fB w))
  | 2 => .ok (.vmulS (fD w) (fA w) (fB w))
  | 3 => .ok (.vmulhS (fD w) (fA w) (fB w))
  | 4 => .ok (.vmulhuS (fD w) (fA w) (fB w))
  | 5 => .ok (.vandS (fD w) (fA w) (fB w))
  | 6 => .ok (.vorS (fD w) (fA w) (fB w))
  | 7 => .ok (.vxorS (fD w) (fA w) (fB w))
  | 8 => .ok (.vsllS (fD w) (fA w) (fB w))
  | 9 => .ok (.vsrlS (fD w) (fA w) (fB w))
  | 10 => .ok (.vsraS (fD w) (fA w) (fB w))
  | 11 => .ok (.vminS (fD w) (fA w) (fB w))
  | 12 => .ok (.vmaxS (fD w) (fA w) (fB w))
  | 13 => .ok (.vminuS (fD w) (fA w) (fB w))
  | 14 => .ok (.vmaxuS (fD w) (fA w) (fB w))
  | 15 => .ok (.vandnS (fD w) (fA w) (fB w))
  | _ => .error .reservedF

/-- Major 0x42 (R116). -/
def dec42 (w : W32) : Except Reject Instr :=
  match fF w with
  | 0 => zero (fB w) <| .ok (.vabs (fD w) (fA w))
  | 1 => zero (fB w) <| .ok (.vneg (fD w) (fA w))
  | 2 => zero (fB w) <| .ok (.vclz (fD w) (fA w))
  | 3 => zero (fB w) <| .ok (.vpopc (fD w) (fA w))
  | 4 => zero (fB w) <| .ok (.vbrev (fD w) (fA w))
  | 5 => zero (fB w) <| .ok (.vbswap (fD w) (fA w))
  | 6 => zero (fB w) <| .ok (.vsextb (fD w) (fA w))
  | 7 => zero (fB w) <| .ok (.vsexth (fD w) (fA w))
  | 8 => zero (fB w) <| .ok (.vzextb (fD w) (fA w))
  | 9 => zero (fB w) <| .ok (.vzexth (fD w) (fA w))
  | 10 => zero (fB w) <| .ok (.vnot (fD w) (fA w))
  | _ => .error .reservedF

/-- Major 0x43 (R116). -/
def dec43 (w : W32) : Except Reject Instr :=
  match fF w with
  | 0 => .ok (.vmad (fD w) (fA w) (fB w))
  | 1 => .ok (.vmsb (fD w) (fA w) (fB w))
  | 2 => .ok (.vmadS (fD w) (fA w) (fB w))
  | 3 => .ok (.vmsbS (fD w) (fA w) (fB w))
  | _ => .error .reservedF

/-- Major 0x44 (R116). -/
def dec44 (w : W32) : Except Reject Instr :=
  match fF w with
  | 0 => triple (fD w) <| .ok (.vcmpEq (fD w) (fA w) (fB w))
  | 1 => triple (fD w) <| .ok (.vcmpNe (fD w) (fA w) (fB w))
  | 2 => triple (fD w) <| .ok (.vcmpLt (fD w) (fA w) (fB w))
  | 3 => triple (fD w) <| .ok (.vcmpLe (fD w) (fA w) (fB w))
  | 4 => triple (fD w) <| .ok (.vcmpLtu (fD w) (fA w) (fB w))
  | 5 => triple (fD w) <| .ok (.vcmpLeu (fD w) (fA w) (fB w))
  | _ => .error .reservedF

/-- Major 0x45 (R116). -/
def dec45 (w : W32) : Except Reject Instr :=
  match fF w with
  | 0 => triple (fD w) <| .ok (.vcmpEqS (fD w) (fA w) (fB w))
  | 1 => triple (fD w) <| .ok (.vcmpNeS (fD w) (fA w) (fB w))
  | 2 => triple (fD w) <| .ok (.vcmpLtS (fD w) (fA w) (fB w))
  | 3 => triple (fD w) <| .ok (.vcmpLeS (fD w) (fA w) (fB w))
  | 4 => triple (fD w) <| .ok (.vcmpLtuS (fD w) (fA w) (fB w))
  | 5 => triple (fD w) <| .ok (.vcmpLeuS (fD w) (fA w) (fB w))
  | _ => .error .reservedF

/-- Major 0x46 (R116). -/
def dec46 (w : W32) : Except Reject Instr :=
  match fF w with
  | 0 => .ok (.vfadd (fD w) (fA w) (fB w))
  | 1 => .ok (.vfsub (fD w) (fA w) (fB w))
  | 2 => .ok (.vfmul (fD w) (fA w) (fB w))
  | 3 => .ok (.vfdiv (fD w) (fA w) (fB w))
  | 4 => .ok (.vfmin (fD w) (fA w) (fB w))
  | 5 => .ok (.vfmax (fD w) (fA w) (fB w))
  | 6 => .ok (.vfcsign (fD w) (fA w) (fB w))
  | 7 => .ok (.vfnsign (fD w) (fA w) (fB w))
  | _ => .error .reservedF

/-- Major 0x47 (R116). -/
def dec47 (w : W32) : Except Reject Instr :=
  match fF w with
  | 0 => .ok (.vfaddS (fD w) (fA w) (fB w))
  | 1 => .ok (.vfsubS (fD w) (fA w) (fB w))
  | 2 => .ok (.vfmulS (fD w) (fA w) (fB w))
  | 3 => .ok (.vfdivS (fD w) (fA w) (fB w))
  | 4 => .ok (.vfminS (fD w) (fA w) (fB w))
  | 5 => .ok (.vfmaxS (fD w) (fA w) (fB w))
  | 6 => .ok (.vfcsignS (fD w) (fA w) (fB w))
  | 7 => .ok (.vfnsignS (fD w) (fA w) (fB w))
  | _ => .error .reservedF

/-- Major 0x48 (R116). -/
def dec48 (w : W32) : Except Reject Instr :=
  match fF w with
  | 0 => .ok (.vfma (fD w) (fA w) (fB w))
  | 1 => .ok (.vfms (fD w) (fA w) (fB w))
  | 2 => .ok (.vfnma (fD w) (fA w) (fB w))
  | 3 => .ok (.vfnms (fD w) (fA w) (fB w))
  | 4 => .ok (.vfmaS (fD w) (fA w) (fB w))
  | 5 => .ok (.vfmsS (fD w) (fA w) (fB w))
  | 6 => .ok (.vfnmaS (fD w) (fA w) (fB w))
  | 7 => .ok (.vfnmsS (fD w) (fA w) (fB w))
  | _ => .error .reservedF

/-- Major 0x49 (R116). -/
def dec49 (w : W32) : Except Reject Instr :=
  match fF w with
  | 0 => zero (fB w) <| .ok (.vfabs (fD w) (fA w))
  | 1 => zero (fB w) <| .ok (.vfneg (fD w) (fA w))
  | 2 => zero (fB w) <| .ok (.vfsqrt (fD w) (fA w))
  | 3 => zero (fB w) <| .ok (.vexp2 (fD w) (fA w))
  | 4 => zero (fB w) <| .ok (.vlog2 (fD w) (fA w))
  | 5 => zero (fB w) <| .ok (.vrcp (fD w) (fA w))
  | 6 => zero (fB w) <| .ok (.vrsq (fD w) (fA w))
  | 7 => zero (fB w) <| .ok (.vfrint (fD w) (fA w))
  | 8 => zero (fB w) <| .ok (.vfclass (fD w) (fA w))
  | _ => .error .reservedF

/-- Major 0x4A (R116). -/
def dec4A (w : W32) : Except Reject Instr :=
  match fF w with
  | 0 => triple (fD w) <| .ok (.vfcmpFeq (fD w) (fA w) (fB w))
  | 1 => triple (fD w) <| .ok (.vfcmpFlt (fD w) (fA w) (fB w))
  | 2 => triple (fD w) <| .ok (.vfcmpFle (fD w) (fA w) (fB w))
  | 3 => triple (fD w) <| .ok (.vfcmpFun (fD w) (fA w) (fB w))
  | _ => .error .reservedF

/-- Major 0x4B (R116). -/
def dec4B (w : W32) : Except Reject Instr :=
  match fF w with
  | 0 => triple (fD w) <| .ok (.vfcmpFeqS (fD w) (fA w) (fB w))
  | 1 => triple (fD w) <| .ok (.vfcmpFltS (fD w) (fA w) (fB w))
  | 2 => triple (fD w) <| .ok (.vfcmpFleS (fD w) (fA w) (fB w))
  | 3 => triple (fD w) <| .ok (.vfcmpFunS (fD w) (fA w) (fB w))
  | _ => .error .reservedF

/-- Major 0x4C (R116). -/
def dec4C (w : W32) : Except Reject Instr :=
  match fF w with
  | 0 => zero (fB w) <| .ok (.vcvtI32F32 (fD w) (fA w))
  | 1 => zero (fB w) <| .ok (.vcvtF32I32 (fD w) (fA w))
  | 2 => zero (fB w) <| .ok (.vcvtN32F32 (fD w) (fA w))
  | 3 => zero (fB w) <| .ok (.vcvtF32N32 (fD w) (fA w))
  | 4 => zero (fB w) <| .ok (.vcvtBf16F32 (fD w) (fA w))
  | 5 => zero (fB w) <| .ok (.vcvtF32Bf16 (fD w) (fA w))
  | 6 => zero (fB w) <| .ok (.vcvtF16F32 (fD w) (fA w))
  | 7 => zero (fB w) <| .ok (.vcvtF32F16 (fD w) (fA w))
  | 8 => zero (fB w) <| .ok (.vcvtE4m3F32 (fD w) (fA w))
  | 9 => zero (fB w) <| .ok (.vcvtF32E4m3 (fD w) (fA w))
  | 10 => zero (fB w) <| .ok (.vcvtE5m2F32 (fD w) (fA w))
  | 11 => zero (fB w) <| .ok (.vcvtF32E5m2 (fD w) (fA w))
  | 12 => zero (fB w) <| .ok (.vcvtBf16x2F32 (fD w) (fA w))
  | 13 => zero (fB w) <| .ok (.vcvtF16x2F32 (fD w) (fA w))
  | 14 => zero (fB w) <| .ok (.vcvtI8I32 (fD w) (fA w))
  | _ => .error .reservedF

/-- Major 0x4D (R116). -/
def dec4D (w : W32) : Except Reject Instr :=
  match fF w with
  | 0 => zero (fB w) <| .ok (.vmov (fD w) (fA w))
  | 1 => zero (fB w) <| .ok (.vbcs (fD w) (fA w))
  | 2 => .ok (.vext (fD w) (fA w) (fB w))
  | 3 => .ok (.vins (fD w) (fA w) (fB w))
  | 4 => zero (fA w) <| zero (fB w) <| .ok (.vlid (fD w))
  | 5 => .ok (.vperm (fD w) (fA w) (fB w))
  | 6 => .ok (.vslup (fD w) (fA w) (fB w))
  | 7 => .ok (.vsldn (fD w) (fA w) (fB w))
  | 8 => .ok (.vmrg (fD w) (fA w) (fB w))
  | 9 => zero (fA w) <| zero (fB w) <| .ok (.vfree (fD w))
  | _ => .error .reservedF

/-- Major 0x4E (R116). -/
def dec4E (w : W32) : Except Reject Instr :=
  match fF w with
  | 0 => zero (fB w) <| .ok (.vradd (fD w) (fA w))
  | 1 => zero (fB w) <| .ok (.vrmin (fD w) (fA w))
  | 2 => zero (fB w) <| .ok (.vrmax (fD w) (fA w))
  | 3 => zero (fB w) <| .ok (.vrminu (fD w) (fA w))
  | 4 => zero (fB w) <| .ok (.vrmaxu (fD w) (fA w))
  | 5 => zero (fB w) <| .ok (.vrand (fD w) (fA w))
  | 6 => zero (fB w) <| .ok (.vror (fD w) (fA w))
  | 7 => zero (fB w) <| .ok (.vrxor (fD w) (fA w))
  | 8 => zero (fB w) <| .ok (.vrfadd (fD w) (fA w))
  | 9 => zero (fB w) <| .ok (.vrfmin (fD w) (fA w))
  | 10 => zero (fB w) <| .ok (.vrfmax (fD w) (fA w))
  | _ => .error .reservedF

/-- Major 0x4F (R116). -/
def dec4F (w : W32) : Except Reject Instr :=
  match fF w with
  | 0 => zero (fB w) <| .ok (.vsadd (fD w) (fA w))
  | 1 => zero (fB w) <| .ok (.vsaddx (fD w) (fA w))
  | 2 => zero (fB w) <| .ok (.vsfadd (fD w) (fA w))
  | 3 => zero (fB w) <| .ok (.vsmax (fD w) (fA w))
  | 4 => zero (fB w) <| .ok (.vsmin (fD w) (fA w))
  | _ => .error .reservedF

/-- Major 0x50 (R116). -/
def dec50 (w : W32) : Except Reject Instr :=
  match fF w with
  | 0 => .ok (.vhcrc (fD w) (fA w) (fB w))
  | 1 => .ok (.vhmix (fD w) (fA w) (fB w))
  | 2 => .ok (.vpart (fD w) (fA w) (fB w))
  | 3 => triple (fD w) <| .ok (.vbeq (fD w) (fA w) (fB w))
  | 4 => zero (fB w) <| .ok (.vbfz (fD w) (fA w))
  | 5 => .ok (.vbdif (fD w) (fA w) (fB w))
  | _ => .error .reservedF

/-- Major 0x51 (R116). -/
def dec51 (w : W32) : Except Reject Instr :=
  match fF w with
  | 0 => zero (fB w) <| .ok (.vhist (fD w) (fA w))
  | _ => .error .reservedF

/-- Major 0x54 (R116). -/
def dec54 (w : W32) : Except Reject Instr :=
  match size3? (fF w % 4), policy? (fF w / 4) with
  | some z, some p => .ok (.vld (fD w) (fA w) (fB w) z p)
  | _, _ => .error .reservedF

/-- Major 0x55 (R116). -/
def dec55 (w : W32) : Except Reject Instr :=
  match size3? (fF w % 4), policy? (fF w / 4) with
  | some z, some p => .ok (.vst (fD w) (fA w) (fB w) z p)
  | _, _ => .error .reservedF

/-- Major 0x56 (R116). -/
def dec56 (w : W32) : Except Reject Instr :=
  match size3? (fF w % 4), policy? (fF w / 4) with
  | some z, some p => .ok (.vgth (fD w) (fA w) (fB w) z p)
  | _, _ => .error .reservedF

/-- Major 0x57 (R116). -/
def dec57 (w : W32) : Except Reject Instr :=
  match size3? (fF w % 4), policy? (fF w / 4) with
  | some z, some p => .ok (.vsct (fD w) (fA w) (fB w) z p)
  | _, _ => .error .reservedF

/-- Major 0x58 (R116). -/
def dec58 (w : W32) : Except Reject Instr :=
  if 4 ≤ fF w then .error .reservedF else
  match size3? (fF w % 4) with
  | some z => .ok (.vll (fD w) (fA w) (fB w) z)
  | none => .error .reservedF

/-- Major 0x59 (R116). -/
def dec59 (w : W32) : Except Reject Instr :=
  if 4 ≤ fF w then .error .reservedF else
  match size3? (fF w % 4) with
  | some z => .ok (.vsl (fD w) (fA w) (fB w) z)
  | none => .error .reservedF

/-- Major 0x5A (R116). -/
def dec5A (w : W32) : Except Reject Instr :=
  if 4 ≤ fF w then .error .reservedF else
  match size3? (fF w % 4) with
  | some z => zero (fB w) <| .ok (.vllg (fD w) (fA w) z)
  | none => .error .reservedF

/-- Major 0x5B (R116). -/
def dec5B (w : W32) : Except Reject Instr :=
  if 4 ≤ fF w then .error .reservedF else
  match size3? (fF w % 4) with
  | some z => zero (fB w) <| .ok (.vslg (fD w) (fA w) z)
  | none => .error .reservedF

/-- Major 0x5C (R116). -/
def dec5C (w : W32) : Except Reject Instr :=
  match fF w with
  | 0 => .ok (.amoAdd (fD w) (fA w) (fB w))
  | 1 => .ok (.amoAnd (fD w) (fA w) (fB w))
  | 2 => .ok (.amoOr (fD w) (fA w) (fB w))
  | 3 => .ok (.amoXor (fD w) (fA w) (fB w))
  | 4 => .ok (.amoMin (fD w) (fA w) (fB w))
  | 5 => .ok (.amoMax (fD w) (fA w) (fB w))
  | 6 => .ok (.amoMinu (fD w) (fA w) (fB w))
  | 7 => .ok (.amoMaxu (fD w) (fA w) (fB w))
  | 8 => .ok (.amoXchg (fD w) (fA w) (fB w))
  | 9 => .ok (.amoFadd (fD w) (fA w) (fB w))
  | 10 => casPair (fB w) <| .ok (.amoCas (fD w) (fA w) (fB w))
  | _ => .error .reservedF

/-- Major 0x5D (R116). -/
def dec5D (w : W32) : Except Reject Instr :=
  match fF w with
  | 0 => .ok (.amoDAdd (fD w) (fA w) (fB w))
  | 1 => .ok (.amoDAnd (fD w) (fA w) (fB w))
  | 2 => .ok (.amoDOr (fD w) (fA w) (fB w))
  | 3 => .ok (.amoDXor (fD w) (fA w) (fB w))
  | 4 => .ok (.amoDMin (fD w) (fA w) (fB w))
  | 5 => .ok (.amoDMax (fD w) (fA w) (fB w))
  | 6 => .ok (.amoDMinu (fD w) (fA w) (fB w))
  | 7 => .ok (.amoDMaxu (fD w) (fA w) (fB w))
  | 8 => .ok (.amoDXchg (fD w) (fA w) (fB w))
  | 9 => .ok (.amoDFadd (fD w) (fA w) (fB w))
  | 10 => casPair (fB w) <| .ok (.amoDCas (fD w) (fA w) (fB w))
  | _ => .error .reservedF

/-- Major 0x5E (R116). -/
def dec5E (w : W32) : Except Reject Instr :=
  match fF w with
  | 0 => .ok (.vamoAdd (fD w) (fA w) (fB w))
  | 1 => .ok (.vamoAnd (fD w) (fA w) (fB w))
  | 2 => .ok (.vamoOr (fD w) (fA w) (fB w))
  | 3 => .ok (.vamoXor (fD w) (fA w) (fB w))
  | 4 => .ok (.vamoMin (fD w) (fA w) (fB w))
  | 5 => .ok (.vamoMax (fD w) (fA w) (fB w))
  | 6 => .ok (.vamoMinu (fD w) (fA w) (fB w))
  | 7 => .ok (.vamoMaxu (fD w) (fA w) (fB w))
  | 8 => .ok (.vamoXchg (fD w) (fA w) (fB w))
  | 9 => .ok (.vamoFadd (fD w) (fA w) (fB w))
  | 10 => casPair (fD w) <| .ok (.vamoCas (fD w) (fA w) (fB w))
  | _ => .error .reservedF

/-- Major 0x60 (R116). -/
def dec60 (w : W32) : Except Reject Instr := if fF w < 4 then zero (fD w) <| zero (fB w) <| .ok (.acq (fA w) (scopeOf (fF w))) else .error .reservedF

/-- Major 0x61 (R116). -/
def dec61 (w : W32) : Except Reject Instr := if fF w < 4 then zero (fD w) <| zero (fA w) <| zero (fB w) <| .ok (.rel (scopeOf (fF w))) else .error .reservedF

/-- Major 0x62 (R116). -/
def dec62 (w : W32) : Except Reject Instr :=
  match fF w / 4 with
  | 0 => zero (fD w) <| zero (fA w) <| zero (fB w) <| .ok (.fence (scopeOf (fF w)))
  | 1 => zero (fD w) <| zero (fA w) <| zero (fB w) <| .ok (.fenceSs (scopeOf (fF w)))
  | 2 => zero (fD w) <| zero (fA w) <| zero (fB w) <| .ok (.fenceLl (scopeOf (fF w)))
  | 3 => zero (fD w) <| zero (fA w) <| zero (fB w) <| .ok (.fenceIo (scopeOf (fF w)))
  | _ => .error .reservedF

/-- Major 0x63 (R116). -/
def dec63 (w : W32) : Except Reject Instr :=
  match fF w with
  | 0 => zero (fD w) <| zero (fA w) <| zero (fB w) <| .ok (.ifence)
  | _ => .error .reservedF

/-- Major 0x64 (R116). -/
def dec64 (w : W32) : Except Reject Instr :=
  match fF w with
  | 0 => zero (fD w) <| zero (fA w) <| zero (fB w) <| .ok (.txb)
  | 1 => zero (fD w) <| zero (fA w) <| zero (fB w) <| .ok (.txe)
  | 2 => zero (fD w) <| zero (fA w) <| zero (fB w) <| .ok (.txa)
  | 3 => zero (fA w) <| zero (fB w) <| triple (fD w) <| .ok (.txs (fD w))
  | _ => .error .reservedF

/-- Major 0x65 (R116). -/
def dec65 (w : W32) : Except Reject Instr :=
  match fF w with
  | 0 => .ok (.wsleepEq (fD w) (fA w) (fB w))
  | 1 => .ok (.wsleepNe (fD w) (fA w) (fB w))
  | 2 => .ok (.wsleepGe (fD w) (fA w) (fB w))
  | 3 => .ok (.wsleepGeu (fD w) (fA w) (fB w))
  | _ => .error .reservedF

/-- Major 0x66 (R116). -/
def dec66 (w : W32) : Except Reject Instr :=
  match fF w with
  | 0 => zero (fD w) <| zero (fA w) <| zero (fB w) <| .ok (.bar)
  | _ => .error .reservedF

/-- Major 0x67 (R116). -/
def dec67 (w : W32) : Except Reject Instr :=
  match fF w with
  | 0 => zero (fD w) <| .ok (.nbinit (fA w) (fB w))
  | 1 => zero (fD w) <| .ok (.nbexp (fA w) (fB w))
  | 2 => zero (fD w) <| zero (fB w) <| .ok (.nbarr (fA w))
  | 3 => zero (fB w) <| .ok (.nbwait (fD w) (fA w))
  | 4 => zero (fB w) <| .ok (.nbtest (fD w) (fA w))
  | _ => .error .reservedF

/-- Major 0x68 (R116). -/
def dec68 (w : W32) : Except Reject Instr :=
  match fF w with
  | 0 => zero (fD w) <| zero (fB w) <| .ok (.tbarr (fA w))
  | 1 => zero (fB w) <| .ok (.tbwait (fD w) (fA w))
  | 2 => zero (fB w) <| .ok (.tbar (fD w) (fA w))
  | _ => .error .reservedF

/-- Major 0x69 (R116). -/
def dec69 (w : W32) : Except Reject Instr :=
  match fF w with
  | 0 => zero (fB w) <| .ok (.launch (fD w) (fA w))
  | 1 => zero (fB w) <| .ok (.launchWait (fD w) (fA w))
  | _ => .error .reservedF

/-- Major 0x6A (R116). -/
def dec6A (w : W32) : Except Reject Instr :=
  match fF w with
  | 0 => zero (fD w) <| zero (fA w) <| zero (fB w) <| .ok (.exit)
  | 1 => zero (fD w) <| zero (fB w) <| .ok (.exitSucc (fA w))
  | _ => .error .reservedF

/-- Major 0x6B (R116). -/
def dec6B (w : W32) : Except Reject Instr :=
  match fF w with
  | 0 => zero (fD w) <| zero (fA w) <| zero (fB w) <| .ok (.yield)
  | _ => .error .reservedF

/-- Major 0x6C (R116). -/
def dec6C (w : W32) : Except Reject Instr :=
  match fF w with
  | 0 => zero (fD w) <| .ok (.qpush (fA w) (fB w))
  | 1 => zero (fD w) <| .ok (.qpop (fA w) (fB w))
  | 2 => zero (fB w) <| .ok (.qstat (fD w) (fA w))
  | _ => .error .reservedF

/-- Major 0x6D (R116). -/
def dec6D (w : W32) : Except Reject Instr :=
  match fF w with
  | 0 => .ok (.qset (fD w) (fA w) (fB w))
  | _ => .error .reservedF

/-- Major 0x6E (R116). -/
def dec6E (w : W32) : Except Reject Instr :=
  match fF w with
  | 0 => zero (fD w) <| .ok (.fork (fA w) (fB w))
  | _ => .error .reservedF

/-- Major 0x6F (R116). -/
def dec6F (w : W32) : Except Reject Instr :=
  match fF w with
  | 1 => zero (fD w) <| zero (fA w) <| zero (fB w) <| .ok (.rendezL)
  | 2 => zero (fD w) <| zero (fA w) <| zero (fB w) <| .ok (.rendezB)
  | 3 => zero (fD w) <| zero (fA w) <| zero (fB w) <| .ok (.rendezLb)
  | _ => .error .reservedF

/-- Major 0x70 (R116). -/
def dec70 (w : W32) : Except Reject Instr := if fF w / 4 % 2 = 0 then .ok (.mma (fD w) (fA w) (fB w) (BitVec.ofNat 2 (fF w)) (decide (8 ≤ fF w))) else .error .reservedF

/-- Major 0x71 (R116). -/
def dec71 (w : W32) : Except Reject Instr := if fF w / 4 % 2 = 0 then .ok (.mmag (fD w) (fA w) (fB w) (BitVec.ofNat 2 (fF w)) (decide (8 ≤ fF w))) else .error .reservedF

/-- Major 0x72 (R116). -/
def dec72 (w : W32) : Except Reject Instr :=
  match fF w with
  | 0 => .ok (.twset (fD w) (fA w) (fB w))
  | _ => .error .reservedF

/-- Major 0x73 (R116). -/
def dec73 (w : W32) : Except Reject Instr :=
  match fF w with
  | 0 => .ok (.accalloc (fD w) (fA w) (fB w))
  | 1 => zero (fD w) <| zero (fB w) <| .ok (.accfree (fA w))
  | 2 => zero (fD w) <| zero (fB w) <| .ok (.acczero (fA w))
  | 3 => zero (fD w) <| .ok (.accclaim (fA w) (fB w))
  | _ => .error .reservedF

/-- Major 0x74 (R116). -/
def dec74 (w : W32) : Except Reject Instr :=
  match fF w with
  | 0 => .ok (.accrd (fD w) (fA w) (fB w))
  | 1 => .ok (.accrdClr (fD w) (fA w) (fB w))
  | _ => .error .reservedF

/-- Major 0x75 (R116). -/
def dec75 (w : W32) : Except Reject Instr :=
  match fF w with
  | 0 => .ok (.accwr (fD w) (fA w) (fB w))
  | _ => .error .reservedF

/-- Major 0x76 (R116). -/
def dec76 (w : W32) : Except Reject Instr :=
  match fF w with
  | 0 => .ok (.qnt (fD w) (fA w) (fB w))
  | _ => .error .reservedF

/-- Major 0x77 (R116). -/
def dec77 (w : W32) : Except Reject Instr :=
  match fF w with
  | 0 => zero (fD w) <| .ok (.plpack (fA w) (fB w))
  | 1 => zero (fA w) <| .ok (.plunp (fD w) (fB w))
  | _ => .error .reservedF

/-- Major 0x78 (R116). -/
def dec78 (w : W32) : Except Reject Instr :=
  match fF w with
  | 0 => zero (fD w) <| .ok (.ctld (fA w) (fB w))
  | _ => .error .reservedF

/-- Major 0x79 (R116). -/
def dec79 (w : W32) : Except Reject Instr := if fF w / 2 % 2 = 0 then .ok (.copy (fD w) (fA w) (fB w) (decide (fF w % 2 = 1)) (BitVec.ofNat 2 (fF w / 4))) else .error .reservedF

/-- Major 0x7A (R116). -/
def dec7A (w : W32) : Except Reject Instr := if fF w / 2 % 2 = 0 then .ok (.copym (fD w) (fA w) (fB w) (decide (fF w % 2 = 1)) (BitVec.ofNat 2 (fF w / 4))) else .error .reservedF

/-- Major 0x7B (R116). -/
def dec7B (w : W32) : Except Reject Instr :=
  match fF w with
  | 0 => zero (fD w) <| .ok (.sbradd (fA w) (fB w))
  | 1 => zero (fD w) <| .ok (.sbrmin (fA w) (fB w))
  | 2 => zero (fD w) <| .ok (.sbrmax (fA w) (fB w))
  | 3 => zero (fD w) <| .ok (.sbrfadd (fA w) (fB w))
  | 4 => zero (fD w) <| .ok (.sbuadd (fA w) (fB w))
  | 5 => zero (fD w) <| .ok (.sbumin (fA w) (fB w))
  | 6 => zero (fD w) <| .ok (.sbumax (fA w) (fB w))
  | 7 => zero (fD w) <| .ok (.sbufadd (fA w) (fB w))
  | _ => .error .reservedF

/-- Major 0x7C (R116). -/
def dec7Cred (w : W32) : Except Reject Instr :=
  match (fD w).toNat with
  | 0 => .ok (.rredAdd (fA w) (fB w))
  | 1 => .ok (.rredMin (fA w) (fB w))
  | 2 => .ok (.rredMax (fA w) (fB w))
  | 3 => .ok (.rredMinu (fA w) (fB w))
  | 4 => .ok (.rredMaxu (fA w) (fB w))
  | 5 => .ok (.rredFadd (fA w) (fB w))
  | 6 => .ok (.rredAddD (fA w) (fB w))
  | 7 => .ok (.rredOr (fA w) (fB w))
  | _ => .error .badOperationCode

def dec7C (w : W32) : Except Reject Instr :=
  match fF w with
  | 0 => dec7Cred w
  | 1 => zero (fD w) <| .ok (.coll (fA w) (fB w))
  | 2 => zero (fD w) <| zero (fB w) <| .ok (.cquiet (fA w))
  | 3 => zero (fB w) <| .ok (.glaunch (fD w) (fA w))
  | 4 => zero (fB w) <| .ok (.gstat (fD w) (fA w))
  | 5 => zero (fD w) <| .ok (.rwin (fA w) (fB w))
  | _ => .error .reservedF

/-- Major 0x7D (R116). -/
def dec7D (w : W32) : Except Reject Instr :=
  match fF w with
  | 0 => zero (fD w) <| zero (fB w) <| .ok (.trap (fA w))
  | 1 => zero (fD w) <| zero (fA w) <| zero (fB w) <| .ok (.sret)
  | 2 => zero (fD w) <| zero (fB w) <| .ok (.pgres (fA w))
  | 3 => .ok (.mapu (fD w) (fA w) (fB w))
  | 4 => zero (fD w) <| .ok (.tlbinv (fA w) (fB w))
  | 5 => .ok (.lanerd (fD w) (fA w) (fB w))
  | 6 => .ok (.lanewr (fD w) (fA w) (fB w))
  | _ => .error .reservedF

/-- The instruction of a word, or why the word is none (R118). -/
def decodeWord (w : W32) : Except Reject Instr :=
  match fOp w with
  | 0x01 => dec01 w
  | 0x02 => dec02 w
  | 0x03 => dec03 w
  | 0x04 => dec04 w
  | 0x05 => dec05 w
  | 0x06 => dec06 w
  | 0x10 => dec10 w
  | 0x11 => dec11 w
  | 0x12 => dec12 w
  | 0x13 => dec13 w
  | 0x14 => dec14 w
  | 0x15 => dec15 w
  | 0x16 => dec16 w
  | 0x17 => dec17 w
  | 0x18 => dec18 w
  | 0x19 => dec19 w
  | 0x1A => dec1A w
  | 0x1B => dec1B w
  | 0x1C => dec1C w
  | 0x20 => dec20 w
  | 0x21 => dec21 w
  | 0x22 => dec22 w
  | 0x23 => dec23 w
  | 0x24 => dec24 w
  | 0x25 => dec25 w
  | 0x26 => dec26 w
  | 0x27 => dec27 w
  | 0x28 => dec28 w
  | 0x29 => dec29 w
  | 0x2A => dec2A w
  | 0x2B => dec2B w
  | 0x2C => dec2C w
  | 0x2D => dec2D w
  | 0x2E => dec2E w
  | 0x2F => dec2F w
  | 0x30 => dec30 w
  | 0x31 => dec31 w
  | 0x32 => dec32 w
  | 0x33 => dec33 w
  | 0x34 => dec34 w
  | 0x35 => dec35 w
  | 0x36 => dec36 w
  | 0x37 => dec37 w
  | 0x38 => dec38 w
  | 0x39 => dec39 w
  | 0x3A => dec3A w
  | 0x3B => dec3B w
  | 0x3C => dec3C w
  | 0x3D => dec3D w
  | 0x3E => dec3E w
  | 0x40 => dec40 w
  | 0x41 => dec41 w
  | 0x42 => dec42 w
  | 0x43 => dec43 w
  | 0x44 => dec44 w
  | 0x45 => dec45 w
  | 0x46 => dec46 w
  | 0x47 => dec47 w
  | 0x48 => dec48 w
  | 0x49 => dec49 w
  | 0x4A => dec4A w
  | 0x4B => dec4B w
  | 0x4C => dec4C w
  | 0x4D => dec4D w
  | 0x4E => dec4E w
  | 0x4F => dec4F w
  | 0x50 => dec50 w
  | 0x51 => dec51 w
  | 0x54 => dec54 w
  | 0x55 => dec55 w
  | 0x56 => dec56 w
  | 0x57 => dec57 w
  | 0x58 => dec58 w
  | 0x59 => dec59 w
  | 0x5A => dec5A w
  | 0x5B => dec5B w
  | 0x5C => dec5C w
  | 0x5D => dec5D w
  | 0x5E => dec5E w
  | 0x60 => dec60 w
  | 0x61 => dec61 w
  | 0x62 => dec62 w
  | 0x63 => dec63 w
  | 0x64 => dec64 w
  | 0x65 => dec65 w
  | 0x66 => dec66 w
  | 0x67 => dec67 w
  | 0x68 => dec68 w
  | 0x69 => dec69 w
  | 0x6A => dec6A w
  | 0x6B => dec6B w
  | 0x6C => dec6C w
  | 0x6D => dec6D w
  | 0x6E => dec6E w
  | 0x6F => dec6F w
  | 0x70 => dec70 w
  | 0x71 => dec71 w
  | 0x72 => dec72 w
  | 0x73 => dec73 w
  | 0x74 => dec74 w
  | 0x75 => dec75 w
  | 0x76 => dec76 w
  | 0x77 => dec77 w
  | 0x78 => dec78 w
  | 0x79 => dec79 w
  | 0x7A => dec7A w
  | 0x7B => dec7B w
  | 0x7C => dec7C w
  | 0x7D => dec7D w
  | _ => .error .illegalMajor

/-- Decode the four little-endian bytes of a word (R109) and give back the rest. -/
def decode : List Byte → Except Reject (Instr × List Byte)
  | b0 :: b1 :: b2 :: b3 :: rest =>
    match decodeWord (BitVec.ofNat 32 (leNat [b0, b1, b2, b3])) with
    | .ok i => .ok (i, rest)
    | .error e => .error e
  | _ => .error .tooFewBytes

/-- The decoder's answer for a word numbered as the opcode table numbers it. -/
def decodeTableWord (nbits w : Nat) : Option Instr :=
  match decode (leBytes 4 (w % 2 ^ nbits)) with
  | .ok (i, _) => some i
  | .error _ => none

def Policy.code : Policy → Nat
  | .l1 => 0
  | .llc => 1
  | .st => 2

def Size4.code : Size4 → Nat
  | .byte => 0
  | .half => 1
  | .word => 2
  | .double => 3

def Size3.code : Size3 → Nat
  | .byte => 0
  | .half => 1
  | .word => 2

def Scope.code : Scope → Nat
  | .blk => 0
  | .die => 1
  | .pkg => 2
  | .sys => 3

def PfLevel.code : PfLevel → Reg
  | .toL1 => 0
  | .toLlc => 1

/-- The RR and WC formats (R110). -/
def encRr (op f : Nat) (d a b : Reg) : W32 :=
  BitVec.ofNat 32 (op + 2 ^ 7 * d.toNat + 2 ^ 14 * a.toNat + 2 ^ 21 * b.toNat + 2 ^ 28 * f)

def encRi (op : Nat) (d a : Reg) (i : BitVec 11) : W32 :=
  BitVec.ofNat 32 (op + 2 ^ 7 * d.toNat + 2 ^ 14 * a.toNat + 2 ^ 21 * i.toNat)

def encRu (op : Nat) (d : Reg) (i : BitVec 18) : W32 := BitVec.ofNat 32 (op + 2 ^ 7 * d.toNat + 2 ^ 14 * i.toNat)

/-- The BR format: the first register in bits 13:7, the second in bits 20:14. -/
def encBr (op : Nat) (a b : Reg) (x : BitVec 11) : W32 := encRi op a b x

def encJx (op : Nat) (x : BitVec 25) : W32 := BitVec.ofNat 32 (op + 2 ^ 7 * x.toNat)

/-- The word of an instruction. An event has no word: it answers 0, which is no instruction (R118). -/
def encode : Instr → W32
  | .add d a b => encRr 0x01 0 d a b
  | .sub d a b => encRr 0x01 1 d a b
  | .and d a b => encRr 0x01 2 d a b
  | .or d a b => encRr 0x01 3 d a b
  | .xor d a b => encRr 0x01 4 d a b
  | .andn d a b => encRr 0x01 5 d a b
  | .sll d a b => encRr 0x01 6 d a b
  | .srl d a b => encRr 0x01 7 d a b
  | .sra d a b => encRr 0x01 8 d a b
  | .min d a b => encRr 0x01 9 d a b
  | .max d a b => encRr 0x01 10 d a b
  | .minu d a b => encRr 0x01 11 d a b
  | .maxu d a b => encRr 0x01 12 d a b
  | .slt d a b => encRr 0x01 13 d a b
  | .sltu d a b => encRr 0x01 14 d a b
  | .seq d a b => encRr 0x01 15 d a b
  | .addW d a b => encRr 0x02 0 d a b
  | .subW d a b => encRr 0x02 1 d a b
  | .andW d a b => encRr 0x02 2 d a b
  | .orW d a b => encRr 0x02 3 d a b
  | .xorW d a b => encRr 0x02 4 d a b
  | .andnW d a b => encRr 0x02 5 d a b
  | .sllW d a b => encRr 0x02 6 d a b
  | .srlW d a b => encRr 0x02 7 d a b
  | .sraW d a b => encRr 0x02 8 d a b
  | .minW d a b => encRr 0x02 9 d a b
  | .maxW d a b => encRr 0x02 10 d a b
  | .minuW d a b => encRr 0x02 11 d a b
  | .maxuW d a b => encRr 0x02 12 d a b
  | .sltW d a b => encRr 0x02 13 d a b
  | .sltuW d a b => encRr 0x02 14 d a b
  | .seqW d a b => encRr 0x02 15 d a b
  | .mul d a b => encRr 0x03 0 d a b
  | .mulh d a b => encRr 0x03 1 d a b
  | .mulhu d a b => encRr 0x03 2 d a b
  | .mulhm d a b => encRr 0x03 3 d a b
  | .div d a b => encRr 0x03 4 d a b
  | .divu d a b => encRr 0x03 5 d a b
  | .rem d a b => encRr 0x03 6 d a b
  | .remu d a b => encRr 0x03 7 d a b
  | .mulW d a b => encRr 0x03 8 d a b
  | .divW d a b => encRr 0x03 9 d a b
  | .divuW d a b => encRr 0x03 10 d a b
  | .remW d a b => encRr 0x03 11 d a b
  | .remuW d a b => encRr 0x03 12 d a b
  | .clz d a => encRr 0x04 0 d a 0
  | .ctz d a => encRr 0x04 1 d a 0
  | .popc d a => encRr 0x04 2 d a 0
  | .bswap d a => encRr 0x04 3 d a 0
  | .brev d a => encRr 0x04 4 d a 0
  | .sextb d a => encRr 0x04 5 d a 0
  | .sexth d a => encRr 0x04 6 d a 0
  | .sextw d a => encRr 0x04 7 d a 0
  | .zextb d a => encRr 0x04 8 d a 0
  | .zexth d a => encRr 0x04 9 d a 0
  | .zextw d a => encRr 0x04 10 d a 0
  | .csel d a b => encRr 0x05 0 d a b
  | .mand3 d a b => encRr 0x06 0 d a b
  | .mor3 d a b => encRr 0x06 1 d a b
  | .mandn3 d a b => encRr 0x06 2 d a b
  | .mxor3 d a b => encRr 0x06 3 d a b
  | .mnot3 d a => encRr 0x06 4 d a 0
  | .mcnt3 d a => encRr 0x06 5 d a 0
  | .mfirst3 d a => encRr 0x06 6 d a 0
  | .addi d a i => encRi 0x10 d a i
  | .andi d a i => encRi 0x11 d a i
  | .ori d a i => encRi 0x12 d a i
  | .xori d a i => encRi 0x13 d a i
  | .slti d a i => encRi 0x14 d a i
  | .sltiu d a i => encRi 0x15 d a i
  | .slli d a i => encRi 0x16 d a (i.setWidth 11)
  | .srli d a i => encRi 0x17 d a (i.setWidth 11)
  | .srai d a i => encRi 0x18 d a (i.setWidth 11)
  | .addiW d a i => encRi 0x19 d a i
  | .ldi d i => encRu 0x1A d i
  | .lsh d i => encRu 0x1B d i
  | .pcadd d i => encRu 0x1C d i
  | .beq a b x => encBr 0x20 a b x
  | .bne a b x => encBr 0x21 a b x
  | .blt a b x => encBr 0x22 a b x
  | .bge a b x => encBr 0x23 a b x
  | .bltu a b x => encBr 0x24 a b x
  | .bgeu a b x => encBr 0x25 a b x
  | .bnone t x => encBr 0x26 t 0 x
  | .bany t x => encBr 0x27 t 0 x
  | .ball t x => encBr 0x28 t 0 x
  | .jmp x => encJx 0x29 x
  | .jal x => encJx 0x2A x
  | .jalr d a => encRr 0x2B 0 d a 0
  | .waitc l s m => encRr 0x2C 0 l s m
  | .csrr d n => encRi 0x2D d 0 n
  | .csrw a n => encRi 0x2E 0 a n
  | .vwin k => encRi 0x2F 0 0 k
  | .lb d a i => encRi 0x30 d a i
  | .lbu d a i => encRi 0x31 d a i
  | .lh d a i => encRi 0x32 d a i
  | .lhu d a i => encRi 0x33 d a i
  | .lw d a i => encRi 0x34 d a i
  | .lwu d a i => encRi 0x35 d a i
  | .ld d a i => encRi 0x36 d a i
  | .sb d a i => encRi 0x37 d a i
  | .sh d a i => encRi 0x38 d a i
  | .sw d a i => encRi 0x39 d a i
  | .sd d a i => encRi 0x3A d a i
  | .lp d a b z p => encRr 0x3B (z.code + 4 * p.code) d a b
  | .sp d a b z p => encRr 0x3C (z.code + 4 * p.code) d a b
  | .pf l a i => encRi 0x3D l.code a i
  | .hint h => encJx 0x3E h
  | .vadd d a b => encRr 0x40 0 d a b
  | .vsub d a b => encRr 0x40 1 d a b
  | .vmul d a b => encRr 0x40 2 d a b
  | .vmulh d a b => encRr 0x40 3 d a b
  | .vmulhu d a b => encRr 0x40 4 d a b
  | .vand d a b => encRr 0x40 5 d a b
  | .vor d a b => encRr 0x40 6 d a b
  | .vxor d a b => encRr 0x40 7 d a b
  | .vsll d a b => encRr 0x40 8 d a b
  | .vsrl d a b => encRr 0x40 9 d a b
  | .vsra d a b => encRr 0x40 10 d a b
  | .vmin d a b => encRr 0x40 11 d a b
  | .vmax d a b => encRr 0x40 12 d a b
  | .vminu d a b => encRr 0x40 13 d a b
  | .vmaxu d a b => encRr 0x40 14 d a b
  | .vandn d a b => encRr 0x40 15 d a b
  | .vaddS d a b => encRr 0x41 0 d a b
  | .vsubS d a b => encRr 0x41 1 d a b
  | .vmulS d a b => encRr 0x41 2 d a b
  | .vmulhS d a b => encRr 0x41 3 d a b
  | .vmulhuS d a b => encRr 0x41 4 d a b
  | .vandS d a b => encRr 0x41 5 d a b
  | .vorS d a b => encRr 0x41 6 d a b
  | .vxorS d a b => encRr 0x41 7 d a b
  | .vsllS d a b => encRr 0x41 8 d a b
  | .vsrlS d a b => encRr 0x41 9 d a b
  | .vsraS d a b => encRr 0x41 10 d a b
  | .vminS d a b => encRr 0x41 11 d a b
  | .vmaxS d a b => encRr 0x41 12 d a b
  | .vminuS d a b => encRr 0x41 13 d a b
  | .vmaxuS d a b => encRr 0x41 14 d a b
  | .vandnS d a b => encRr 0x41 15 d a b
  | .vabs d a => encRr 0x42 0 d a 0
  | .vneg d a => encRr 0x42 1 d a 0
  | .vclz d a => encRr 0x42 2 d a 0
  | .vpopc d a => encRr 0x42 3 d a 0
  | .vbrev d a => encRr 0x42 4 d a 0
  | .vbswap d a => encRr 0x42 5 d a 0
  | .vsextb d a => encRr 0x42 6 d a 0
  | .vsexth d a => encRr 0x42 7 d a 0
  | .vzextb d a => encRr 0x42 8 d a 0
  | .vzexth d a => encRr 0x42 9 d a 0
  | .vnot d a => encRr 0x42 10 d a 0
  | .vmad d a b => encRr 0x43 0 d a b
  | .vmsb d a b => encRr 0x43 1 d a b
  | .vmadS d a b => encRr 0x43 2 d a b
  | .vmsbS d a b => encRr 0x43 3 d a b
  | .vcmpEq d a b => encRr 0x44 0 d a b
  | .vcmpNe d a b => encRr 0x44 1 d a b
  | .vcmpLt d a b => encRr 0x44 2 d a b
  | .vcmpLe d a b => encRr 0x44 3 d a b
  | .vcmpLtu d a b => encRr 0x44 4 d a b
  | .vcmpLeu d a b => encRr 0x44 5 d a b
  | .vcmpEqS d a b => encRr 0x45 0 d a b
  | .vcmpNeS d a b => encRr 0x45 1 d a b
  | .vcmpLtS d a b => encRr 0x45 2 d a b
  | .vcmpLeS d a b => encRr 0x45 3 d a b
  | .vcmpLtuS d a b => encRr 0x45 4 d a b
  | .vcmpLeuS d a b => encRr 0x45 5 d a b
  | .vfadd d a b => encRr 0x46 0 d a b
  | .vfsub d a b => encRr 0x46 1 d a b
  | .vfmul d a b => encRr 0x46 2 d a b
  | .vfdiv d a b => encRr 0x46 3 d a b
  | .vfmin d a b => encRr 0x46 4 d a b
  | .vfmax d a b => encRr 0x46 5 d a b
  | .vfcsign d a b => encRr 0x46 6 d a b
  | .vfnsign d a b => encRr 0x46 7 d a b
  | .vfaddS d a b => encRr 0x47 0 d a b
  | .vfsubS d a b => encRr 0x47 1 d a b
  | .vfmulS d a b => encRr 0x47 2 d a b
  | .vfdivS d a b => encRr 0x47 3 d a b
  | .vfminS d a b => encRr 0x47 4 d a b
  | .vfmaxS d a b => encRr 0x47 5 d a b
  | .vfcsignS d a b => encRr 0x47 6 d a b
  | .vfnsignS d a b => encRr 0x47 7 d a b
  | .vfma d a b => encRr 0x48 0 d a b
  | .vfms d a b => encRr 0x48 1 d a b
  | .vfnma d a b => encRr 0x48 2 d a b
  | .vfnms d a b => encRr 0x48 3 d a b
  | .vfmaS d a b => encRr 0x48 4 d a b
  | .vfmsS d a b => encRr 0x48 5 d a b
  | .vfnmaS d a b => encRr 0x48 6 d a b
  | .vfnmsS d a b => encRr 0x48 7 d a b
  | .vfabs d a => encRr 0x49 0 d a 0
  | .vfneg d a => encRr 0x49 1 d a 0
  | .vfsqrt d a => encRr 0x49 2 d a 0
  | .vexp2 d a => encRr 0x49 3 d a 0
  | .vlog2 d a => encRr 0x49 4 d a 0
  | .vrcp d a => encRr 0x49 5 d a 0
  | .vrsq d a => encRr 0x49 6 d a 0
  | .vfrint d a => encRr 0x49 7 d a 0
  | .vfclass d a => encRr 0x49 8 d a 0
  | .vfcmpFeq d a b => encRr 0x4A 0 d a b
  | .vfcmpFlt d a b => encRr 0x4A 1 d a b
  | .vfcmpFle d a b => encRr 0x4A 2 d a b
  | .vfcmpFun d a b => encRr 0x4A 3 d a b
  | .vfcmpFeqS d a b => encRr 0x4B 0 d a b
  | .vfcmpFltS d a b => encRr 0x4B 1 d a b
  | .vfcmpFleS d a b => encRr 0x4B 2 d a b
  | .vfcmpFunS d a b => encRr 0x4B 3 d a b
  | .vcvtI32F32 d a => encRr 0x4C 0 d a 0
  | .vcvtF32I32 d a => encRr 0x4C 1 d a 0
  | .vcvtN32F32 d a => encRr 0x4C 2 d a 0
  | .vcvtF32N32 d a => encRr 0x4C 3 d a 0
  | .vcvtBf16F32 d a => encRr 0x4C 4 d a 0
  | .vcvtF32Bf16 d a => encRr 0x4C 5 d a 0
  | .vcvtF16F32 d a => encRr 0x4C 6 d a 0
  | .vcvtF32F16 d a => encRr 0x4C 7 d a 0
  | .vcvtE4m3F32 d a => encRr 0x4C 8 d a 0
  | .vcvtF32E4m3 d a => encRr 0x4C 9 d a 0
  | .vcvtE5m2F32 d a => encRr 0x4C 10 d a 0
  | .vcvtF32E5m2 d a => encRr 0x4C 11 d a 0
  | .vcvtBf16x2F32 d a => encRr 0x4C 12 d a 0
  | .vcvtF16x2F32 d a => encRr 0x4C 13 d a 0
  | .vcvtI8I32 d a => encRr 0x4C 14 d a 0
  | .vmov d a => encRr 0x4D 0 d a 0
  | .vbcs d a => encRr 0x4D 1 d a 0
  | .vext d a b => encRr 0x4D 2 d a b
  | .vins d a b => encRr 0x4D 3 d a b
  | .vlid d => encRr 0x4D 4 d 0 0
  | .vperm d a b => encRr 0x4D 5 d a b
  | .vslup d a b => encRr 0x4D 6 d a b
  | .vsldn d a b => encRr 0x4D 7 d a b
  | .vmrg d a b => encRr 0x4D 8 d a b
  | .vfree d => encRr 0x4D 9 d 0 0
  | .vradd d a => encRr 0x4E 0 d a 0
  | .vrmin d a => encRr 0x4E 1 d a 0
  | .vrmax d a => encRr 0x4E 2 d a 0
  | .vrminu d a => encRr 0x4E 3 d a 0
  | .vrmaxu d a => encRr 0x4E 4 d a 0
  | .vrand d a => encRr 0x4E 5 d a 0
  | .vror d a => encRr 0x4E 6 d a 0
  | .vrxor d a => encRr 0x4E 7 d a 0
  | .vrfadd d a => encRr 0x4E 8 d a 0
  | .vrfmin d a => encRr 0x4E 9 d a 0
  | .vrfmax d a => encRr 0x4E 10 d a 0
  | .vsadd d a => encRr 0x4F 0 d a 0
  | .vsaddx d a => encRr 0x4F 1 d a 0
  | .vsfadd d a => encRr 0x4F 2 d a 0
  | .vsmax d a => encRr 0x4F 3 d a 0
  | .vsmin d a => encRr 0x4F 4 d a 0
  | .vhcrc d a b => encRr 0x50 0 d a b
  | .vhmix d a b => encRr 0x50 1 d a b
  | .vpart d a b => encRr 0x50 2 d a b
  | .vbeq d a b => encRr 0x50 3 d a b
  | .vbfz d a => encRr 0x50 4 d a 0
  | .vbdif d a b => encRr 0x50 5 d a b
  | .vhist d a => encRr 0x51 0 d a 0
  | .vld d a b z p => encRr 0x54 (z.code + 4 * p.code) d a b
  | .vst d a b z p => encRr 0x55 (z.code + 4 * p.code) d a b
  | .vgth d a b z p => encRr 0x56 (z.code + 4 * p.code) d a b
  | .vsct d a b z p => encRr 0x57 (z.code + 4 * p.code) d a b
  | .vll d a b z => encRr 0x58 z.code d a b
  | .vsl d a b z => encRr 0x59 z.code d a b
  | .vllg d a z => encRr 0x5A z.code d a 0
  | .vslg d a z => encRr 0x5B z.code d a 0
  | .amoAdd d a b => encRr 0x5C 0 d a b
  | .amoAnd d a b => encRr 0x5C 1 d a b
  | .amoOr d a b => encRr 0x5C 2 d a b
  | .amoXor d a b => encRr 0x5C 3 d a b
  | .amoMin d a b => encRr 0x5C 4 d a b
  | .amoMax d a b => encRr 0x5C 5 d a b
  | .amoMinu d a b => encRr 0x5C 6 d a b
  | .amoMaxu d a b => encRr 0x5C 7 d a b
  | .amoXchg d a b => encRr 0x5C 8 d a b
  | .amoFadd d a b => encRr 0x5C 9 d a b
  | .amoCas d a b => encRr 0x5C 10 d a b
  | .amoDAdd d a b => encRr 0x5D 0 d a b
  | .amoDAnd d a b => encRr 0x5D 1 d a b
  | .amoDOr d a b => encRr 0x5D 2 d a b
  | .amoDXor d a b => encRr 0x5D 3 d a b
  | .amoDMin d a b => encRr 0x5D 4 d a b
  | .amoDMax d a b => encRr 0x5D 5 d a b
  | .amoDMinu d a b => encRr 0x5D 6 d a b
  | .amoDMaxu d a b => encRr 0x5D 7 d a b
  | .amoDXchg d a b => encRr 0x5D 8 d a b
  | .amoDFadd d a b => encRr 0x5D 9 d a b
  | .amoDCas d a b => encRr 0x5D 10 d a b
  | .vamoAdd d a b => encRr 0x5E 0 d a b
  | .vamoAnd d a b => encRr 0x5E 1 d a b
  | .vamoOr d a b => encRr 0x5E 2 d a b
  | .vamoXor d a b => encRr 0x5E 3 d a b
  | .vamoMin d a b => encRr 0x5E 4 d a b
  | .vamoMax d a b => encRr 0x5E 5 d a b
  | .vamoMinu d a b => encRr 0x5E 6 d a b
  | .vamoMaxu d a b => encRr 0x5E 7 d a b
  | .vamoXchg d a b => encRr 0x5E 8 d a b
  | .vamoFadd d a b => encRr 0x5E 9 d a b
  | .vamoCas d a b => encRr 0x5E 10 d a b
  | .acq a s => encRr 0x60 s.code 0 a 0
  | .rel s => encRr 0x61 s.code 0 0 0
  | .fence s => encRr 0x62 (s.code + 0) 0 0 0
  | .fenceSs s => encRr 0x62 (s.code + 4) 0 0 0
  | .fenceLl s => encRr 0x62 (s.code + 8) 0 0 0
  | .fenceIo s => encRr 0x62 (s.code + 12) 0 0 0
  | .ifence => encRr 0x63 0 0 0 0
  | .txb => encRr 0x64 0 0 0 0
  | .txe => encRr 0x64 1 0 0 0
  | .txa => encRr 0x64 2 0 0 0
  | .txs d => encRr 0x64 3 d 0 0
  | .wsleepEq d a b => encRr 0x65 0 d a b
  | .wsleepNe d a b => encRr 0x65 1 d a b
  | .wsleepGe d a b => encRr 0x65 2 d a b
  | .wsleepGeu d a b => encRr 0x65 3 d a b
  | .bar => encRr 0x66 0 0 0 0
  | .nbinit a b => encRr 0x67 0 0 a b
  | .nbexp a b => encRr 0x67 1 0 a b
  | .nbarr a => encRr 0x67 2 0 a 0
  | .nbwait d a => encRr 0x67 3 d a 0
  | .nbtest d a => encRr 0x67 4 d a 0
  | .tbarr a => encRr 0x68 0 0 a 0
  | .tbwait d a => encRr 0x68 1 d a 0
  | .tbar d a => encRr 0x68 2 d a 0
  | .launch d a => encRr 0x69 0 d a 0
  | .launchWait d a => encRr 0x69 1 d a 0
  | .exit => encRr 0x6A 0 0 0 0
  | .exitSucc a => encRr 0x6A 1 0 a 0
  | .yield => encRr 0x6B 0 0 0 0
  | .qpush a b => encRr 0x6C 0 0 a b
  | .qpop a b => encRr 0x6C 1 0 a b
  | .qstat d a => encRr 0x6C 2 d a 0
  | .qset d a b => encRr 0x6D 0 d a b
  | .fork a b => encRr 0x6E 0 0 a b
  | .rendezL => encRr 0x6F 1 0 0 0
  | .rendezB => encRr 0x6F 2 0 0 0
  | .rendezLb => encRr 0x6F 3 0 0 0
  | .mma d a b g o => encRr 0x70 (g.toNat + 8 * o.toNat) d a b
  | .mmag d a b g o => encRr 0x71 (g.toNat + 8 * o.toNat) d a b
  | .twset d a b => encRr 0x72 0 d a b
  | .accalloc d a b => encRr 0x73 0 d a b
  | .accfree a => encRr 0x73 1 0 a 0
  | .acczero a => encRr 0x73 2 0 a 0
  | .accclaim a b => encRr 0x73 3 0 a b
  | .accrd d a b => encRr 0x74 0 d a b
  | .accrdClr d a b => encRr 0x74 1 d a b
  | .accwr d a b => encRr 0x75 0 d a b
  | .qnt d a b => encRr 0x76 0 d a b
  | .plpack a b => encRr 0x77 0 0 a b
  | .plunp d b => encRr 0x77 1 d 0 b
  | .ctld a b => encRr 0x78 0 0 a b
  | .copy d a b o g => encRr 0x79 (o.toNat + 4 * g.toNat) d a b
  | .copym d a b o g => encRr 0x7A (o.toNat + 4 * g.toNat) d a b
  | .sbradd a b => encRr 0x7B 0 0 a b
  | .sbrmin a b => encRr 0x7B 1 0 a b
  | .sbrmax a b => encRr 0x7B 2 0 a b
  | .sbrfadd a b => encRr 0x7B 3 0 a b
  | .sbuadd a b => encRr 0x7B 4 0 a b
  | .sbumin a b => encRr 0x7B 5 0 a b
  | .sbumax a b => encRr 0x7B 6 0 a b
  | .sbufadd a b => encRr 0x7B 7 0 a b
  | .rredAdd a b => encRr 0x7C 0 0 a b
  | .rredMin a b => encRr 0x7C 0 1 a b
  | .rredMax a b => encRr 0x7C 0 2 a b
  | .rredMinu a b => encRr 0x7C 0 3 a b
  | .rredMaxu a b => encRr 0x7C 0 4 a b
  | .rredFadd a b => encRr 0x7C 0 5 a b
  | .rredAddD a b => encRr 0x7C 0 6 a b
  | .rredOr a b => encRr 0x7C 0 7 a b
  | .coll a b => encRr 0x7C 1 0 a b
  | .cquiet a => encRr 0x7C 2 0 a 0
  | .glaunch d a => encRr 0x7C 3 d a 0
  | .gstat d a => encRr 0x7C 4 d a 0
  | .rwin a b => encRr 0x7C 5 0 a b
  | .trap a => encRr 0x7D 0 0 a 0
  | .sret => encRr 0x7D 1 0 0 0
  | .pgres a => encRr 0x7D 2 0 a 0
  | .mapu d a b => encRr 0x7D 3 d a b
  | .tlbinv a b => encRr 0x7D 4 0 a b
  | .lanerd d a b => encRr 0x7D 5 d a b
  | .lanewr d a b => encRr 0x7D 6 d a b
  | .pendingAgingTick => 0
  | .blockPlacement .. => 0
  | .rotation .. => 0
  | .starvationBoost .. => 0
  | .starvation .. => 0
  | .localityScoreHalving .. => 0
  | .allowanceStep .. => 0
  | .allowanceReset .. => 0
  | .latticeSequencerRound .. => 0
  | .queueExtension .. => 0
  | .waitGraphWalk .. => 0
  | .quotaMove .. => 0
  | .preemption .. => 0
  | .blockResume .. => 0
  | .budgetWindowStart => 0
  | .energyCharge .. => 0
  | .clockPlannerStep .. => 0
  | .loadCompletion .. => 0
  | .storeCompletion .. => 0
  | .asynchronousTrapDelivery .. => 0
  | .regReq .. => 0
  | .regFwd .. => 0
  | .regRevoke .. => 0
  | .raceNak .. => 0
  | .regXfer .. => 0
  | .regAck .. => 0
  | .l1Fill .. => 0
  | .llcFill .. => 0
  | .fetchFill .. => 0
  | .fetchRetry .. => 0
  | .pageTableWalk .. => 0
  | .faultResolutionTimeout .. => 0
  | .wsleepWakeEvent .. => 0
  | .wsleepReevaluation .. => 0
  | .wsleepTimeout .. => 0
  | .trellisRelease .. => 0
  | .latticeCommandPerformed .. => 0
  | .listCommandRecord .. => 0
  | .listEndRecord .. => 0
  | .listLoopRecord .. => 0
  | .listBaseaRecord .. => 0
  | .listBasebRecord .. => 0
  | .sectorDelivery .. => 0
  | .barrowTranslationFault .. => 0
  | .followOnEnd .. => 0
  | .packetDelivery .. => 0
  | .acknowledgement .. => 0
  | .ackTimeout .. => 0
  | .linkCrcFailureReport .. => 0
  | .flowReroute .. => 0
  | .linkRetrain .. => 0
  | .flowUnreachable .. => 0
  | .switchMerge .. => 0
  | .mergeEntryForward .. => 0
  | .mergedPacketReceipt .. => 0
  | .replayUnmerged .. => 0
  | .phaseQuietReport .. => 0
  | .gangPrepare .. => 0
  | .gangPrepareAnswer .. => 0
  | .gangPrepareTimeout .. => 0
  | .gangBegin .. => 0
  | .gangCancel .. => 0
  | .gangBegun .. => 0
  | .gangBeginTimeout .. => 0
  | .collectiveCompletion .. => 0
  | .crossDieTimeout .. => 0
  | .referenceCounterCompare .. => 0
  | .diectlGo .. => 0
  | .diectlCancel .. => 0
  | .dieDrainCompletion .. => 0
  | .errinjGo .. => 0
  | .linkctlDownSet .. => 0
  | .linkctlDownClear .. => 0
  | .fstatWrite .. => 0
  | .frmWrite .. => 0
  | .mstatClear .. => 0
  | .patrolScrub .. => 0
  | .filterClear => 0
  | .freeze => 0
  | .thaw => 0
  | .testPortRead .. => 0
  | .pwrgood .. => 0
  | .ucieLinkTraining .. => 0
  | .tier1ChannelTraining .. => 0
  | .cxlPortTraining .. => 0
  | .hostCxlMemRead .. => 0
  | .hostCxlMemWrite .. => 0
  | .hstatClear .. => 0
  | .getVersion .. => 0
  | .getCapabilities .. => 0
  | .negotiateAlgorithms .. => 0
  | .getDigests .. => 0
  | .getCertificate .. => 0
  | .challenge .. => 0
  | .getMeasurements .. => 0
  | .illegalInstruction .. => 0
  | .packageReset => 0
  | .hostPortLinkDown .. => 0
  | .hostPortLinkRetrain .. => 0
  | .contextCreation .. => 0
  | .poolEnlargement .. => 0
  | .trellisIdentifierBinding .. => 0
  | .collectiveGroupBinding .. => 0

end Sys2Proof

end
end

