-- ==== Sys2Proof/Config.lean ====
section
/-! DEFINITION. What the manual leaves to an implementation or to the run, as constants without a body: no proof can
see their value, so a statement holds for every value (log 4, log 11, log 20, log 22). A free value is drawn by applying
its constant to State.free, which the step then advances. -/

namespace Sys2Proof.Config

open Sys2Proof

/-- Which of the eight lines of a full L1 set a fill displaces (R302 says only that one is): log 11. -/
opaque l1Victim : Nat → BitVec 3

/-- Which translation a full TLB replaces (R372 says only that one may be): log 11. -/
opaque tlbVictim : Nat → Nat

/-- Bytes that one packet takes in a port's retry buffer (R342 gives the buffer's size, nothing a packet's): log 24. -/
opaque retryBytes : Nat

/-- Bits 24:0 of the row identifier, bank and row, of a tier-1 address (R395 gives the identifier's fields and R368 the
channel, not how an address chooses bank and row): log 22. -/
opaque rowOf : Nat → BitVec 25

/-- A value that R7 leaves open after a program broke an obligation, and every value the manual does not state: log 4. -/
opaque freeWord : Nat → BitVec 64

/-- SHA-512 of a byte string (R417): log 20. -/
opaque sha512 : List Byte → List Byte

/-- The identity key's RSASSA-PSS signature of a byte string (R419): log 20. -/
opaque sign : List Byte → List Byte

/-- The certificate chain of slot 0 (R419): log 20. -/
opaque certChain : List Byte

/-- What an array reads as on the test port, beyond the arrays State holds (R403): log 20. -/
opaque scan : Nat → Nat → Nat

end Sys2Proof.Config
end

