-- ==== Sys2Proof/Machine/State.lean ====
section
/-! DEFINITION. The state of one Tamion Q4 package as plain data: threads (waves and Frailor cores), blocks, cores,
tasks, contexts, memory, fabric, service and host side. Units are kept in maps by number; a unit that a map does not
list stands at its reset value. INVENTORY.md lists each piece with its rule and its reset value. -/

namespace Sys2Proof.Machine

open Sys2Proof

/-- The three wait counters (R189), and the markers a fence leaves among the outstanding accesses (R235). -/
inductive Ctr where
  | ld | st | mx | fence
  deriving DecidableEq, Repr

/-- What an outstanding access does when it is performed (R223 to R232, R331, R341, R348). -/
inductive AccKind where
  /-- A load of n bytes into scalar register d, sign-extended when sx. -/
  | loadS (d : Reg) (n : Nat) (sx : Bool)
  /-- A vector load into architectural register v. -/
  | loadV (v n : Nat)
  | store (n : Nat)
  /-- A scalar atomic; d none: no return. -/
  | atomS (d : Option Reg) (op : AtomOp) (n : Nat)
  | atomV (v : Nat) (op : AtomOp)
  /-- The reducing and updating Seedbank forms (R341). -/
  | sbRed (op : AtomOp)
  | sbUpd (op : AtomOp)
  | rred (op : AtomOp) (n : Nat)
  /-- The record read of an uncounted instruction from another package (R369). -/
  | record
  /-- accrd: tile handle, band, first column, clear, destination (R331). -/
  | accrd (v handle band col : Nat) (clear : Bool)
  /-- The token of an MX-counted command in the core's Lattice queue (R189). -/
  | command
  /-- A fence of kind 0 to 3 and scope code (R235). -/
  | fence (kind scope : Nat)
  deriving DecidableEq, Repr

/-- Where a checked and translated address lies (R65, R220, R368). -/
inductive Place where
  /-- Physical address of tier-1 or tier-2 memory, with the page's REGION (R73). -/
  | mem (pa region : Nat)
  /-- Offset in the block's local store. -/
  | loc (o : Nat)
  /-- Byte offset in the package's Seedbank: die · 2^26 + offset. -/
  | seed (o : Nat)
  /-- Host memory behind host port p (R414). -/
  | host (p a : Nat)
  /-- Another package's export window (R369), with the page's REGION (R73). -/
  | remote (pkg o region : Nat)
  deriving DecidableEq, Repr

/-- How far a part of an access has come. -/
inductive Phase where
  | idle
  /-- The registration was granted (REG_REQ performed) and the bytes are still to be written. -/
  | granted
  /-- The value was read (REG_FWD answered, or a packet's reply arrived). -/
  | got (v : Nat)
  /-- Refused: a race, with required scope, RSCOPE found and owner (R86). -/
  | nak (need found : Nat) (owner : BitVec 32)
  /-- The packet is sent under this sequence number of the flow to package dst (R342); lanes of one word that travel together
  share it (R92, R228). -/
  | sent (dst seq : Nat)
  /-- A remote home refused it (R369). -/
  | refused
  | poisoned
  | done
  deriving DecidableEq, Repr

/-- One indivisible part of an access: a lane's element, or one word of an 8-byte scalar access (R90). -/
structure Part where
  lane : Nat
  va : Nat
  place : Place
  n : Nat
  /-- Byte position within the value. -/
  off : Nat
  /-- First operand of a store or atomic. Of a load or fetch from another package: 1 once an acquire, or a write of its own core, has
  overtaken the fill, which then leaves no word Valid (R83, R97). -/
  x : Nat
  /-- Second operand of a `cas`. -/
  y : Nat
  phase : Phase
  deriving DecidableEq, Repr

/-- An issued, counted access or command that is not yet retired (R189, R190). -/
structure Access where
  /-- Program-order number within the thread. -/
  seq : Nat
  ctr : Ctr
  /-- Its number among the instructions of its counter (R191). -/
  k : Nat
  pc : Word
  kind : AccKind
  policy : Policy
  parts : List Part
  /-- Lanes of a vector load, or words of a scalar load, that still own their destination (R173). -/
  dest : List Nat
  /-- Part of an open transaction (R238). -/
  tx : Bool
  inTrap : Bool
  /-- The context's phase bit when it issued, which its packets carry (R354). -/
  ph : Bool
  /-- The reference count of its core's die when it issued (R385). -/
  since : Nat
  deriving DecidableEq, Repr

/-- A deferred cause that waits for its trap point (R88, R191, R295, R392). -/
structure Pending where
  seq : Nat
  ctr : Ctr
  k : Nat
  cause : Nat
  pc : Word
  addr : Word
  info : Word
  /-- The barrier whose next nbwait or nbtest delivers it (R295), if that is its point. -/
  bar : Option Nat
  /-- A point covered it already: taken when the handler returns (R88). -/
  due : Bool
  inTrap : Bool
  deriving DecidableEq, Repr

/-- An asynchronous cause held for a thread (R125, R126, R298). barrow names the suspended command. -/
structure Async where
  cause : Nat
  addr : Word
  info : Word
  barrow : Option Nat
  deriving DecidableEq, Repr

/-- Why a thread waits at its instruction (R44, R55, R56, R189). -/
inductive WaitKind where
  | counter
  | waitc
  | memory
  | bar
  | nb (n : Nat) (phase : Bool)
  | queuePush (q : Nat)
  | queuePop (q : Nat)
  | rendez
  | trellis (id : Nat) (gen : Bool)
  | task (uid : Nat)
  /-- wsleep: condition F, address, compare value (R242). -/
  | sleep (cc va : Nat) (cmp : Word)
  | engine
  | collective
  | quiet (phase : Bool)
  /-- rwin: until every unit has answered (R350). -/
  | window
  | gang (slot : Nat)
  | fetch
  | fault
  | pair
  | yields
  | exiting
  deriving DecidableEq, Repr

structure Wait where
  kind : WaitKind
  /-- TIME as the thread reads it, and the package's count of cycles, when the wait began (R21, R242). -/
  since : Nat
  cycle : Nat
  /-- The last value an evaluation of wsleep read (R242). -/
  last : Option Nat
  /-- A completion recorded for this wait: its value (R246). -/
  result : Option Nat
  /-- A trap found for this wait: the TRAPINFO of ILLEGAL_WAIT (R44, R245), or 2^40 · cause + TRAPINFO. -/
  fail : Option Nat
  /-- What the instruction read at issue, once: its source registers (R173), or the stamp up to which it waits (R328). -/
  args : List Word
  /-- When `wsleep` last evaluated, where it must evaluate again 1 µs later: it was refused, or holds no table entry (R243). -/
  again : Option Nat
  deriving DecidableEq, Repr

/-- What one lane of a transaction has read and written (R238): word physical numbers with the recorded value, and
bytes by physical address; lines are counted from them. -/
structure TxLane where
  reads : Map Nat
  writes : Map Byte
  /-- Virtual address of each written word, for the registration at commit. -/
  regions : Map Nat
  /-- The last store to each written word: program-order number, number in ST, pc, address (R392). -/
  stores : Map (Nat × Nat × Word × Nat)
  aborted : Nat
  deriving DecidableEq, Repr

/-- The transaction state behind TXSTAT (R237 to R241). -/
structure Tx where
  isOpen : Bool
  ncommit : Nat
  nabort : Nat
  lane : Nat
  reason : Nat
  mixed : Bool
  lanes : Map TxLane
  committed : List Nat
  deriving DecidableEq, Repr

/-- An open LOOP: first body record, body length, iterations, current iteration, and the three strides (R263). -/
structure ListLoop where
  first : Nat
  len : Nat
  count : Nat
  iter : Nat
  d : Nat
  a : Nat
  b : Nat
  deriving DecidableEq, Repr

/-- An engine's list (R262, R263): the next record, an open LOOP with its iteration, the bases. -/
structure EList where
  start : Nat
  next : Nat
  loop : Option ListLoop
  baseA : Nat
  baseB : Nat
  ended : Bool
  /-- A trap held for the joining instruction: cause, TRAPADDR, TRAPINFO (R265). -/
  trap : Option (Nat × Nat × Nat)
  pc : Word
  /-- Accesses of its wave below this program-order number come before its commands (R281, R318). -/
  seq : Nat
  deriving DecidableEq, Repr

/-- One result the leader of a dual pair hands to its shadow (R398): the instruction's number in the pair, the scalar
and vector destinations it wrote, and the performed lanes. -/
structure LvqEntry where
  n : Nat
  scal : Map Word
  vec : Map VReg
  performed : List Nat
  deriving DecidableEq, Repr

/-- How far a thread's life has come. -/
inductive Life where
  | running
  | exited
  /-- Halted by UE_CONSUMED, SDC_DETECTED or pgres ABORT (R389). -/
  | halted
  /-- Stopped with its context (R375, R394). -/
  | stopped
  /-- Ended off-core with its block saved (R383). -/
  | saved
  deriving DecidableEq, Repr

/-- A wave's scalar thread with its lanes, or a Frailor core (R32, R172, R386). -/
structure Thread where
  uid : Nat
  /-- Global core number: 128 · die + index for a compute core, 512 + n for Frailor core n. -/
  core : Nat
  ctx : Nat
  blk : Nat
  wib : Nat
  wslot : Nat
  role : Nat
  prio : Nat
  cls : Nat
  succ : Bool
  shadow : Bool
  partner : Option Nat
  life : Life
  pc : Word
  sreg : Map Word
  vbase : Nat
  /-- Live architectural vector registers (R57). -/
  vreg : Map VReg
  /-- Bound registers, most recently used first; a live register not listed here is spilled (R58). -/
  bound : List Nat
  quota : Nat
  fixq : Bool
  fstat : BitVec 5
  frm : BitVec 3
  mstat : BitVec 3
  flogen : BitVec 7
  tvec : Word
  wtimeout : BitVec 40
  trapcause : Word
  trappc : Word
  trapaddr : Word
  trapinfo : Word
  tepc : Word
  timeKept : Nat
  /-- Physical base of the wave's private areas: the scalar area, then one per lane (R66). -/
  priv : Nat
  tx : Tx
  /-- Program-order counter and per-counter issue counters (R191). -/
  seq : Nat
  nLd : Nat
  nSt : Nat
  nMx : Nat
  out : List Access
  pending : List Pending
  async : List Async
  /-- Single-lane trap mode with its register set and its own counters (R267, R378). -/
  trapMode : Bool
  treg : Map Word
  tLd : Nat
  tSt : Nat
  /-- Command named by the current Barrow element trap (R298), if it is one. -/
  trapBarrow : Option Nat
  /-- The fault record a stalled access waits on (R380). -/
  faultRec : Option Nat
  /-- Lanes treated as performed by pgres EMULATED and their DATA (R381). -/
  emulated : Option (List Nat × Nat)
  wait : Option Wait
  /-- The wait of the instruction an asynchronous trap interrupted (R246). -/
  frozenWait : Option Wait
  latList : Option EList
  barList : Option EList
  lvq : List LvqEntry
  icount : Nat
  lastIssue : Nat
  boost : Bool
  starved : Nat
  score : Nat
  sPoison : Map Bool
  vPoison : Map Bool
  /-- Registers of the trap set under an uncorrectable error (R391). -/
  tPoison : Map Bool
  /-- Words a dual pair's leader has executed and its shadow has not, by number in the pair (R399). -/
  trace : Map W32
  /-- Packages whose words a `txe` of this thread holds until it commits (R105). -/
  locking : List Nat
  deriving DecidableEq, Repr

/-- A named barrier (R250). -/
structure Barrier where
  sector : Bool
  expected : Nat
  arrived : Nat
  phase : Bool
  status : Nat
  amask : List Nat
  /-- The barrier value at the last completion of a phase (R253). -/
  comp : Option Nat
  deriving DecidableEq, Repr

/-- A stage queue (R39, R54, R55). segs: its segments in first-in, first-out order, each with its occupied slots; true
marks the base segment, which is never returned to the pool. -/
structure Queue where
  code : Nat
  depth : Nat
  base : Nat
  segs : List (Bool × List (List Byte))
  producer : Nat
  consumer : Nat
  /-- Slots taken so far: the number of the slot at the head; and the slots under an uncorrectable error, by number (R391). -/
  head : Nat
  bad : List Nat
  deriving DecidableEq, Repr

/-- A role of a block (R38). -/
structure Role where
  entry : Nat
  waves : Nat
  fixq : Bool
  quota : Nat
  minQuota : Nat
  produce : Nat
  consume : Nat
  deriving DecidableEq, Repr

/-- A copy template (R276). -/
structure Template where
  esize : Nat
  dims : Nat
  xform : Nat
  tag : Nat
  planes : Nat
  ext : List Nat
  sstride : List Int
  dstride : List Int
  valid0 : Nat
  valid1 : Nat
  deriving DecidableEq, Repr

/-- An accumulator tile (R308, R309): elements by 64 · row + column, those that differ from the type's zero. -/
structure Tile where
  gen : Nat
  used : Bool
  int32 : Bool
  banks : List Nat
  wa : Nat
  wb : Nat
  claims : Map Nat
  poison : Bool
  elems : Map W32
  /-- Elements under an uncorrectable error (R391). -/
  bad : Map Bool
  /-- An `accfree` has issued: the handle is stale for later instructions, and earlier work still runs (R328). -/
  freeing : Bool
  deriving DecidableEq, Repr

/-- One output element of a running product: the exact sum of the open scale block (of all of K for INT32), the accumulator's
pattern so far, and its flags (R146 to R149, R320). -/
structure PartSum where
  sum : Int
  acc : Nat
  flags : Nat
  deriving DecidableEq, Repr

/-- What a Lattice command does (R313, R324, R329, R332, R335, R336), with everything it captured at issue. -/
inductive LatOp where
  /-- A product into a tile: the A row of each output row (0xFFFF: a zero row), format block, dimensions, widths, overwrite. -/
  | mma (handle : Nat) (rows : List Nat) (fb : List Byte) (dims wa wb : Nat) (ow : Bool)
  | zero (handle : Nat)
  | write (handle band col : Nat) (v : VReg) (mask : List Nat)
  | quant (src : Nat) (ctl : List Byte) (d : Reg)
  | pack (ctl : List Byte) (v : VReg) (mask : List Nat)
  | unpack (ctl : List Byte) (d : Nat) (mask : List Nat)
  deriving DecidableEq, Repr

/-- A command in a core's sequencer queue (R313, R317). -/
structure LatCmd where
  /-- Its place in issue order. -/
  uid : Nat
  /-- The wave it counts as issued by. -/
  thr : Nat
  blk : Nat
  op : LatOp
  cost : Nat
  granule : Nat
  /-- Program-order number of a direct command's access, which MX counts. -/
  token : Option Nat
  /-- The list or follow-on block it comes from. -/
  list : Option ListId
  /-- Local-store accesses of its wave below this program-order number come first (R318). -/
  seq : Nat
  pc : Word
  /-- Its record's local offset and word, for a trap of a list (R265). -/
  record : Nat × Nat
  /-- Given to the Lattice by the sequencer, at this place; 0: still queued (R53). -/
  order : Nat
  /-- What it read at issue lies under an uncorrectable error (R316). -/
  bad : Bool
  /-- A running product's next K-group and its output elements so far (R320). -/
  at' : Nat
  sums : List PartSum
  deriving DecidableEq, Repr

/-- The state of one destination sector of a copy command (R286, R292). -/
inductive SectorPhase where
  | waiting
  /-- Registered to the Barrow engine between REG-XFER and REG-ACK. -/
  | transferring
  | acked
  | delivered
  deriving DecidableEq, Repr

/-- A copy command (R279 to R300), with all it read at issue. -/
structure BarCmd where
  id : Nat
  /-- The issuing wave. -/
  thr : Nat
  blk : Nat
  ctx : Nat
  /-- Accesses of its wave below this program-order number come first (R281). -/
  seq : Nat
  pc : Word
  word : W32
  dval : Nat
  own : Bool
  granule : Nat
  src : Nat
  dst : Nat
  owner : BitVec 32
  /-- Local offset of the follow-on block of a copym (R294). -/
  follow : Option Nat
  bar : Nat
  tmpl : Template
  fromList : Bool
  /-- Destination sectors in the order of their first element, with their state. -/
  sectors : List (Nat × SectorPhase)
  /-- Linear index of the next element to start. -/
  next : Nat
  /-- What started elements have not yet written: bytes by destination address, or bits (8 · offset + bit) for planes. -/
  staged : Map Byte
  /-- Ranges pgres EMULATED treats as performed (R298): destination side, first byte, length. -/
  skip : List (Bool × Nat × Nat)
  /-- Every source element is read before any byte is written (R296). -/
  whole : Bool
  /-- Suspended at a faulting element (R298): destination side, faulting address, cause, code. -/
  suspended : Option (Bool × Nat × Nat × Nat)
  /-- The place each started element was translated to, by its first destination byte (R373). -/
  held : Map Place
  /-- A source element asked of another package, or (off 1) bytes sent to it. -/
  ask : Option Part
  /-- The fault it is suspended at has been reported, every element before it being written (R298). -/
  told : Bool
  followList : Option EList
  deriving DecidableEq, Repr

/-- A block, resident or saved (R32, R383). -/
structure Block where
  uid : Nat
  ctx : Nat
  task : Nat
  idx : Nat
  core : Nat
  slot : Nat
  resident : Bool
  started : Bool
  waves : List Nat
  nwaves : Nat
  dual : Bool
  cls : Nat
  prio : Nat
  succ : Bool
  roles : List Role
  quotaTotal : Nat
  lsBytes : Nat
  usable : Nat
  ls : Memory
  tags : Map Nat
  pages : List Nat
  lsPoison : Map Bool
  bars : Map Barrier
  atBar : List Nat
  /-- How many times bar has completed (R248). -/
  barDone : Nat
  queues : Map Queue
  tmpls : Map Template
  accBanks : Nat
  tiles : Map Tile
  collCount : Map Nat
  collOut : Nat
  startedAt : Nat
  rotating : Bool
  residentSince : Nat
  spillHeld : Nat
  energy : Nat
  /-- Engine commands of a block that is saved (R300, R320). -/
  savedLat : List LatCmd
  savedBar : List BarCmd
  exits : Nat
  halts : Nat
  deriving DecidableEq, Repr

/-- A word in an L1 (R77); an unlisted word is Invalid. -/
structure L1Word where
  registered : Bool
  data : W32
  wslot : Nat
  rscope : Nat
  region : Nat
  bad : Bool
  deriving DecidableEq, Repr

/-- A held translation: physical page base, page size as a power of two, REGION, NS, X, W (R367, R372). -/
structure Xlat where
  pa : Nat
  bits : Nat
  region : Nat
  ns : Bool
  x : Bool
  w : Bool
  deriving DecidableEq, Repr

/-- A line of instruction words on a page of another package that a core has asked for: its context, its virtual address, and the words
asked (R273, R369). -/
structure LineFetch where
  ctx : Nat
  line : Nat
  parts : List Part
  deriving DecidableEq, Repr

/-- A core's own units (R15). -/
structure Core where
  l1 : Map L1Word
  victims : List (Nat × Nat)
  ibuf : Map W32
  /-- Words of instruction lines that a fill could not deliver (R274). -/
  unfilled : Map Bool
  /-- Lines asked of other packages. -/
  fetching : List LineFetch
  tlb : Map Xlat
  latq : List LatCmd
  deficit : Map Nat
  barrow : List BarCmd
  tmplSlots : List (Nat × Nat)
  /-- Cycles its clock has counted beyond the package's count (R124, R177). -/
  clk : Nat
  rotation : List Nat
  lastRotate : Nat
  allowance : Nat
  idleSince : Nat
  deriving DecidableEq, Repr

/-- The state of a word at its home (R74); an unlisted word has the value its tier memory holds (Invalid, or Valid
and equal to it). -/
inductive Home where
  | valid (v : W32)
  | registered (o : BitVec 32)
  deriving DecidableEq, Repr

/-- A line held by an LLC (R393, R408). lru grows with each use; ue: an error planted or found in its data. -/
structure Line where
  way : Nat
  dirty : Bool
  tag : Nat
  lru : Nat
  ue : Option Bool
  deriving DecidableEq, Repr

/-- A launch record as read (R36). -/
structure Record where
  entry : Nat
  param : Nat
  blocks : Nat
  waves : Nat
  cls : Nat
  prio : Nat
  hint : Bool
  prefDie : Nat
  dual : Bool
  selfh : Bool
  gang : Bool
  lsBytes : Nat
  accBanks : Nat
  quota : Nat
  energy : Nat
  done : Nat
  ctx : Nat
  roles : List Role
  queues : Map Queue
  addr : Nat
  deriving DecidableEq, Repr

/-- A task (R32, R41, R49). -/
structure Task where
  uid : Nat
  record : Record
  die : Nat
  slot : Option Nat
  /-- Aged priority, birth order, blocks placed, blocks ended, blocks counted in ENDED. -/
  eff : Nat
  born : Nat
  placed : Nat
  ended : Nat
  counted : Nat
  status : Nat
  isOver : Bool
  /-- Written completion value, for launch.wait. -/
  word : Option Nat
  reserved : Nat
  parent : Option Nat
  gangKey : Option Nat
  idxBase : Nat
  handler : Bool
  launcherDie : Nat
  deriving DecidableEq, Repr

/-- A ring kept by the service runtime: its records and its drop count (R382, R388). -/
structure Log where
  records : List (List Byte)
  drops : Nat
  deriving DecidableEq, Repr

/-- An outstanding fault record (R379): its bytes, when it was written, whom it stalls. -/
structure FaultRec where
  bytes : List Byte
  addr : Nat
  since : Nat
  uid : Nat
  barrow : Option (Nat × Nat)
  /-- Bytes that the ring does not hold yet, and packets with earlier ones that are not acknowledged: destination, number. -/
  todo : List Byte
  acks : List (Nat × Nat)
  /-- Words on pages of other packages that the runtime has asked for on its behalf, by address. -/
  words : List (Nat × Phase)
  /-- The handler record has been launched (R380). -/
  launched : Bool
  deriving DecidableEq, Repr

/-- A context (R32). -/
structure Ctx where
  live : Bool
  terminated : Bool
  ptroot : Nat
  tdmask : BitVec 4
  energy : Nat
  remainder : Nat
  budget : Nat
  admitted : Nat
  spillFree : Nat
  overFree : Nat
  privBytes : Nat
  privBase : Nat
  privNext : Nat
  poolVa : Nat
  poolLen : Nat
  poolPages : List Nat
  handler : Nat
  packages : List Nat
  events : Log
  races : Log
  arith : Log
  faults : List FaultRec
  /-- The fault ring: its address, its records, and how many have been written (R379). -/
  faultRing : Nat
  faultSlots : Nat
  faultNext : Nat
  windows : Map (Nat × Nat × Nat × Nat)
  groups : Map (Nat × List Nat)
  phase : Bool
  /-- Units that reported quiet, per phase (R355). -/
  quiet0 : List Nat
  quiet1 : List Nat
  deriving DecidableEq, Repr

/-- A Trellis identifier (R255, R256). -/
structure Trellis where
  ctx : Nat
  tasks : List Nat
  n : Nat
  count : Nat
  gen : Bool
  status : Nat
  /-- When each completed generation is released, 48 ns after its N-th arrival, oldest first. -/
  due : List Nat
  deriving DecidableEq, Repr

/-- A sending flow (R342 to R346). -/
structure Flow where
  next : Nat
  unacked : List (Packet × Nat)
  route : List Nat
  routed : Bool
  failedAt : Nat
  resync : Bool
  /-- The port that sent the unacknowledged packets of a flow that has lost its route (R342). -/
  sentBy : Option Nat
  deriving DecidableEq, Repr

/-- A receiving flow (R343, R345). -/
structure RxFlow where
  next : Nat
  early : List Packet
  settled : List Nat
  kept : Map Reply
  deriving DecidableEq, Repr

/-- A gang slot of the launching package (R363, R366): phase 1 preparing, 2 begun, 0 free. -/
structure Gang where
  phase : Nat
  gen : Nat
  ctx : Nat
  members : List Nat
  answers : Map Nat
  begun : List Nat
  since : Nat
  done : Nat
  ended : Nat
  abandoned : Bool
  uid : Nat
  /-- Address of the launch record, in the context. -/
  record : Nat
  finished : List Nat
  deriving DecidableEq, Repr

/-- A gang this package is a member of (R363). -/
structure Member where
  index : Nat
  record : Record
  status : Nat
  task : Option Nat
  abandoned : Bool
  deriving DecidableEq, Repr

/-- A member that is still reading its launch record: the message, and the words on pages of other packages it has asked for,
by address (R363, R369). -/
structure Prep where
  msg : GangMsg
  words : List (Nat × Phase)
  deriving DecidableEq, Repr

/-- A participant's part of a collective in flight on this package (R358, R359). -/
structure Coll where
  /-- The issuing wave and the instruction's program-order number (R88, R96). -/
  thr : Nat
  seq : Nat
  ctx : Nat
  group : Nat
  k : Nat
  rank : Nat
  blk : Nat
  core : Nat
  bar : Nat
  send : Nat
  recv : Nat
  count : Nat
  kind : Nat
  op : Nat
  size : Nat
  root : Nat
  gang : Option Nat
  pc : Word
  /-- The phase bit sampled at issue (R354). -/
  ph : Bool
  /-- The pages of both buffers, translated and pinned at issue (R358): 64 KiB page number and translation. -/
  pins : Map Xlat
  /-- Words of a send buffer on pages of other packages, by address, as they are asked for (R359). -/
  words : List (Nat × Phase)
  /-- Words of the receive buffer written so far; packets of other packages' words still to be acknowledged: destination, number
  (R359). -/
  wrote : Nat
  acks : List (Nat × Nat)
  deriving DecidableEq, Repr

/-- A switch's merge entry (R351). -/
structure Merge where
  sw : Nat
  packet : Packet
  since : Nat
  deriving DecidableEq, Repr

/-- A request that has crossed dies and is not answered (R14, R385): the dies, whether its second path is the other crossbar link (opposite
dies) or the Frailor crossbar (neighbours), how often it has timed out, and the requesting die's reference count when it was sent. -/
structure CrossReq where
  req : PartName
  src : Nat
  dst : Nat
  link : Bool
  tries : Nat
  since : Nat
  deriving DecidableEq, Repr

/-- A message this package sends to another one, until it is taken (R343, R352, R363). -/
inductive Msg where
  /-- The acknowledgement of a packet of the flow from a package, with its reply. -/
  | ack (dst seq : Nat) (r : Reply)
  /-- A home asks a source to send packets again unmerged. -/
  | replayUnmerged (dst : Nat) (seqs : List Nat)
  | prepare (pkg : Nat) (g : GangMsg)
  | answer (pkg slot member status : Nat)
  | begin (pkg key : Nat)
  | cancel (pkg key : Nat)
  | begun (pkg slot member : Nat) (ended : Option Nat)
  /-- The context has been terminated here with this cause (R375). -/
  | terminated (pkg ctx cause : Nat)
  /-- A window of a context is declared here, with its facts, or removed; and the answer to such a message (R350). -/
  | window (dst ctx w : Nat) (facts : Option (Nat × Nat × Nat × Nat))
  | windowHeld (dst ctx w : Nat)
  deriving DecidableEq, Repr

/-- A planted error (R404, R405, R409). -/
structure Plant where
  target : Nat
  ue : Bool
  addr : Nat
  deriving DecidableEq, Repr

/-- Error injection and row accounting (R395, R396, R404). -/
structure Errors where
  status : Nat
  ue : Bool
  target : Nat
  addr : Nat
  plant : Option Plant
  /-- Corrected row errors waiting to be found by a read: physical address. -/
  rows : List Nat
  filter : Map Bool
  repeats : List (Nat × Nat × Nat)
  sparedBanks : Map Nat
  spared : List Nat
  /-- Dirty lines in which an eviction found an error: R394's steps come next. -/
  found : List (Nat × Line)
  /-- The filter period, of 24 hours, in which the filter was last cleared (R395). -/
  period : Nat
  deriving DecidableEq, Repr

/-- Host side and bring-up (R411 to R420). -/
structure HostSide where
  stage : Nat
  code : Nat
  detail : Nat
  ready : Bool
  racecnt : Nat
  raceRd : Bool
  raceWr : Bool
  hostRole : List Bool
  hasHost : List Bool
  linkUp : List Bool
  caps : List Nat
  straps : List Nat
  measure : List (List Byte)
  doe : List (List Byte)
  /-- Words registered to a host bridge, with their data: key port · 2^51 + word number. -/
  bridge : Map W32
  /-- Host ports in PCIe mode, which have no CXL.cache and no CXL.mem (R411). -/
  pcie : List Bool
  /-- PERST_N of each host port is low (R420). -/
  perst : List Bool
  mem : Memory
  reads : List (Option Nat)
  deriving DecidableEq, Repr

/-- The state of each die for DIECTL (R401): 0 ONLINE, 1 DRAINING, 2 OFFLINE, 3 LOST. -/
structure DieCtl where
  states : List Nat
  result : Nat
  short : Nat
  die : Nat
  deriving DecidableEq, Repr

/-- One turn of the machine's agenda (log 3): which agent moves next. -/
inductive Turn where
  /-- The thread with this number runs from now on. -/
  | run (uid : Nat)
  /-- An event of the opcode table. -/
  | event (i : Instr)
  /-- Reference ticks pass, and cycles of the arithmetic and of the service clock. -/
  | elapse (ticks cycles svc : Nat)
  /-- A pre-emption the dispatcher owes after it took a task's slot (R49). -/
  | preempt (blk : Nat)
  /-- An uncorrectable error arises: space (0 home word, 1 L1 word of a core, 2 local-store word of a block, 3 scalar
  register, 4 vector element, 5 Seedbank word, 6 tile element, 8 instruction-buffer word, 9 translation of a core,
  10 translation of a die, 11 trap register, 12 slot of a stage queue), unit, index; or, space 7, a corrected error arises in
  the tier-1 row of the address index (R391, R395). -/
  | upset (space unit index : Nat)
  /-- The clock of one core counts n cycles more than the others (R177). -/
  | clock (core n : Nat)
  /-- The reference counter of one die moves against the Frailor chiplet's (R21, R385). -/
  | drift (die : Nat) (n : Int)
  /-- The oldest message leaves for its package. -/
  | take
  /-- Word that another package of the context has terminated it (R375). -/
  | ended (ctx cause : Nat)
  /-- A running product advances by k split points of its granule (R320). -/
  | advance (core uid k : Nat)
  /-- Another package of a context has declared a window, with its facts, or removed it; a unit has answered such a message (R350). -/
  | window (src ctx w : Nat) (facts : Option (Nat × Nat × Nat × Nat))
  | windowHeld (ctx w unit : Nat)
  /-- The host changes its own memory behind a port (R414). -/
  | hostWrites (port a : Nat) (bytes : List Byte)
  /-- A host bridge writes a word back because it needs the entry (R412). -/
  | bridgeBack (port w : Nat)
  /-- Stage 7 of bring-up (R417): the service runtime runs, with the package's number and its flows' routes. -/
  | runtimeUp (pkg : Nat) (routes : List (Nat × List Nat))
  /-- The host reads 8 bytes of function 0's register window (R411). -/
  | bar0Read (port off : Nat)
  /-- PERST_N of a host port goes low or high (R420). -/
  | perst (port : Nat) (low : Bool)
  /-- The first n records of the package event log have been read (R420). -/
  | eventsSeen (n : Nat)
  deriving DecidableEq, Repr

/-- The whole machine. -/
structure State where
  th : Thread
  threads : Map Thread
  nextUid : Nat
  blocks : Map Block
  cores : Map Core
  tasks : Map Task
  ctxs : Map Ctx
  tier : Memory
  home : Map Home
  memPoison : Map Bool
  /-- Words of tier-1 memory under an uncorrectable error whose line the LLC holds, with good data (R391, R405). -/
  tierPoison : Map Bool
  lines : Map Line
  tick : Nat
  quarantined : List Nat
  retired : List Nat
  seed : Memory
  seedPoison : Map Bool
  /-- Entries of the watch tables: thread, die, and number of the 8-byte word (R243). -/
  watch : List (Nat × Nat × Nat)
  /-- Sleeping threads whose word was written since their last evaluation (R243). -/
  woken : List Nat
  trellis : Map Trellis
  /-- The reference count of the Frailor chiplet, and how far each die's copy stands from it (R17, R21). -/
  now : Nat
  skew : List Int
  /-- Last-level translations of each die (R16, R372). -/
  dieTlb : Map (Map Xlat)
  /-- Page-table entries on pages of other packages that walks have asked for: package, offset, and how far (R368, R371). -/
  asks : List (Nat × Nat × Phase)
  /-- Page-table words that walks have read since the last step: context and word. What the reads do at the LLC comes before anything
  else (R408, R409). -/
  walked : List (Nat × Nat)
  /-- Cycles of the arithmetic clock and of the service clock since package reset (R177). -/
  cycles : Nat
  svcCycles : Nat
  frozen : Bool
  mhz : Nat
  pkg : Nat
  dies : DieCtl
  windowAdmitted : Nat
  windowNo : Nat
  events : Log
  /-- Records of the package event log that have been read (R420). -/
  eventsRead : Nat
  logCap : Nat
  flows : Map Flow
  rx : Map RxFlow
  failed : Map Nat
  merges : List Merge
  down : BitVec 32
  unreach : BitVec 16
  reroute : BitVec 16
  replayed : BitVec 32
  fxEn : Bool
  fxBase : Nat
  gangs : Map Gang
  members : Map Member
  preps : Map Prep
  colls : List Coll
  /-- Send buffers read for each collective: context, group, k, rank, bytes. -/
  collSent : List (Nat × Nat × Nat × CollPart)
  crossings : List CrossReq
  outbox : List Msg
  /-- Units that have still to answer a `rwin`: context, window, unit (R350). -/
  winAsks : List (Nat × Nat × Nat)
  /-- Words that the commit of a transaction holds at their homes here (R105): package and thread of its wave, word number. -/
  locks : List (Nat × Nat × Nat)
  /-- Completion words whose home cannot be reached yet: context, address, value (R41). -/
  owed : List (Nat × Nat × Nat)
  err : Errors
  host : HostSide
  test : List Nat
  /-- The period in which each periodic event last happened, by event and unit. -/
  marks : Map Nat
  agenda : List Turn
  free : Nat
  deriving DecidableEq, Repr

/-- No instruction and no event of the manual stops the machine with a fault, so no meaning raises one (safe). -/
inductive Fault where
  /-- Raised by nothing: kept so that a stop would have a name of its own. Safe. -/
  | unreachable
  deriving DecidableEq, Repr

/-- Refusals. -/
inductive Refusal where
  /-- Raised by an arm of Dispatch for an instruction that has no meaning yet. Safe: nothing is claimed of it. -/
  | notModelled (mnemonic : String)
  deriving DecidableEq, Repr

def Tx.reset : Tx := ⟨false, 0, 0, 0, 0, false, [], []⟩

def Log.empty : Log := ⟨[], 0⟩

/-- A thread at reset: every register 0 (R172; log 2 where the manual gives none); QUOTA of a Frailor core, which has none,
reads 64 (DESIGN CHOICE, log 60). -/
def Thread.reset (uid : Nat) : Thread where
  uid := uid
  core := uid
  ctx := 0
  blk := 0
  wib := 0
  wslot := 0
  role := 0
  prio := 0
  cls := 0
  succ := false
  shadow := false
  partner := none
  life := .running
  pc := 0
  sreg := []
  vbase := 0
  vreg := []
  bound := []
  quota := 64
  fixq := false
  fstat := 0
  frm := 0
  mstat := 0
  flogen := 0
  tvec := 0
  wtimeout := 0
  trapcause := 0
  trappc := 0
  trapaddr := 0
  trapinfo := 0
  tepc := 0
  timeKept := 0
  priv := 0
  tx := Tx.reset
  seq := 0
  nLd := 0
  nSt := 0
  nMx := 0
  out := []
  pending := []
  async := []
  trapMode := false
  treg := []
  tLd := 0
  tSt := 0
  trapBarrow := none
  faultRec := none
  emulated := none
  wait := none
  frozenWait := none
  latList := none
  barList := none
  lvq := []
  icount := 0
  lastIssue := 0
  boost := false
  starved := 0
  score := 0
  sPoison := []
  vPoison := []
  tPoison := []
  trace := []
  locking := []

/-- A named barrier at block start (R249). -/
def Barrier.reset : Barrier := ⟨false, 0, 0, false, 0, [], none⟩

/-- A free tile slot of generation 0 (R327). -/
def Tile.reset : Tile := ⟨0, false, false, [], 0, 0, [], false, [], [], false⟩

def Block.reset (uid : Nat) : Block where
  uid := uid
  ctx := 0
  task := 0
  idx := 0
  core := 0
  slot := 0
  resident := false
  started := false
  waves := []
  nwaves := 0
  dual := false
  cls := 0
  prio := 0
  succ := false
  roles := []
  quotaTotal := 0
  lsBytes := 0
  usable := 0
  ls := []
  tags := []
  pages := []
  lsPoison := []
  bars := []
  atBar := []
  barDone := 0
  queues := []
  tmpls := []
  accBanks := 0
  tiles := []
  collCount := []
  collOut := 0
  startedAt := 0
  rotating := false
  residentSince := 0
  spillHeld := 0
  energy := 0
  savedLat := []
  savedBar := []
  exits := 0
  halts := 0

/-- A core at reset: everything empty, allowance 32 (R52). -/
def Core.reset : Core where
  l1 := []
  victims := []
  ibuf := []
  unfilled := []
  fetching := []
  tlb := []
  latq := []
  deficit := []
  barrow := []
  tmplSlots := []
  clk := 0
  rotation := []
  lastRotate := 0
  allowance := 32
  idleSince := 0

def Ctx.reset : Ctx where
  live := false
  terminated := false
  ptroot := 0
  tdmask := 0
  energy := 0
  remainder := 0
  budget := 0
  admitted := 0
  spillFree := 0
  overFree := 0
  privBytes := 0
  privBase := 0
  privNext := 0
  poolVa := 0
  poolLen := 0
  poolPages := []
  handler := 0
  packages := []
  events := Log.empty
  races := Log.empty
  arith := Log.empty
  faults := []
  faultRing := 0
  faultSlots := 0
  faultNext := 0
  windows := []
  groups := []
  phase := false
  quiet0 := []
  quiet1 := []

def Flow.reset : Flow := ⟨0, [], [], true, 0, false, none⟩

def RxFlow.reset : RxFlow := ⟨0, [], [], []⟩

def Gang.reset : Gang := ⟨0, 0, 0, [], [], [], 0, 0, 0, false, 0, 0, []⟩

def Errors.reset : Errors := ⟨0, false, 0, 0, none, [], [], [], [], [], [], 0⟩

/-- Host side at reset: stage 0, nothing trained, measurement registers 0 (R417, R418). -/
def HostSide.reset : HostSide where
  stage := 0
  code := 0
  detail := 0
  ready := false
  racecnt := 0
  raceRd := false
  raceWr := false
  hostRole := [false, false]
  hasHost := [false, false]
  linkUp := [false, false]
  caps := []
  straps := [0, 1, 2, 3]
  measure := List.replicate 8 (List.replicate 64 0)
  doe := []
  bridge := []
  pcie := [false, false]
  perst := [false, false]
  mem := []
  reads := []

/-- The package right after a package reset (R4, R417): Frailor core 0 is the running thread, no context, no task and
no block exists, memory lists nothing, and every register stands at its Reset value. -/
def State.reset : State where
  th := Thread.reset 512
  threads := []
  nextUid := 1024
  blocks := []
  cores := []
  tasks := []
  ctxs := []
  tier := []
  home := []
  memPoison := []
  tierPoison := []
  lines := []
  tick := 0
  quarantined := []
  retired := []
  seed := []
  seedPoison := []
  watch := []
  woken := []
  trellis := []
  now := 0
  skew := [0, 0, 0, 0]
  dieTlb := []
  asks := []
  walked := []
  cycles := 0
  svcCycles := 0
  frozen := false
  mhz := 1900
  pkg := 0
  dies := ⟨[0, 0, 0, 0], 0, 0, 0⟩
  windowAdmitted := 0
  windowNo := 0
  events := Log.empty
  eventsRead := 0
  logCap := 4096
  flows := []
  rx := []
  failed := []
  merges := []
  down := 0
  unreach := 0
  reroute := 0
  replayed := 0
  fxEn := false
  fxBase := 0
  gangs := []
  members := []
  preps := []
  colls := []
  collSent := []
  crossings := []
  outbox := []
  winAsks := []
  locks := []
  owed := []
  err := Errors.reset
  host := HostSide.reset
  test := []
  marks := []
  agenda := []
  free := 0

end Sys2Proof.Machine
end

