-- ==== Sys2Proof/Machine/Flags.lean ====
section
/-! DEFINITION. Floating-point formats, rounding and the exception flags (R127 to R138), computed exactly on
numbers of the form m · 2^e and rounded once. A flag set is a number in the bit positions of FSTAT (R132). -/

namespace Sys2Proof.Machine

open Sys2Proof

/-- A binary format (R127): exponent bits, fraction bits; e4m3 has no infinity (R128). -/
structure FpFmt where
  eb : Nat
  fb : Nat
  e4m3 : Bool

def fp64 : FpFmt := ⟨11, 52, false⟩
def fp32 : FpFmt := ⟨8, 23, false⟩
def fp16 : FpFmt := ⟨5, 10, false⟩
def bf16 : FpFmt := ⟨8, 7, false⟩
def e5m2 : FpFmt := ⟨5, 2, false⟩
def e4m3 : FpFmt := ⟨4, 3, true⟩

def FpFmt.bias (f : FpFmt) : Nat := 2 ^ (f.eb - 1) - 1

/-- The encoding of +∞, or for E4M3 of its NaN: one above the largest finite magnitude (R127, R128). -/
def FpFmt.top (f : FpFmt) : Nat := if f.e4m3 then 0x7F else (2 ^ f.eb - 1) * 2 ^ f.fb

def FpFmt.signBit (f : FpFmt) : Nat := 2 ^ (f.eb + f.fb)

/-- The canonical NaN (R129). -/
def FpFmt.nan (f : FpFmt) : Nat := if f.e4m3 then 0x7F else f.top + 2 ^ (f.fb - 1)

def flagNV : Nat := 1
def flagDZ : Nat := 2
def flagOF : Nat := 4
def flagUF : Nat := 8
def flagNX : Nat := 16

/-- A decoded operand (R128): fin s m e is (-1)^s · m · 2^e. -/
inductive FpVal where
  | nan (signalling : Bool)
  | inf (neg : Bool)
  | fin (neg : Bool) (m : Nat) (e : Int)
  deriving DecidableEq, Repr

/-- The value of a bit pattern (R128). -/
def FpFmt.val (f : FpFmt) (x : Nat) : FpVal :=
  let mag := x % f.signBit
  let neg := decide (x / f.signBit % 2 = 1)
  let ex := mag / 2 ^ f.fb
  let fr := mag % 2 ^ f.fb
  if f.e4m3 && mag = 0x7F then .nan false
  else if !f.e4m3 && ex = 2 ^ f.eb - 1 then
    if fr = 0 then .inf neg else .nan (decide (fr < 2 ^ (f.fb - 1)))
  else if ex = 0 then .fin neg fr (1 - (f.bias : Int) - f.fb)
  else .fin neg (2 ^ f.fb + fr) ((ex : Int) - f.bias - f.fb)

/-- An input read under FTZ: a subnormal reads as zero of its sign and sets no flag (R134). -/
def FpFmt.input (f : FpFmt) (ftz : Bool) (x : Nat) : FpVal :=
  match f.val x with
  | .fin s m e => if ftz && decide (m < 2 ^ f.fb) then .fin s 0 e else .fin s m e
  | v => v

def bitLen (n : Nat) : Nat := if n = 0 then 0 else n.log2 + 1

/-- Whether the candidate away from zero is chosen (R133): rm 0 RNE, 1 RTZ, 2 RUP, 3 RDN. -/
def roundAway (rm : Nat) (neg odd : Bool) (rem2 unit : Nat) (sticky : Bool) : Bool :=
  match rm with
  | 0 => decide (unit < rem2) || (decide (rem2 = unit) && (sticky || odd))
  | 1 => false
  | 2 => !neg && (decide (rem2 ≠ 0) || sticky)
  | _ => neg && (decide (rem2 ≠ 0) || sticky)

/-- `rne(x, T)` of the nonzero value (-1)^neg · (m + sticky) · 2^e, sticky a fraction strictly between 0 and 1
(R121, R132 to R134). Answers the bit pattern and the flags; UF holds also where it rounds to zero (log 47). -/
def FpFmt.round (f : FpFmt) (rm : Nat) (ftz neg : Bool) (m : Nat) (e : Int) (sticky : Bool) : Nat × Nat :=
  let sb := if neg then f.signBit else 0
  let emin : Int := 1 - f.bias
  let ex : Int := e + bitLen m - 1
  let q : Int := (if ex < emin then emin else ex) - f.fb
  let sh := (q - e).toNat
  let n0 := if q ≤ e then m * 2 ^ (e - q).toNat else m / 2 ^ sh
  let rem2 := if q ≤ e then 0 else 2 * (m % 2 ^ sh)
  let inexact := decide (rem2 ≠ 0) || sticky
  let n := if roundAway rm neg (decide (n0 % 2 = 1)) rem2 (2 ^ sh) sticky then n0 + 1 else n0
  let enc := (q - (emin - f.fb)).toNat * 2 ^ f.fb + n
  let tie := f.e4m3 && rm = 0 && decide (enc + 1 = f.top) && decide (n = n0) && decide (rem2 = 2 ^ sh)
  if f.top ≤ enc || tie then
    let r := if f.e4m3 then f.top - 1
      else match rm with
        | 0 => f.top
        | 1 => f.top - 1
        | 2 => if neg then f.top - 1 else f.top
        | _ => if neg then f.top else f.top - 1
    (sb + r, flagOF + flagNX)
  else if decide (enc < 2 ^ f.fb) && ftz then (sb, flagUF + flagNX)
  else
    let uf := decide (enc < 2 ^ f.fb) && inexact
    (sb + enc, (if inexact then flagNX else 0) + (if uf then flagUF else 0))

/-- Round an exact signed dyadic number x · 2^e; an exact zero takes the given sign. -/
def FpFmt.roundInt (f : FpFmt) (rm : Nat) (ftz : Bool) (x : Int) (e : Int) (zeroNeg : Bool) : Nat × Nat :=
  if x = 0 then (if zeroNeg then f.signBit else 0, 0)
  else f.round rm ftz (decide (x < 0)) x.natAbs e false

def signed (neg : Bool) (m : Nat) : Int := if neg then -(m : Int) else m

def FpVal.isNan : FpVal → Bool
  | .nan _ => true
  | _ => false

def FpVal.isSnan : FpVal → Bool
  | .nan s => s
  | _ => false

def FpVal.neg : FpVal → FpVal
  | .nan s => .nan s
  | .inf s => .inf (!s)
  | .fin s m e => .fin (!s) m e

def nvIf (b : Bool) : Nat := if b then flagNV else 0

/-- Exact sum of two values, rounded once (R133, R207). -/
def FpFmt.addV (f : FpFmt) (rm : Nat) (ftz : Bool) (x y : FpVal) : Nat × Nat :=
  match x, y with
  | .nan a, y => (f.nan, nvIf (a || y.isSnan))
  | x, .nan b => (f.nan, nvIf (b || x.isSnan))
  | .inf a, .inf b => if a = b then (f.top + (if a then f.signBit else 0), 0) else (f.nan, flagNV)
  | .inf a, .fin .. => (f.top + (if a then f.signBit else 0), 0)
  | .fin .., .inf b => (f.top + (if b then f.signBit else 0), 0)
  | .fin a m e, .fin b n g =>
    let lo := min e g
    let v := signed a m * 2 ^ (e - lo).toNat + signed b n * 2 ^ (g - lo).toNat
    f.roundInt rm ftz v lo (if a = b then a else decide (rm = 3))

/-- Product as an exact value with a flag for 0 · ∞. -/
def mulV (x y : FpVal) : FpVal × Bool :=
  match x, y with
  | .nan a, y => (.nan (a || y.isSnan), false)
  | x, .nan b => (.nan (b || x.isSnan), false)
  | .inf a, .inf b => (.inf (a != b), false)
  | .inf a, .fin b n _ => if n = 0 then (.nan false, true) else (.inf (a != b), false)
  | .fin a m _, .inf b => if m = 0 then (.nan false, true) else (.inf (a != b), false)
  | .fin a m e, .fin b n g => (.fin (a != b) (m * n) (e + g), false)

def FpFmt.ofVal (f : FpFmt) (rm : Nat) (ftz : Bool) (v : FpVal) : Nat × Nat :=
  match v with
  | .nan s => (f.nan, nvIf s)
  | .inf s => (f.top + (if s then f.signBit else 0), 0)
  | .fin s m e => f.roundInt rm ftz (signed s m) e s

/-- Fused x · y + d with one rounding (R208). -/
def FpFmt.fmaV (f : FpFmt) (rm : Nat) (ftz : Bool) (x y d : FpVal) : Nat × Nat :=
  let (p, bad) := mulV x y
  if bad then (f.nan, flagNV) else f.addV rm ftz p d

/-- Exact quotient rounded once (R207). -/
def FpFmt.divV (f : FpFmt) (rm : Nat) (ftz : Bool) (x y : FpVal) : Nat × Nat :=
  match x, y with
  | .nan a, y => (f.nan, nvIf (a || y.isSnan))
  | x, .nan b => (f.nan, nvIf (b || x.isSnan))
  | .inf _, .inf _ => (f.nan, flagNV)
  | .inf a, .fin b .. => (f.top + (if a != b then f.signBit else 0), 0)
  | .fin a .., .inf b => (if a != b then f.signBit else 0, 0)
  | .fin a m e, .fin b n g =>
    let sg := a != b
    if n = 0 then
      if m = 0 then (f.nan, flagNV) else (f.top + (if sg then f.signBit else 0), flagDZ)
    else if m = 0 then (if sg then f.signBit else 0, 0)
    else f.round rm ftz sg (m * 2 ^ 80 / n) (e - g - 80) (decide (m * 2 ^ 80 % n ≠ 0))

/-- Integer square root by Newton's steps from above, with fuel. -/
def isqrtGo (n : Nat) : Nat → Nat → Nat
  | 0, r => r
  | k + 1, r => let r' := (r + n / r) / 2; if r ≤ r' then r else isqrtGo n k r'

def isqrt (n : Nat) : Nat := if n = 0 then 0 else isqrtGo n (n.log2 + 2) (2 ^ (n.log2 / 2 + 1))

/-- rne(√x) (R209). -/
def FpFmt.sqrtV (f : FpFmt) (rm : Nat) (ftz : Bool) (x : FpVal) : Nat × Nat :=
  match x with
  | .nan s => (f.nan, nvIf s)
  | .inf s => if s then (f.nan, flagNV) else (f.top, 0)
  | .fin s m e =>
    if m = 0 then (if s then f.signBit else 0, 0)
    else if s then (f.nan, flagNV)
    else
      let k : Nat := if e % 2 = 0 then 80 else 81
      let n := m * 2 ^ k
      let r := isqrt n
      f.round rm ftz false r ((e - k) / 2) (decide (r * r ≠ n))

/-- rne(1/√x) (R209). -/
def FpFmt.rsqV (f : FpFmt) (rm : Nat) (ftz : Bool) (x : FpVal) : Nat × Nat :=
  match x with
  | .nan s => (f.nan, nvIf s)
  | .inf s => if s then (f.nan, flagNV) else (0, 0)
  | .fin s m e =>
    if m = 0 then (f.top + (if s then f.signBit else 0), flagDZ)
    else if s then (f.nan, flagNV)
    else
      let k : Nat := if e % 2 = 0 then 160 else 161
      let n := 2 ^ k / m
      let r := isqrt n
      f.round rm ftz false r ((-e - k) / 2) (decide (r * r * m ≠ 2 ^ k))

/-- Working precision of the exponential and the logarithm, in bits (log 21). -/
def transBits : Nat := 240

/-- 2 to the fraction given by `k` bits of `fr`, most significant first, scaled by 2^transBits. -/
def exp2Frac (fr : Nat) : Nat → Nat → Nat → Nat
  | 0, _, acc => acc
  | k + 1, root, acc =>
    let root' := isqrt (root * 2 ^ transBits)
    let acc' := if fr / 2 ^ k % 2 = 1 then acc * root' / 2 ^ transBits else acc
    exp2Frac fr k root' acc'

/-- rne(2^x) (R209): exact for integral x, otherwise irrational and so never a tie. -/
def FpFmt.exp2V (f : FpFmt) (rm : Nat) (ftz : Bool) (x : FpVal) : Nat × Nat :=
  match x with
  | .nan s => (f.nan, nvIf s)
  | .inf s => if s then (0, 0) else (f.top, 0)
  | .fin s m e =>
    if m = 0 then f.round rm ftz false 1 0 false
    else if 0 ≤ e || decide (m % 2 ^ (-e).toNat = 0) then
      let n : Int := signed s (if 0 ≤ e then m * 2 ^ (min e 40).toNat else m / 2 ^ (-e).toNat)
      f.round rm ftz false 1 (max (-5000) (min n 5000)) false
    else if e + bitLen m < -60 then
      if s then f.round rm ftz false (2 ^ 100 - 1) (-100) true else f.round rm ftz false (2 ^ 100) (-100) true
    else
      let k := (-e).toNat
      let fl : Int := signed s m / (2 ^ k : Nat)
      let fr := (signed s m - fl * (2 ^ k : Nat)).toNat
      f.round rm ftz false (exp2Frac fr k (2 ^ (transBits + 1)) (2 ^ transBits))
        (max (-5000) (min fl 5000) - transBits) true

/-- `k` bits of log2 of y / 2^transBits in [1, 2), by repeated squaring. -/
def log2Bits : Nat → Nat → Nat → Nat
  | 0, _, acc => acc
  | k + 1, y, acc =>
    let z := y * y / 2 ^ transBits
    if 2 ^ (transBits + 1) ≤ z then log2Bits k (z / 2) (2 * acc + 1) else log2Bits k z (2 * acc)

/-- rne(log2 x) (R209): exact for a power of two, otherwise irrational. -/
def FpFmt.log2V (f : FpFmt) (rm : Nat) (ftz : Bool) (x : FpVal) : Nat × Nat :=
  match x with
  | .nan s => (f.nan, nvIf s)
  | .inf s => if s then (f.nan, flagNV) else (f.top, 0)
  | .fin s m e =>
    if m = 0 then (f.top + f.signBit, flagDZ)
    else if s then (f.nan, flagNV)
    else
      let l := bitLen m - 1
      let n : Int := e + l
      if m = 2 ^ l then f.roundInt rm ftz n 0 false
      else
        let fr := log2Bits 110 (m * 2 ^ (transBits - l)) 0
        let v : Int := n * (2 ^ 110 : Nat) + fr
        if v < 0 then f.round rm ftz true (-v - 1).toNat (-110) true else f.round rm ftz false v.toNat (-110) true

/-- The value rounded to an integer under rm, and whether it changed (R137, R209). -/
def roundToInt (rm : Nat) (s : Bool) (m : Nat) (e : Int) : Int × Bool :=
  if 0 ≤ e then (signed s (m * 2 ^ e.toNat), false)
  else
    let k := (-e).toNat
    let n := m / 2 ^ k
    let rem2 := 2 * (m % 2 ^ k)
    let n' := if roundAway rm s (decide (n % 2 = 1)) rem2 (2 ^ k) false then n + 1 else n
    (signed s n', decide (rem2 ≠ 0))

/-- `vfrint` (R209). -/
def rint32 (rm : Nat) (x : FpVal) : Nat × Nat :=
  match x with
  | .nan s => (fp32.nan, nvIf s)
  | .inf s => (fp32.top + (if s then fp32.signBit else 0), 0)
  | .fin s m e =>
    let (n, ch) := roundToInt rm s m e
    ((fp32.roundInt 0 false n 0 s).1, if ch then flagNX else 0)

/-- Order of two non-NaN values: true when x is below y, with -0 below +0 when strictZero. -/
def FpVal.lt (strictZero : Bool) (x y : FpVal) : Bool :=
  match x, y with
  | .inf a, .inf b => a && !b
  | .inf a, .fin .. => a
  | .fin .., .inf b => !b
  | .fin a m e, .fin b n g =>
    let lo := min e g
    let v := signed a m * 2 ^ (e - lo).toNat
    let w := signed b n * 2 ^ (g - lo).toNat
    decide (v < w) || (strictZero && decide (v = 0) && decide (w = 0) && a && !b)
  | _, _ => false

/-- `vfmin` and `vfmax` (R130, R207) on FP32 operands as read. -/
def fpMinMax (isMax : Bool) (x y : FpVal) : Nat × Nat :=
  let nv := nvIf (x.isSnan || y.isSnan)
  let r := if x.isNan then y else if y.isNan then x
    else if x.lt true y then (if isMax then y else x) else (if isMax then x else y)
  match r with
  | .nan _ => (fp32.nan, nv)
  | .inf s => (fp32.top + (if s then fp32.signBit else 0), nv)
  | .fin s m e => ((fp32.roundInt 0 false (signed s m) e s).1, nv)

/-- A conversion between float formats (R136). -/
def fpConvert (src dst : FpFmt) (rm : Nat) (ftz : Bool) (x : Nat) : Nat × Nat :=
  match src.input ftz x with
  | .nan s => (dst.nan, nvIf s)
  | .inf s => if dst.e4m3 then (dst.nan, flagNV) else (dst.top + (if s then dst.signBit else 0), 0)
  | .fin s m e => dst.roundInt rm ftz (signed s m) e s

/-- FP32 to an integer in lo to hi (R137). -/
def fpToInt (rm : Nat) (ftz : Bool) (lo hi : Int) (x : Nat) : Int × Nat :=
  match fp32.input ftz x with
  | .nan _ => (0, flagNV)
  | .inf s => (if s then lo else hi, flagNV)
  | .fin s m e =>
    let (n, ch) := roundToInt rm s m e
    if n < lo then (lo, flagNV) else if hi < n then (hi, flagNV) else (n, if ch then flagNX else 0)

/-- An integer to FP32 (R137). -/
def intToFp (rm : Nat) (ftz : Bool) (n : Int) : Nat × Nat := fp32.roundInt rm ftz n 0 false

/-- FP add in RNE without flush and without flags, for atomics, scans and engines (R135). -/
def fpAddRne (f : FpFmt) (x y : Nat) : Nat := (f.addV 0 false (f.val x) (f.val y)).1

/-- `vfclass` (R210). -/
def fpClass (x : Nat) : Nat :=
  let kind := match fp32.val x with
    | .nan true => 32
    | .nan false => 16
    | .inf _ => 8
    | .fin _ m _ => if m = 0 then 1 else if m < 2 ^ 23 then 2 else 4
  kind + (if x / 2 ^ 31 % 2 = 1 then 256 else 0)

end Sys2Proof.Machine
end

