-- ==== Sys2Proof/Machine/Operands.lean ====
section
/-! DEFINITION. Units by number, and every operand form: scalar registers, triples, the activity mask, windowed vector
registers, immediates, and the kinds of the register fields of each major (R111, R112, R116). -/

namespace Sys2Proof.Machine

open Sys2Proof

abbrev Res := Host.Outcome State Fault Refusal

/-! ### Units by number -/

def State.modTh (s : State) (f : Thread → Thread) : State := { s with th := f s.th }

/-- The thread with a number: the running one, another one, or one at reset. -/
def State.thread (s : State) (u : Nat) : Thread :=
  if u = s.th.uid then s.th else s.threads.getD u (Thread.reset u)

def State.setThread (s : State) (t : Thread) : State :=
  if t.uid = s.th.uid then { s with th := t } else { s with threads := s.threads.set t.uid t }

def State.modThread (s : State) (u : Nat) (f : Thread → Thread) : State := s.setThread (f (s.thread u))

/-- Every listed thread, the running one among them. -/
def State.allThreads (s : State) : List Thread := s.th :: (s.threads.erase s.th.uid).vals

def State.block (s : State) (b : Nat) : Block := s.blocks.getD b (Block.reset b)

def State.modBlock (s : State) (b : Nat) (f : Block → Block) : State :=
  { s with blocks := s.blocks.set b (f (s.block b)) }

def State.core (s : State) (c : Nat) : Core := s.cores.getD c Core.reset

def State.modCore (s : State) (c : Nat) (f : Core → Core) : State := { s with cores := s.cores.set c (f (s.core c)) }

def State.ctx (s : State) (c : Nat) : Ctx := s.ctxs.getD c Ctx.reset

def State.modCtx (s : State) (c : Nat) (f : Ctx → Ctx) : State := { s with ctxs := s.ctxs.set c (f (s.ctx c)) }

def State.modTask (s : State) (u : Nat) (f : Task → Task) : State := { s with tasks := s.tasks.adjust u f }

/-- The block of the running thread. -/
def State.blk (s : State) : Block := s.block s.th.blk

def Thread.frailor (t : Thread) : Bool := decide (512 ≤ t.core)

/-- Logical die of a core (R9, R10): 0 for a Frailor core. -/
def dieOf (core : Nat) : Nat := if core < 512 then core / 128 else 0

/-- The copy of the reference counter at a core: its die's, or the Frailor chiplet's (R17, R21). -/
def State.countAt (s : State) (core : Nat) : Nat := if 512 ≤ core then s.now else ((s.now : Int) + s.skew.getD (dieOf core) 0).toNat

/-- What TIME reads for a thread: its die's count, or a larger value it has read before (R21). -/
def State.timeOf (s : State) (t : Thread) : Nat := max (s.countAt t.core) t.timeKept

/-! ### Scalar registers -/

/-- Read a scalar register: s0 is zero, and in trap mode the trap register set answers (R111, R267). -/
def State.sget (s : State) (r : Reg) : Word :=
  if r = 0 then 0 else (if s.th.trapMode then s.th.treg else s.th.sreg).getD r.toNat 0

/-- An uncovered load into the register loses its destination (R173). -/
def dropScalar (r : Reg) (trap : Bool) (a : Access) : Access :=
  if a.inTrap != trap then a else
  match a.kind with
  | .loadS d _ _ => if d = r then { a with dest := [] } else a
  | .atomS (some d) _ _ => if d = r then { a with dest := [] } else a
  | .command => if a.dest = [r.toNat] then { a with dest := [] } else a
  | _ => a

/-- Write a scalar register (R111, R173): a write to s0 is discarded. -/
def State.sset (s : State) (r : Reg) (v : Word) : State :=
  if r = 0 then s
  else if s.th.trapMode then
    { s with th := { s.th with
        treg := s.th.treg.set r.toNat v
        tPoison := s.th.tPoison.erase r.toNat
        out := s.th.out.map (dropScalar r true) } }
  else
    { s with th := { s.th with
        sreg := s.th.sreg.set r.toNat v
        sPoison := s.th.sPoison.erase r.toNat
        out := s.th.out.map (dropScalar r false) } }

/-- Low half of a scalar register: the operand of 32-bit forms and of scalar B (R115, R179). -/
def State.sget32 (s : State) (r : Reg) : W32 := (s.sget r).setWidth 32

/-! ### Triples and the mask -/

/-- Lane bit j of the triple at r (R111, R183). -/
def State.tbit (s : State) (r : Reg) (j : Nat) : Bool := (s.sget (r + BitVec.ofNat 7 (j / 32))).getLsbD (j % 32)

/-- Word i (0 to 2) of a triple whose lanes are given, bits 63:32 zero. -/
def tripleWord (i : Nat) (f : Nat → Bool) : Word :=
  BitVec.ofNat 64 ((List.range 32).foldr (fun k n => 2 * n + (if f (32 * i + k) then 1 else 0)) 0)

/-- Write the triple at r (R111): all three registers are computed before any is written. -/
def State.tset (s : State) (r : Reg) (f : Nat → Bool) : State :=
  let w0 := tripleWord 0 f
  let w1 := tripleWord 1 f
  let w2 := tripleWord 2 f
  ((s.sset r w0).sset (r + 1) w1).sset (r + 2) w2

/-- Whether lane j is active (R33). -/
def State.active (s : State) (j : Nat) : Bool := s.tbit 125 j

def State.activeLanes (s : State) : List Nat := lanes.filter s.active

/-! ### Vector registers -/

def zeroVReg : VReg := List.replicate 96 0

/-- The architectural number of a vector field (R57, R111). -/
def State.varch (s : State) (v : Reg) : Nat := s.th.vbase + v.toNat

/-- The elements of an architectural register: zeros when it is not live (R57). -/
def Thread.vreadA (t : Thread) (a : Nat) : VReg := t.vreg.getD a zeroVReg

/-- Whether a word's instruction reads the activity mask (R33, R175, R199). -/
def readsMask (op f : Nat) : Bool :=
  (decide (0x40 ≤ op) && decide (op ≤ 0x51) && !(op = 0x4D && (f = 2 || f = 9))) || (decide (0x54 ≤ op) && decide (op ≤ 0x5B)) || op = 0x5E ||
    (op = 0x64 && (f = 0 || f = 2)) || op = 0x74 || op = 0x75 || op = 0x77 || op = 0x7B

def State.vget (s : State) (v : Reg) : VReg := s.th.vreadA (s.varch v)

/-- Element j of a register value. -/
def lane (x : VReg) (j : Nat) : W32 := x.getD j 0

/-- Element j of the register v names. -/
def State.elem (s : State) (v : Reg) (j : Nat) : W32 := lane (s.vget v) j

/-- Bind a register that is written (R57, R58): it becomes the most recently used, and past the quota the least
recently used is spilled. -/
def Thread.bind (t : Thread) (a : Nat) : Thread :=
  { t with bound := (a :: t.bound.filter (· ≠ a)).take (max t.quota 1) }

/-- An uncovered vector load into an architectural register loses its destination (R173). -/
def dropVector (a : Nat) (x : Access) : Access :=
  match x.kind with
  | .loadV v _ => if v = a then { x with dest := [] } else x
  | .atomV v _ => if v = a then { x with dest := [] } else x
  | .accrd v _ _ _ _ => if v = a then { x with dest := [] } else x
  | .command => if x.dest = [1000 + a] then { x with dest := [] } else x
  | _ => x

/-- Read registers refill and count as used (R58): those of the list that are live become most recently used, in the order
D, A, B of the word's fields (DESIGN CHOICE, log 71). -/
def Thread.touch (t : Thread) : List Nat → Thread
  | [] => t
  | a :: rest => (if t.vreg.has a then t.bind a else t).touch rest

/-- Make an architectural register live, holding zeros if it was not (R57, R199). -/
def Thread.live (t : Thread) (a : Nat) : Thread := { t.bind a with vreg := t.vreg.set a (t.vreadA a) }

/-- Write the lanes of an architectural register that `m` selects, from `f` (R198, R199). -/
def Thread.vwriteA (t : Thread) (a : Nat) (m : Nat → Bool) (f : Nat → W32) : Thread :=
  let old := t.vreadA a
  { t.bind a with
    vreg := t.vreg.set a (lanes.map fun j => if m j then f j else lane old j)
    vPoison := t.vPoison.filter fun p => !(decide (p.1 / 96 = a) && m (p.1 % 96)) }

/-- A vector result: active lanes receive it, and the register counts as written (R173, R198, R200). -/
def State.vset (s : State) (v : Reg) (f : Nat → W32) : State :=
  let a := s.varch v
  { s with th := { s.th.vwriteA a s.active f with out := s.th.out.map (dropVector a) } }

/-! ### Immediates and the program counter -/

def sext64 {n : Nat} (x : BitVec n) : Word := x.signExtend 64
def zext64 {n : Nat} (x : BitVec n) : Word := x.setWidth 64

/-- The instruction is complete: the thread goes on at pc + 4 (R172), and has issued in this cycle (R48). -/
def State.adv (s : State) : State :=
  { s with th := { s.th with
      pc := s.th.pc + 4, seq := s.th.seq + 1, icount := s.th.icount + 1, wait := none, lastIssue := s.cycles, boost := false, starved := 0 } }

/-- A transfer of control (R114). -/
def State.goto (s : State) (t : Word) : State :=
  { s with th := { s.th with
      pc := t, seq := s.th.seq + 1, icount := s.th.icount + 1, wait := none, lastIssue := s.cycles, boost := false, starved := 0 } }

/-- The target of a branch or jump (R114). -/
def target {n : Nat} (pc : Word) (off : BitVec n) : Word := pc + sext64 off * 4

/-! ### The register fields of a word -/

/-- The kind of a register field (R111): scalar, vector, triple, or none. -/
inductive FieldKind where
  | s | v | t | n
  deriving DecidableEq, Repr

/-- The kinds of D, A and B for a major and F (R116). -/
def kindsOf (op f : Nat) : FieldKind × FieldKind × FieldKind :=
  match op with
  | 0x01 | 0x02 | 0x03 | 0x05 | 0x3B | 0x3C | 0x5C | 0x5D | 0x65 | 0x6D | 0x70 | 0x71 | 0x72 | 0x76 | 0x79 | 0x7A => (.s, .s, .s)
  | 0x04 | 0x2B | 0x69 => (.s, .s, .n)
  | 0x06 => if f < 4 then (.t, .t, .t) else if f = 4 then (.t, .t, .n) else (.s, .t, .n)
  | 0x1A | 0x1B | 0x1C | 0x2D => (.s, .n, .n)
  | 0x2E | 0x60 | 0x3D => (.n, .s, .n)
  | 0x26 | 0x27 | 0x28 => (.t, .n, .n)
  | 0x40 | 0x42 | 0x46 | 0x49 | 0x4C | 0x4F | 0x51 | 0x5A | 0x5B =>
    if op = 0x40 || op = 0x46 then (.v, .v, .v) else (.v, .v, .n)
  | 0x41 | 0x47 | 0x56 | 0x57 | 0x5E => (.v, .v, .s)
  | 0x43 => if f < 2 then (.v, .v, .v) else (.v, .v, .s)
  | 0x44 | 0x4A => (.t, .v, .v)
  | 0x45 | 0x4B => (.t, .v, .s)
  | 0x48 => if f < 4 then (.v, .v, .v) else (.v, .v, .s)
  | 0x4D =>
    match f with
    | 0 => (.v, .v, .n)
    | 1 => (.v, .s, .n)
    | 2 => (.s, .v, .s)
    | 3 => (.v, .s, .s)
    | 5 | 8 => (.v, .v, .v)
    | 6 | 7 => (.v, .v, .s)
    | _ => (.v, .n, .n)
  | 0x4E => (.s, .v, .n)
  | 0x50 =>
    match f with
    | 0 | 2 => (.v, .v, .s)
    | 3 => (.t, .v, .v)
    | 4 => (.v, .v, .n)
    | _ => (.v, .v, .v)
  | 0x54 | 0x55 | 0x58 | 0x59 | 0x74 => (.v, .s, .s)
  | 0x64 => if f = 3 then (.t, .n, .n) else (.n, .n, .n)
  | 0x67 => if f < 2 then (.n, .s, .s) else if f = 2 then (.n, .s, .n) else (.s, .s, .n)
  | 0x68 => if f = 0 then (.n, .s, .n) else (.s, .s, .n)
  | 0x6A => if f = 1 then (.n, .s, .n) else (.n, .n, .n)
  | 0x6C => if f < 2 then (.n, .s, .s) else (.s, .s, .n)
  | 0x6E | 0x78 => (.n, .s, .s)
  | 0x73 => match f with
    | 0 => (.s, .s, .s)
    | 3 => (.n, .s, .s)
    | _ => (.n, .s, .n)
  | 0x75 => (.s, .v, .s)
  | 0x77 => if f = 0 then (.n, .v, .s) else (.v, .n, .s)
  | 0x7B => (.n, .s, .v)
  | 0x7C => match f with
    | 2 => (.n, .s, .n)
    | 3 | 4 => (.s, .s, .n)
    | _ => (.n, .s, .s)
  | 0x7D => match f with
    | 0 | 2 => (.n, .s, .n)
    | 1 => (.n, .n, .n)
    | 4 => (.n, .s, .s)
    | _ => (.s, .s, .s)
  | _ =>
    if 0x10 ≤ op && op ≤ 0x19 || 0x30 ≤ op && op ≤ 0x3A || 0x20 ≤ op && op ≤ 0x25 then (.s, .s, .n) else (.n, .n, .n)

/-- Whether the instruction reads the register D names (R112); for the branches D is the first source. -/
def readsD (op f : Nat) : Bool :=
  match op with
  | 0x05 | 0x1B | 0x43 | 0x48 | 0x5E => true
  | 0x4D => f = 3
  | 0x37 | 0x38 | 0x39 | 0x3A | 0x3C | 0x55 | 0x57 | 0x59 | 0x5B => true
  | 0x70 | 0x71 | 0x72 | 0x75 | 0x79 | 0x7A => true
  | 0x7D => f = 6
  | 0x26 | 0x27 | 0x28 => true
  | _ => 0x20 ≤ op && op ≤ 0x25

/-- The register numbers a field of a kind names. -/
def fieldRegs (k : FieldKind) (r : Nat) (want : FieldKind) : List Nat :=
  match k, want with
  | .s, .s => [r]
  | .t, .s => [r, r + 1, r + 2]
  | .v, .v => [r]
  | _, _ => []

/-- The D, A and B field numbers of a word. -/
def wordFields (w : W32) : Nat × Nat × Nat := (w.toNat / 2 ^ 7 % 128, w.toNat / 2 ^ 14 % 128, w.toNat / 2 ^ 21 % 128)

/-- The scalar (or vector) registers a word names. -/
def wordRegs (w : W32) (want : FieldKind) (sourcesOnly : Bool) : List Nat :=
  let op := w.toNat % 128
  let f := w.toNat / 2 ^ 28
  let (kd, ka, kb) := kindsOf op f
  let (d, a, b) := wordFields w
  let pair := if op = 0x5C && f = 10 || op = 0x5D && f = 10 then fieldRegs .s (b + 1) want
    else if op = 0x5E && f = 10 then fieldRegs .v (d + 1) want else []
  (if sourcesOnly && !readsD op f then [] else fieldRegs kd d want) ++ fieldRegs ka a want ++ fieldRegs kb b want ++ pair

end Sys2Proof.Machine
end

