-- ==== Sys2Proof/Machine/Memory.lean ====
section
/-! DEFINITION. Memory as programs see it: logs, owner identifiers, the home LLC with its lines, the L1s, registration
and the race rule, write-back, the Seedbank and the local store (R65 to R93, R388, R393, R408). -/

namespace Sys2Proof.Machine

open Sys2Proof

/-! ### Logs (R89, R382, R388) -/

/-- A full ring drops new records and counts the drops. -/
def Log.push (l : Log) (cap : Nat) (r : List Byte) : Log :=
  if l.records.length < cap then { l with records := l.records ++ [r] } else { l with drops := l.drops + 1 }

/-- A 16-byte event record (R388). -/
def eventRecord (detail agent ctx code : Nat) : List Byte := leBytes 8 detail ++ leBytes 4 agent ++ leBytes 2 ctx ++ leBytes 1 code ++ [0]

def State.logCtx (s : State) (c code detail agent : Nat) : State :=
  s.modCtx c fun x => { x with events := x.events.push s.logCap (eventRecord detail agent c code) }

def State.logPkg (s : State) (code detail ctx : Nat) : State :=
  { s with events := s.events.push s.logCap (eventRecord detail 0 ctx code) }

/-! ### Owner identifiers (R75) -/

def mkOwner (kind pkg die index slot : Nat) : BitVec 32 :=
  BitVec.ofNat 32 (kind * 2 ^ 29 + pkg * 2 ^ 16 + die * 2 ^ 14 + index * 2 ^ 7 + slot * 2 ^ 4)

def oKind (o : BitVec 32) : Nat := o.toNat / 2 ^ 29
def oPkg (o : BitVec 32) : Nat := o.toNat / 2 ^ 16 % 2 ^ 13
def oDie (o : BitVec 32) : Nat := o.toNat / 2 ^ 14 % 4
def oIndex (o : BitVec 32) : Nat := o.toNat / 2 ^ 7 % 128
def oSlot (o : BitVec 32) : Nat := o.toNat / 2 ^ 4 % 8

/-- The global core number an identifier of KIND 0, 1 or 2 names. -/
def oCore (o : BitVec 32) : Nat := if oKind o = 2 then 512 + oIndex o % 32 else 128 * oDie o + oIndex o

def State.ownerOf (s : State) (t : Thread) : BitVec 32 :=
  if t.frailor then mkOwner 2 s.pkg 0 (t.core - 512) 0
  else mkOwner 0 s.pkg (dieOf t.core) (t.core % 128) (s.block t.blk).slot

/-- The scope an access by x needs against a word registered to y (R85). -/
def needScope (x y : BitVec 32) : Nat :=
  if oKind x = 3 || oKind y = 3 || oPkg x != oPkg y then 4
  else if oKind x = 2 || oKind y = 2 || oDie x != oDie y then 3
  else 2

/-- Who performs an access: its identifier, its core (for its L1 and slot), its context. -/
structure Who where
  owner : BitVec 32
  core : Nat
  ctx : Nat

def State.who (s : State) (t : Thread) : Who := ⟨s.ownerOf t, t.core, t.ctx⟩

/-! ### Homes -/

/-- Home die of a physical address (R18, R368). -/
def homeDie (pa : Nat) : Nat := if pa / 2 ^ 45 = 0 then pa / 2 ^ 39 % 4 else pa / 2 ^ 40 % 4

/-- The word number of a physical address. -/
def wordOf (pa : Nat) : Nat := pa / 4

def State.tierWord (s : State) (w : Nat) : W32 := BitVec.ofNat 32 (s.tier.readN (4 * w) 4)

def State.l1 (s : State) (c w : Nat) : Option L1Word := (s.core c).l1.get? w

def bridgeKey (port w : Nat) : Nat := port * 2 ^ 51 + w

/-- The `.own` command of an engine that transfers a word: its receiver's L1 holds the word Registered (R292). -/
def State.transferOf (s : State) (o : BitVec 32) (w : Nat) : Option BarCmd :=
  (s.core (oCore o)).barrow.find? fun c => c.own && c.sectors.any (fun p => p.2 == .transferring) &&
    (s.l1 (oCore c.owner) w).any fun e => e.registered && e.wslot = oSlot c.owner

/-- The identifier whose L1 holds a word in transfer from Barrow (R292). -/
def State.transferTo (s : State) (o : BitVec 32) (w : Nat) : BitVec 32 :=
  match s.transferOf o w with
  | some c => c.owner
  | none => o

/-- The value an owner holds of a word. -/
def State.ownerData (s : State) (o : BitVec 32) (w : Nat) : W32 :=
  if oKind o = 3 then s.host.bridge.getD (bridgeKey (oIndex o) w) 0
  else match s.l1 (oCore (if oKind o = 1 then s.transferTo o w else o)) w with
    | some e => e.data
    | none => s.tierWord w

/-- The RSCOPE an owner answers (R77, R93, R292). -/
def State.ownerScope (s : State) (o : BitVec 32) (w : Nat) : Nat :=
  if oKind o = 3 then 4 else if oKind o = 1 then 0
  else match s.l1 (oCore o) w with
    | some e => e.rscope
    | none => 0

/-- The value of a word that is latest in its coherence order: at home, or the owner's (R74, R99). -/
def State.homeVal (s : State) (w : Nat) : W32 :=
  match s.home.get? w with
  | some (.valid v) => v
  | some (.registered o) => s.ownerData o w
  | none => s.tierWord w

/-! ### LLC lines (R393, R408) -/

/-- Line number of a word: its 256-byte line. -/
def lineOf (w : Nat) : Nat := w / 64

/-- Two lines of one set of one slice of one die. -/
def sameSet (a b : Nat) : Bool :=
  homeDie (256 * a) = homeDie (256 * b) && a % 64 = b % 64 && a / 64 % 512 = b / 64 % 512

/-- Die, slice, set and way as record 0x14 holds them (R388). -/
def wayCode (line way : Nat) : Nat := homeDie (256 * line) + line % 64 * 4 + line / 64 % 512 * 2 ^ 8 + way * 2 ^ 20

/-- A write of data by a context dirties the line (R393). -/
def State.markDirty (s : State) (w tag : Nat) : State :=
  { s with lines := s.lines.adjust (lineOf w) fun l =>
      { l with dirty := true, tag := if l.dirty && decide (l.tag ≠ tag) then 0xFFFF else tag } }

/-- A write or a registration request performed at a word's home is a wake event for who sleeps on it (R243). -/
def State.wakeWord (s : State) (w : Nat) : State :=
  { s with woken := (s.watch.filter fun x => x.2.2 = w / 2).map (·.1) ++ s.woken }

/-- A thread gives up its watch-table entry (R243). -/
def State.watchLeave (s : State) (u : Nat) : State := { s with watch := s.watch.filter fun x => x.1 ≠ u, woken := s.woken.filter (· ≠ u) }

/-- The word becomes Valid at home with a value written by a context. -/
def State.writeHome (s : State) (w : Nat) (v : W32) (tag : Nat) : State :=
  ({ s with home := s.home.set w (.valid v), memPoison := s.memPoison.erase w }.markDirty w tag).wakeWord w

/-- The context the owner of a word writes for (R393): 0xFFFF where it has none of its own. -/
def State.ownerCtx (s : State) (o : BitVec 32) (w : Nat) : Nat :=
  match oKind o with
  | 0 => match s.blocks.vals.find? fun b => b.resident && b.core = oCore o && b.slot = oSlot o with
    | some b => b.ctx
    | none => 0xFFFF
  | 1 => match s.transferOf o w with
    | some c => c.ctx
    | none => 0xFFFF
  | 2 => (s.thread (oCore o)).ctx
  | _ => 0xFFFF

/-- Remove an owner's copy. -/
def State.dropCopy (s : State) (o : BitVec 32) (w : Nat) : State :=
  if oKind o = 3 then { s with host := { s.host with bridge := s.host.bridge.erase (bridgeKey (oIndex o) w) } }
  else s.modCore (oCore (if oKind o = 1 then s.transferTo o w else o)) fun c => { c with l1 := c.l1.erase w }

/-- An owner's copy stays as a Valid copy (R80). -/
def State.keepCopy (s : State) (o : BitVec 32) (w : Nat) : State :=
  s.modCore (oCore o) fun c => { c with l1 := c.l1.adjust w fun e => { e with registered := false, rscope := 0 } }

/-- An owner's copy lies under an uncorrectable error (R391). -/
def State.ownerBad (s : State) (o : BitVec 32) (w : Nat) : Bool :=
  oKind o ≠ 3 && match s.l1 (oCore (if oKind o = 1 then s.transferTo o w else o)) w with
    | some e => e.bad
    | none => false

/-- The word that is latest in its coherence order is poisoned, at its home or with its owner (R391, R392). -/
def State.wordBad (s : State) (w : Nat) : Bool := match s.home.get? w with
  | some (.registered o) => s.ownerBad o w
  | _ => s.memPoison.has w

/-- The error planted in a line is found (R405, R410). -/
def State.foundPlant (s : State) (line : Nat) : State := match s.err.plant with
  | some ⟨0, _, a⟩ => if a / 256 = line then { s with err := { s.err with status := 2, plant := none } } else s
  | _ => s

/-- What tier memory holds of a line is what its words now are: those under an error there are poisoned (R391). -/
def State.exposeTier (s : State) (line : Nat) : State :=
  { s with
    memPoison := (s.tierPoison.filter fun p => p.1 / 64 = line).foldl (fun m p => m.set p.1 true) s.memPoison
    tierPoison := s.tierPoison.filter fun p => p.1 / 64 ≠ line }

/-- A write-back, or a read that forwards a word, reads the line: an error in it is found, and of a dirty line R394's steps are due; a
clean line is fetched again (R391, R394, R409). -/
def State.lineRead (s : State) (line : Nat) : State := match s.lines.get? line with
  | some l => match l.ue with
    | some ue =>
      let s := ({ s with lines := s.lines.set line { l with ue := none } }).foundPlant line
      if ue && l.dirty then { s with err := { s.err with found := s.err.found ++ [(line, l)] } }
      else if ue then s.exposeTier line
      else s
    | none => s
  | none => s

/-- A registered word is written back to its home and dropped, or kept Valid (R79, R80, R392). -/
def State.writeBack (s : State) (w : Nat) (keep : Bool) : State :=
  match s.home.get? w with
  | some (.registered o) =>
    let s := s.lineRead (lineOf w)
    let bad := s.ownerBad o w
    let s := (if keep then s.keepCopy o w else s.dropCopy o w).writeHome w (s.ownerData o w) (s.ownerCtx o w)
    if bad then { s with memPoison := s.memPoison.set w true } else s
  | _ => s

/-- The eviction of a dirty line reads it, and finds an error in it: the line goes unwritten, and R394's steps are due. -/
def State.evictBad (s : State) (line : Nat) (l : Line) : State :=
  ({ s with
    lines := s.lines.erase line, home := s.home.filter fun p => p.1 / 64 ≠ line
    err := { s.err with found := s.err.found ++ [(line, l)] } }).foundPlant line

/-- Write a line's Valid words to tier memory and forget the line, its owners revoked first (R79). -/
def State.evictGood (s : State) (line : Nat) : State :=
  let ws := (s.home.filter fun p => p.1 / 64 = line).map (·.1)
  let s := ws.foldl (fun s w => s.writeBack w false) s
  let s := ws.foldl (fun s w => match s.home.get? w with
    | some (.valid v) => { s with
        tier := s.tier.writeN (4 * w) 4 v.toNat, home := s.home.erase w, tierPoison := s.tierPoison.erase w }
    | _ => s) s
  ({ s with lines := s.lines.erase line }.exposeTier line).foundPlant line

/-- The owner of a word gives it up to another agent's store: its copy is invalidated (R86); a host bridge writes the word back first
(R412). -/
def State.giveUp (s : State) (w : Nat) : State := match s.home.get? w with
  | some (.registered y) => if oKind y = 3 then s.writeBack w false else s.dropCopy y w
  | _ => s

/-- An LLC evicts a line (R79, R394). -/
def State.evictLine (s : State) (line : Nat) : State :=
  match s.lines.get? line with
  | some l => if l.dirty && l.ue = some true then s.evictBad line l else s.evictGood line
  | none => s.evictGood line

/-- The way a fill takes: the lowest that holds no line and is not quarantined (R408), nor about to be, the line that an eviction
found an error in having stood there (R394). -/
def State.freeWay (s : State) (line : Nat) : Option Nat :=
  let used := (s.lines.filter fun p => sameSet p.1 line).map (·.2.way) ++ (s.err.found.filter fun p => sameSet p.1 line).map (·.2.way)
  (List.range 16).find? fun w => !used.contains w && !s.quarantined.contains (wayCode line w)

/-- The least recently used line of a set (R408). -/
def State.lruLine (s : State) (line : Nat) : Option (Nat × Line) :=
  (s.lines.filter fun p => sameSet p.1 line).foldl (fun best p => match best with
    | none => some p
    | some b => if p.2.lru < b.2.lru then some p else some b) none

/-- A line takes a way. -/
def State.putLine (s : State) (line way : Nat) : State := { s with lines := s.lines.set line ⟨way, false, 0, s.tick, none⟩ }

/-- A line takes the way of the least recently used line of its set. A line in which the eviction finds an error takes its way with it
(R394), and the next least recently used line goes. -/
def State.displace (s : State) (line : Nat) : Nat → State
  | 0 => s
  | n + 1 => match s.lruLine line with
    | some (v, l) =>
      let bad := l.dirty && l.ue = some true
      let s := s.evictLine v
      if bad then s.displace line n else s.putLine line l.way
    | none => s

/-- The line that holds a word is in the LLC, and most recently used (R408). -/
def State.touchLine (s : State) (w : Nat) : State :=
  let line := lineOf w
  let s := { s with tick := s.tick + 1 }
  match s.lines.get? line with
  | some l => { s with lines := s.lines.set line { l with lru := s.tick } }
  | none =>
    match s.freeWay line with
    | some way => s.putLine line way
    | none => s.displace line 16

/-- An access performed at a die's LLC, Seedbank or ports marks the die in TDMASK (R30); 0xFFFF stands for no context. -/
def State.touchDie (s : State) (ctx die : Nat) : State :=
  if ctx = 0xFFFF then s else s.modCtx ctx fun c => { c with tdmask := c.tdmask ||| BitVec.ofNat 4 (2 ^ (die % 4)) }

/-! ### L1 (R77 to R84, R302) -/

/-- Sets of an L1 (log 11): 512 on a compute core, 256 on a Frailor core. -/
def l1Sets (core : Nat) : Nat := if core < 512 then 512 else 256

/-- Evict a 64-byte line of an L1: registered words go home, Valid words are dropped (R79); the line's tag enters the
victim array with the thread that displaced it (R52). -/
def State.l1Evict (s : State) (core line uid : Nat) : State :=
  let ws := ((s.core core).l1.filter fun p => p.1 / 16 = line).map (·.1)
  let s := ws.foldl (fun s w => match s.l1 core w with
    | some e => if e.registered then s.writeBack w false else s
    | none => s) s
  s.modCore core fun c =>
    { c with l1 := c.l1.filter fun p => p.1 / 16 ≠ line, victims := ((line, uid) :: c.victims).take 512 }

/-- Distinct lines of an L1 set. -/
def l1SetLines (l1 : Map L1Word) (sets line : Nat) : List Nat :=
  ((l1.map fun p => p.1 / 16).filter fun x => x % sets = line % sets).eraseDups

/-- Put a word into an L1; a full set gives up one line, which one being open (log 11). -/
def State.l1Put (s : State) (core uid w : Nat) (e : L1Word) : State :=
  let ls := l1SetLines (s.core core).l1 (l1Sets core) (w / 16)
  let s := if ls.contains (w / 16) || decide (ls.length < 8) then s
    else { s.l1Evict core (ls.getD (Config.l1Victim s.free).toNat (w / 16)) uid with free := s.free + 1 }
  s.modCore core fun c => { c with l1 := c.l1.set w e }

/-- An L1 miss that hits the victim array raises the score of the wave that evicted the line (R52). -/
def State.scoreMiss (s : State) (core w : Nat) : State :=
  match (s.core core).victims.find? fun p => p.1 = w / 16 with
  | some (_, u) => s.modThread u fun t => { t with score := min 255 (t.score + 1) }
  | none => s

/-- What one word's access found (R86, R392). -/
inductive WordRes where
  | ok (v : W32)
  | nak (need found : Nat) (owner : BitVec 32)
  | bad
  deriving DecidableEq, Repr

/-- The race rule against the word's registration by another agent (R85, R86). -/
def State.raceCheck (s : State) (x : BitVec 32) (w : Nat) : Option (Nat × Nat × BitVec 32) :=
  match s.home.get? w with
  | some (.registered y) =>
    if x = y then none
    else
      let need := needScope x y
      let found := s.ownerScope y w
      if found < need then some (need, found, y) else none
  | _ => none

/-- A race-log record (R89) in the owner's context. -/
def State.logRace (s : State) (x : BitVec 32) (w cause need found : Nat) (y : BitVec 32) : State :=
  let r := leBytes 8 (4 * w) ++ leBytes 4 x.toNat ++ leBytes 1 cause ++ leBytes 1 need ++ leBytes 1 found ++ [0]
  s.modCtx (s.ownerCtx y w) fun c => { c with races := c.races.push s.logCap r }

/-- A load of a word as it is performed at the home, with forwarding (R84, R86, R99). -/
def State.loadHome (s : State) (p : Who) (w : Nat) : State × WordRes :=
  let s := (s.touchLine w).touchDie p.ctx (homeDie (4 * w))
  match s.raceCheck p.owner w with
  | some (need, found, y) => (s.logRace p.owner w 6 need found y, .nak need found y)
  | none =>
    (s, if s.wordBad w then .bad else .ok (s.homeVal w))

/-- A load of a word under a policy (R84, R100). An `st` load leaves no word in the L1 that it did not hold, also of a line it holds in
part (DESIGN CHOICE, log 76). -/
def State.loadWord (s : State) (p : Who) (uid : Nat) (pol : Policy) (w region : Nat) : State × WordRes :=
  let miss (s : State) : State × WordRes :=
    match (s.scoreMiss p.core w).loadHome p w with
    | (s, .ok v) =>
      (if pol = .l1 then s.l1Put p.core uid w ⟨false, v, 0, 0, region, false⟩ else s, .ok v)
    | r => r
  if pol = .llc then s.loadHome p w else
  match s.l1 p.core w with
  | some e =>
    if e.registered then
      if p.owner = (match s.home.get? w with
          | some (.registered o) => o
          | _ => p.owner) then (s, if e.bad then .bad else .ok e.data)
      else match s.raceCheck p.owner w with
        | some (need, found, y) => (s.logRace p.owner w 6 need found y, .nak need found y)
        | none => (s, if e.bad then .bad else .ok e.data)
    else if e.bad then miss (s.modCore p.core fun c => { c with l1 := c.l1.erase w })
    else (s, .ok e.data)
  | none => miss s

/-- Bytes off to off + n - 1 of a word replaced by the low bytes of x. -/
def mergeWord (old : W32) (off n x : Nat) : W32 :=
  let o := old.toNat
  BitVec.ofNat 32 (o % 2 ^ (8 * off) + x % 2 ^ (8 * n) * 2 ^ (8 * off) + o / 2 ^ (8 * (off + n)) * 2 ^ (8 * (off + n)))

/-- REG-REQ at the home (R78, R86): the word becomes registered to the requester, whose L1 receives its old value with
RSCOPE 0; another owner's copy is invalidated. -/
def State.regReq (s : State) (p : Who) (uid w region : Nat) : State × WordRes :=
  let s := if (s.l1 p.core w).isNone then s.scoreMiss p.core w else s
  let s := (s.touchLine w).touchDie p.ctx (homeDie (4 * w))
  match s.raceCheck p.owner w with
  | some (need, found, y) => (s.logRace p.owner w 7 need found y, .nak need found y)
  | none =>
    let old := s.homeVal w
    let bad := s.wordBad w
    let s := s.giveUp w
    let s := ({ s with home := s.home.set w (.registered p.owner), memPoison := s.memPoison.erase w }).wakeWord w
    (s.l1Put p.core uid w ⟨true, old, oSlot p.owner, 0, region, bad⟩, .ok old)

/-- Whether the L1 holds the word registered to this agent. -/
def State.holdsReg (s : State) (p : Who) (w : Nat) : Bool :=
  match s.l1 p.core w, s.home.get? w with
  | some e, some (.registered o) => e.registered && o = p.owner
  | _, _ => false

/-- Write bytes into a word this agent holds registered; RSCOPE becomes 0 (R78, R392). -/
def State.writeReg (s : State) (p : Who) (w off n x : Nat) : State × WordRes :=
  match s.l1 p.core w with
  | some e =>
    if e.bad && decide (n < 4) then (s, .bad)
    else
      let v := mergeWord e.data off n x
      (s.modCore p.core fun c => { c with l1 := c.l1.set w { e with data := v, rscope := 0, bad := false } }, .ok v)
  | none => (s, .bad)

/-- A store of bytes of one word under a policy (R78, R84, R86). -/
def State.storeWord (s : State) (p : Who) (uid : Nat) (pol : Policy) (w region off n x : Nat) : State × WordRes :=
  if pol = .l1 || (pol = .st && (s.l1 p.core w).isSome) then
    if s.holdsReg p w then s.writeReg p w off n x
    else match s.regReq p uid w region with
      | (s, .ok _) => s.writeReg p w off n x
      | r => r
  else
    let s := if pol = .st then s.scoreMiss p.core w else s
    let s := (s.touchLine w).touchDie p.ctx (homeDie (4 * w))
    match s.raceCheck p.owner w with
    | some (need, found, y) => (s.logRace p.owner w 7 need found y, .nak need found y)
    | none =>
      let old := s.homeVal w
      if s.wordBad w && decide (n < 4) then (s, .bad)
      else
        let s := s.giveUp w
        let s := s.modCore p.core fun c => { c with l1 := c.l1.erase w }
        (s.writeHome w (mergeWord old off n x) p.ctx, .ok old)

/-- Words an access of n bytes at a physical address covers. -/
def wordsOf (pa n : Nat) : List Nat := if n = 8 then [pa / 4, pa / 4 + 1] else [pa / 4]

/-- The first refusal among the words, for an atomic. -/
def State.atomCheck (s : State) (p : Who) : List Nat → Option (Nat × Nat × Nat × BitVec 32)
  | [] => none
  | w :: ws => match s.raceCheck p.owner w with
    | some (need, found, y) => some (w, need, found, y)
    | none => s.atomCheck p ws

/-- A read-modify-write at the home (R86, R91, R231): answers the old value. A word under an error is not performed. -/
def State.atomicHome (s : State) (p : Who) (force : Bool) (pa n : Nat) (f : Nat → Nat) : State × WordRes × Nat :=
  let ws := wordsOf pa n
  let s := ws.foldl (fun s w => (s.touchLine w).touchDie p.ctx (homeDie (4 * w))) s
  match (if force then none else s.atomCheck p ws) with
  | some (w, need, found, y) => (s.logRace p.owner w 8 need found y, .nak need found y, 0)
  | none =>
    let s := ws.foldl (fun s w => s.writeBack w false) s
    if ws.any s.memPoison.has then (s, .bad, 0)
    else
      let old := ws.foldr (fun w acc => (s.homeVal w).toNat + 2 ^ 32 * acc) 0
      let new := f old
      let s := s.modCore p.core fun c =>
        { c with l1 := ws.foldl (fun m w => match m.get? w with
            | some e => if e.registered then m else m.erase w
            | none => m) c.l1 }
      let s := s.writeHome (pa / 4) (BitVec.ofNat 32 new) p.ctx
      let s := if n = 8 then s.writeHome (pa / 4 + 1) (BitVec.ofNat 32 (new / 2 ^ 32)) p.ctx else s
      (s, .ok 0, old)

/-- A write at the home that revokes any registration and is never a race (R41, R359). -/
def State.forceWord (s : State) (w : Nat) (v : W32) (tag : Nat) : State := ((s.touchLine w).writeBack w false).writeHome w v tag

/-- Raise RSCOPE of the words registered to a block slot (R82), or to a Frailor core. -/
def State.raiseScope (s : State) (o : BitVec 32) (n : Nat) : State :=
  s.modCore (oCore o) fun c => { c with l1 := c.l1.map fun p =>
    if p.2.registered && p.2.wslot = oSlot o then (p.1, { p.2 with rscope := max p.2.rscope n }) else p }

/-- A fill that an agent of the core has asked another package for leaves no word Valid, where `p` names its part (R83, R97). -/
def Part.noFill (p : Part) (f : Part → Bool) : Part := match p.phase, p.place with
  | .sent .., .remote .. => if f p then { p with x := 1 } else p
  | _, _ => p

/-- The loads and fetches of a core that are on their way from other packages leave no word Valid, where `f` names them. -/
def State.noFills (s : State) (core : Nat) (f : Part → Bool) : State :=
  let stale (t : Thread) : Thread := if t.core = core then
      { t with out := t.out.map fun a => match a.kind with
        | .loadS .. => { a with parts := a.parts.map (·.noFill f) }
        | .loadV .. => { a with parts := a.parts.map (·.noFill f) }
        | _ => a }
    else t
  ({ s with th := stale s.th, threads := s.threads.map fun p => (p.1, stale p.2) } : State).modCore core fun c =>
    { c with fetching := c.fetching.map fun l => { l with parts := l.parts.map (·.noFill f) } }

/-- Self-invalidation of an acquire (R83): Valid, unregistered words of the regions in the mask, and those that fills on their way would
leave Valid. -/
def State.selfInvalidate (s : State) (core : Nat) (mask : Word) : State :=
  (s.modCore core fun c => { c with l1 := c.l1.filter fun p => p.2.registered || !mask.getLsbD p.2.region }).noFills core fun p =>
    match p.place with
    | .remote _ _ r => mask.getLsbD r
    | _ => false

/-- Words of an L1 that stand Registered for a block slot while their homes still name the engine that transfers them (R292). -/
def State.inTransfer (s : State) (o : BitVec 32) : List Nat :=
  if oKind o = 0 then
    ((s.core (oCore o)).l1.filter fun p => p.2.registered && p.2.wslot = oSlot o && match s.home.get? p.1 with
      | some (.registered y) => oKind y = 1 && s.transferTo y p.1 = o
      | _ => false).map (·.1)
  else []

/-- Every word registered to an agent is written back and kept Valid (R80), one in transfer to it too. -/
def State.writeBackAll (s : State) (o : BitVec 32) : State :=
  let mid := s.inTransfer o
  let s := mid.foldl (fun (s : State) w => { s with home := s.home.set w (.registered o) }) s
  let ws := (s.home.filter fun p => p.2 == .registered o).map (·.1)
  ws.foldl (fun s w => s.writeBack w true) s

/-- Every registration of an agent is dropped without write-back (R394). -/
def State.dropAll (s : State) (o : BitVec 32) : State :=
  let ws := (s.home.filter fun p => p.2 == .registered o).map (·.1)
  ws.foldl (fun s w => { s.dropCopy o w with home := s.home.erase w }) s

/-! ### Atomic operations (R230) -/

/-- The new value of an n-byte word w under an operation with operands x and y (R230); fadd rounds RNE (R135). -/
def atomNew (op : AtomOp) (n w x y : Nat) : Nat :=
  let m := 2 ^ (8 * n)
  let w := w % m
  let x := x % m
  match op with
  | .add => (w + x) % m
  | .and => w &&& x
  | .or => w ||| x
  | .xor => w ^^^ x
  | .min => if sextNat w (8 * n) ≤ sextNat x (8 * n) then w else x
  | .max => if sextNat w (8 * n) ≤ sextNat x (8 * n) then x else w
  | .minu => min w x
  | .maxu => max w x
  | .xchg => x
  | .fadd => if n = 8 then fpAddRne fp64 w x else fpAddRne fp32 w x
  | .cas => if w = x then y % m else w

/-! ### What answers no more (R400, R411) -/

/-- The link of a host port is up; while it is down, accesses through the port wait (R411), and so they do at a port in PCIe mode, which has
no CXL.cache (DESIGN CHOICE, log 84). -/
def State.hostUp (s : State) (p : Nat) : Bool := s.host.linkUp.getD p false && !s.host.pcie.getD p false

/-- The die of a home is not lost (R400). -/
def State.dieAnswers (s : State) (pa : Nat) : Bool := decide (s.dies.states.getD (homeDie pa) 0 < 3)

/-- The home of a word answers: its die is not lost, or the core's L1 holds the word (R400). -/
def State.homeAnswers (s : State) (core pa : Nat) : Bool := s.dieAnswers pa || (s.l1 core (pa / 4)).isSome

/-- No commit of another wave holds a word of an access (R105): no other access falls between a transaction's reads and its writes. -/
def State.unlocked (s : State) (pkg uid pa n : Nat) : Bool :=
  s.locks.all fun x => !(decide (pa / 4 ≤ x.2.2) && decide (x.2.2 ≤ (pa + n - 1) / 4)) || (x.1 = pkg && x.2.1 = uid)

/-- A number of no core and of no thread: whose accesses are the runtime's and the dispatcher's own. -/
def runtime : Nat := 2 ^ 40

/-- A place answers an access of n bytes now: the link of its host port is up, its die is not lost, no commit holds a word of it. -/
def State.placeReady (s : State) (core uid : Nat) (pl : Place) (n : Nat) : Bool := match pl with
  | .mem pa _ => s.homeAnswers core pa && s.unlocked s.pkg uid pa n
  | .host i _ => s.hostUp i
  | _ => true

/-! ### Host memory (R414) -/

/-- Where host address a behind host port i stands: each port reaches the memory of its own host. -/
def hostAddr (i a : Nat) : Nat := i * 2 ^ 45 + a

def State.hostGet (s : State) (i a n : Nat) : Nat := s.host.mem.readN (hostAddr i a) n

def State.hostBytes (s : State) (i a n : Nat) : List Byte := s.host.mem.readBytes (hostAddr i a) n

/-- A write of bytes over CXL, which marks the port's die for the context (R30). -/
def State.hostPut (s : State) (ctx i a : Nat) (bs : List Byte) : State :=
  ({ s with host := { s.host with mem := s.host.mem.writeBytes (hostAddr i a) bs } }).touchDie ctx i

/-- A write of n bytes over CXL. -/
def State.hostSet (s : State) (ctx i a n x : Nat) : State :=
  ({ s with host := { s.host with mem := s.host.mem.writeN (hostAddr i a) n x } }).touchDie ctx i

/-! ### Seedbank (R72, R222, R339) -/

/-- Seedbank words are kept by package byte offset; poison by 8-byte bank word. -/
def State.seedRead (s : State) (o n : Nat) : Nat := s.seed.readN o n

def State.seedBad (s : State) (o : Nat) : Bool := s.seedPoison.has (o / 8)

/-- A write at the bank; a write of the whole bank word clears its poison (R392). -/
def State.seedWrite (s : State) (o n x : Nat) : State :=
  { s with seed := s.seed.writeN o n x, seedPoison := if n = 8 then s.seedPoison.erase (o / 8) else s.seedPoison }

/-- The die of a Seedbank byte offset answers only while it is ONLINE or DRAINING (R402). -/
def State.seedAlive (s : State) (o : Nat) : Bool := decide (s.dies.states.getD (o / 2 ^ 26) 0 < 2)

/-! ### Local store (R39, R71) -/

def Block.lsRead (b : Block) (o n : Nat) : Nat := b.ls.readN o n

def Block.lsBad (b : Block) (o n : Nat) : Bool := (List.range ((o % 4 + n + 3) / 4)).any fun i => b.lsPoison.has (o / 4 + i)

/-- A write of n bytes; a word written whole loses its poison (R392). -/
def Block.lsWrite (b : Block) (o n x : Nat) : Block :=
  { b with ls := b.ls.writeN o n x,
           lsPoison := b.lsPoison.filter fun p => !(decide (o ≤ 4 * p.1) && decide (4 * p.1 + 4 ≤ o + n)) }

def Block.lsSlice (b : Block) (o n : Nat) : List Byte := b.ls.readBytes o n

end Sys2Proof.Machine
end

