-- ==== Sys2Proof/Machine/Translate.lean ====
section
/-! DEFINITION. Generic pointers, page tables, translation, and the checks of an access in their order (R65 to R69,
R220, R367 to R374, R377). -/

namespace Sys2Proof.Machine

open Sys2Proof

/-! ### Physical spaces (R368, R411) -/

/-- Whether a port serves tier 2, and the bytes it holds. -/
def State.tier2Cap (s : State) (p : Nat) : Nat :=
  if p < 2 && s.host.hostRole.getD p false then 0 else s.host.caps.getD p 0

/-- Whether a physical page lies in a space that exists (R368). -/
def State.spaceOk (s : State) (pa size : Nat) : Bool :=
  let sp := pa / 2 ^ 45
  if 64 ≤ sp then decide (pa / 2 ^ 38 % 2 ^ 13 ≠ s.pkg)
  else match sp with
  | 0 => decide (pa % 2 ^ 45 / 2 ^ 41 = 0) && decide (pa % 2 ^ 39 + size ≤ 0x6000000000)
  | 1 => decide (pa / 2 ^ 44 % 2 = 0) && decide (pa % 2 ^ 40 + size ≤ s.tier2Cap (pa / 2 ^ 40 % 16))
  | 2 => s.host.hostRole.getD 0 false && s.host.hasHost.getD 0 false
  | 3 => s.host.hostRole.getD 1 false && s.host.hasHost.getD 1 false
  | _ => false

/-- Where a physical address is performed (R368). -/
def placeOf (pa region : Nat) : Place :=
  let sp := pa / 2 ^ 45
  if 64 ≤ sp then .remote (pa / 2 ^ 38 % 2 ^ 13) (pa % 2 ^ 38) region
  else if sp = 2 || sp = 3 then .host (sp - 2) (pa % 2 ^ 45)
  else .mem pa region

/-! ### The fabric's sending side (R342, R346, R348, R354) -/

/-- Send a packet on the flow to another package: the next sequence number, held until acknowledged. -/
def State.sendPacket (s : State) (dst ctx : Nat) (owner : BitVec 32) (pc : Word) (off : Nat) (req : Req) (window : Option Nat) (ph : Bool) : State × Nat :=
  let f := s.flows.getD dst Flow.reset
  let p : Packet := ⟨s.pkg, dst, f.next, ctx, owner, off, req, window, ph, false, f.resync, [], pc⟩
  ({ s with flows := s.flows.set dst { f with next := (f.next + 1) % 2 ^ 32, unacked := f.unacked ++ [(p, s.now)], resync := false } }, f.next)

/-- A thread's `txe` holds no words any longer: those held here are free, and the other packages are told (R105). -/
def State.txUnlock (s : State) (u : Nat) : State :=
  let t := s.thread u
  let s := (t.locking.filter (· ≠ s.pkg)).foldl (fun (s : State) g =>
    (s.sendPacket g t.ctx (s.ownerOf t) t.pc 0 (.commit u []) none (s.ctx t.ctx).phase).1) s
  if t.locking = [] then s
  else ({ s with locks := s.locks.filter fun x => !(x.1 = s.pkg && x.2.1 = u) }).modThread u fun t => { t with locking := [] }

/-- Packets of a flow that may be unacknowledged, and the bytes of a port's retry buffer (R342). -/
def Packet.slots : Nat := 4096
def retrySize : Nat := 2 ^ 21

/-- Packets of a flow not yet acknowledged (R342). -/
def State.unacked (s : State) (dst : Nat) : Nat := (s.flows.getD dst Flow.reset).unacked.length

/-- The port of this package whose retry buffer holds a flow's packets: the one its route starts at, or the one that sent them where it
has lost its route (R342). -/
def Flow.port (f : Flow) : Option Nat := match f.route.head? with
  | some p => if p < 32 then some p else none
  | none => f.sentBy

/-- Packets that a port's retry buffer holds (R342). -/
def State.portHeld (s : State) (p : Nat) : Nat := ((s.flows.vals.filter fun f => f.port = some p).map fun f => f.unacked.length).sum

/-- The flow to a package, and the retry buffer of its port, may hold n more packets (R342). -/
def State.canSend (s : State) (dst n : Nat) : Bool :=
  decide (s.unacked dst + n ≤ Packet.slots) && match (s.flows.getD dst Flow.reset).port with
    | some p => decide ((s.portHeld p + n) * Config.retryBytes ≤ retrySize)
    | none => true

/-! ### Page tables (R367, R371) -/

/-- How a walk ends. -/
inductive Walk where
  | leaf (x : Xlat)
  | notPresent
  | malformed
  /-- An entry is registered below package scope (R371), or cannot be read now. -/
  | stall
  /-- An entry lies on a page of another package and has not been asked for (R368). -/
  | ask (pkg off : Nat)
  deriving DecidableEq, Repr

/-- What the read of one entry comes to. -/
inductive EntryRead where
  | entry (e : Nat)
  | stall
  | ask (pkg off : Nat)
  deriving DecidableEq, Repr

/-- A word registered below package scope. -/
def State.shortScope (s : State) (w : Nat) : Bool := match s.home.get? w with
  | some (.registered o) => decide (s.ownerScope o w < 3)
  | _ => false

/-- One 8-byte entry read at its home with forwarding, as an llc load would read it, and never a race (R371); a lost die, a host link that
is down, or a commit that holds a word of it, keeps the walk waiting (R400, R411, R105). -/
def State.readEntry (s : State) (a : Nat) : EntryRead :=
  match placeOf a 0 with
  | .host i h => if s.hostUp i then .entry (s.hostGet i h 8) else .stall
  | .remote pkg o _ => match s.asks.find? fun x => x.1 = pkg && x.2.1 = o with
    | some (_, _, .got v) => .entry v
    | some _ => .stall
    | none => .ask pkg o
  | _ => if s.shortScope (a / 4) || s.shortScope (a / 4 + 1) || !s.dieAnswers a || !s.unlocked s.pkg runtime a 8 then .stall
    else .entry ((s.homeVal (a / 4)).toNat + 2 ^ 32 * (s.homeVal (a / 4 + 1)).toNat)

/-- The levels of R367: number, lowest virtual bit, index bits. -/
def levels : List (Nat × Nat × Nat) := [(0, 48, 8), (1, 39, 9), (2, 30, 9), (3, 21, 9), (4, 16, 5)]

/-- The walk from a table through the remaining levels (R371). -/
def State.walkFrom (s : State) (va : Nat) : List (Nat × Nat × Nat) → Nat → Walk
  | [], _ => .malformed
  | (lv, sh, n) :: rest, tbl =>
    match s.readEntry (tbl + 8 * (va / 2 ^ sh % 2 ^ n)) with
    | .stall => .stall
    | .ask pkg o => .ask pkg o
    | .entry e =>
      let addr := bits e 51 8 * 2 ^ 8
      if e % 2 = 0 then .notPresent
      else if bits e 53 52 ≠ 0 || bits e 7 1 ≠ 0 then .malformed
      else if bits e 54 54 = 1 then
        if lv < 2 || addr % 2 ^ sh ≠ 0 || !s.spaceOk addr (2 ^ sh) then .malformed
        else .leaf ⟨addr, sh, bits e 63 58, bits e 57 57 = 1, bits e 56 56 = 1, bits e 55 55 = 1⟩
      else if lv = 4 || bits e 63 55 ≠ 0 then .malformed
      else s.walkFrom va rest addr

def State.walk (s : State) (ctx va : Nat) : Walk := s.walkFrom (va % 2 ^ 56) levels (s.ctx ctx).ptroot

/-- The words of the package's memory that a walk reads. -/
def State.walkWords (s : State) (va : Nat) : List (Nat × Nat × Nat) → Nat → List Nat
  | [], _ => []
  | (_, sh, n) :: rest, tbl =>
    let a := tbl + 8 * (va / 2 ^ sh % 2 ^ n)
    match s.readEntry a with
    | .stall => []
    | .ask .. => []
    | .entry e => (match placeOf a 0 with
      | .mem .. => [a / 4]
      | _ => []) ++ if e % 2 = 0 || bits e 54 54 = 1 then [] else s.walkWords va rest (bits e 51 8 * 2 ^ 8)

/-- What a walk has read is noted: the reads act on the LLC before the next step (R408, R409). -/
def State.walkNote (s : State) (ctx va : Nat) : State :=
  { s with walked := s.walked ++ (s.walkWords (va % 2 ^ 56) levels (s.ctx ctx).ptroot).map fun w => (ctx, w) }

/-! ### Held translations (R16, R372, R373) -/

/-- The key of a held translation: context, page size, and page of that size. -/
def tlbKey (ctx va sh : Nat) : Nat := (ctx * 64 + sh) * 2 ^ 40 + va % 2 ^ 56 / 2 ^ sh

/-- The translation of an address that a TLB holds. -/
def tlbFind (t : Map Xlat) (ctx va : Nat) : Option Xlat := [16, 21, 30].findSome? fun sh => t.get? (tlbKey ctx va sh)

/-- Translations a core holds; those a die holds for pages of 64 KiB and 2 MiB, and for pages of 1 GiB (R16, R372). -/
def coreTlbSize : Nat := 256
def dieTlbSize (sh : Nat) : Nat := if sh = 30 then 1024 else 16384

/-- Hold a translation in a TLB; past its size one is replaced, which one being open (log 11). -/
def tlbAdd (t : Map Xlat) (size pick key : Nat) (mine : Xlat → Bool) (x : Xlat) : Map Xlat :=
  let own := t.filter fun p => mine p.2
  if t.has key || decide (own.length < size) then t.set key x
  else (t.erase ((own.getD (pick % size) (0, x)).1)).set key x

/-- A core holds a translation (R372). -/
def State.tlbPut (s : State) (core ctx va : Nat) (x : Xlat) : State :=
  { s.modCore core fun c => { c with tlb := tlbAdd c.tlb coreTlbSize (Config.tlbVictim s.free) (tlbKey ctx va x.bits) (fun _ => true) x } with
    free := s.free + 1 }

/-- What a die's last-level TLB holds (R16). -/
def State.dieTlbOf (s : State) (die : Nat) : Map Xlat := s.dieTlb.getD die []

/-- A die holds a translation (R16, R372). -/
def State.dieTlbPut (s : State) (die ctx va : Nat) (x : Xlat) : State :=
  { s with
    dieTlb := s.dieTlb.set die (tlbAdd (s.dieTlbOf die) (dieTlbSize x.bits) (Config.tlbVictim s.free) (tlbKey ctx va x.bits)
      (fun y => dieTlbSize y.bits = dieTlbSize x.bits) x)
    free := s.free + 1 }

/-- Keep only some translations, in every core and die (R373). -/
def State.filterTlbs (s : State) (keep : Nat → Xlat → Bool) : State :=
  { s with
    cores := s.cores.map fun p => (p.1, { p.2 with tlb := p.2.tlb.filter fun x => keep x.1 x.2 })
    dieTlb := s.dieTlb.map fun p => (p.1, p.2.filter fun x => keep x.1 x.2) }

/-- A translation that the core, or its die, holds; the Frailor chiplet has no last-level TLB (R16). -/
def State.heldXlat (s : State) (core ctx va : Nat) : Option Xlat :=
  (tlbFind (s.core core).tlb ctx va).orElse fun _ => if core < 512 then tlbFind (s.dieTlbOf (dieOf core)) ctx va else none

/-- The kinds of access (R377). -/
inductive AccessKind where
  | load | store | atomic | fetch | barrowSrc | barrowDst | record
  deriving DecidableEq, Repr

def AccessKind.code : AccessKind → Nat
  | .load => 0
  | .store => 1
  | .atomic => 2
  | .fetch => 3
  | .barrowSrc => 4
  | .barrowDst => 5
  | .record => 6

def AccessKind.writes (k : AccessKind) : Bool := k = .store || k = .atomic || k = .barrowDst

/-- Why an address cannot be reached: a trap cause with its code (R377), or a walk that stalls. -/
inductive Flaw where
  | trap (cause code : Nat)
  | stall
  deriving DecidableEq, Repr

/-- TRAPINFO of PAGE_FAULT and ACCESS_FAULT (R377). -/
def faultInfo (k : AccessKind) (lane code : Nat) : Word := BitVec.ofNat 64 (k.code * 2 ^ 16 + lane * 2 ^ 8 + code)

/-- Permission of a translation (R371). -/
def permit (k : AccessKind) (x : Xlat) : Option Flaw :=
  if k.writes && !x.w then some (.trap 5 11)
  else if k = .fetch && !x.x then some (.trap 5 12)
  else none

/-- What a translation allows. -/
def allow (s : State) (k : AccessKind) (x : Xlat) : State × Except Flaw Xlat :=
  match permit k x with
  | some f => (s, .error f)
  | none => (s, .ok x)

/-- The walk's remote entries that have come are used up with its end. -/
def State.walkEnds (s : State) : State := { s with asks := s.asks.filter fun x => match x.2.2 with
  | .sent .. => true
  | _ => false }

/-- Translate a virtual address for a core's agent in a context: a translation held by the core or its die answers, otherwise a
walk, whose leaf both then hold (R371 to R373). -/
def State.translate (s : State) (core ctx va : Nat) (k : AccessKind) : State × Except Flaw Xlat :=
  match tlbFind (s.core core).tlb ctx va with
  | some x => allow s k x
  | none =>
    match s.heldXlat core ctx va with
    | some x => allow (s.tlbPut core ctx va x) k x
    | none =>
      match s.walk ctx va with
      | .leaf x =>
        let s := ((s.walkNote ctx va).walkEnds).tlbPut core ctx va x
        allow (if core < 512 then s.dieTlbPut (dieOf core) ctx va x else s) k x
      | .notPresent => ((s.walkNote ctx va).walkEnds, .error (.trap 4 0))
      | .malformed => ((s.walkNote ctx va).walkEnds, .error (.trap 5 13))
      | .stall => (s, .error .stall)
      | .ask pkg o =>
        if !s.canSend pkg 1 then (s, .error .stall)
        else match s.sendPacket pkg ctx (mkOwner 2 s.pkg 0 0 0) 0 o .entry none (s.ctx ctx).phase with
          | (s, q) => ({ s with asks := (pkg, o, .sent pkg q) :: s.asks }, .error .stall)

def Xlat.addr (x : Xlat) (va : Nat) : Nat := x.pa + va % 2 ^ x.bits

/-- Translate one address of an access that has translated other addresses already: all on one page use one translation
(R373). memo: the translations made, as a TLB lists them. -/
def State.translateIn (s : State) (memo : Map Xlat) (core ctx va : Nat) (k : AccessKind) : State × Except Flaw Xlat :=
  match tlbFind memo ctx va with
  | some x => allow s k x
  | none => s.translate core ctx va k

/-- Check and translate one address of n bytes (R65, R68, R220): aperture and must-be-zero bits, alignment, then
bounds or translation. lane is the executing lane, or none for the scalar thread; memo: the translations the access has made. -/
def State.reachIn (s : State) (memo : Map Xlat) (t : Thread) (k : AccessKind) (lane : Option Nat) (va n : Nat) : State × Except Flaw Place :=
  let ap := va / 2 ^ 60
  if ap = 0 then
    if va / 2 ^ 56 ≠ 0 then (s, .error (.trap 5 14))
    else if va % n ≠ 0 then (s, .error (.trap 3 0))
    else match s.translateIn memo t.core t.ctx va k with
      | (s, .ok x) => (s, .ok (placeOf (x.addr va) x.region))
      | (s, .error f) => (s, .error f)
  else if ap = 1 then
    let o := va % 2 ^ 60
    if o / 2 ^ 20 ≠ 0 then (s, .error (.trap 5 14))
    else if t.frailor then (s, .error (.trap 5 17))
    else if va % n ≠ 0 then (s, .error (.trap 3 0))
    else if (s.block t.blk).usable < o + n then (s, .error (.trap 0x0B 0))
    else (s, .ok (.loc o))
  else if ap = 2 then
    let o := va % 2 ^ 60
    if o / 2 ^ 28 ≠ 0 then (s, .error (.trap 5 14))
    else if va % n ≠ 0 then (s, .error (.trap 3 0))
    else if !s.seedAlive o then (s, .error (.trap 5 16))
    else (s, .ok (.seed o))
  else if ap = 3 then
    let o := va % 2 ^ 60
    let size := (s.ctx t.ctx).privBytes
    if t.frailor then (s, .error (.trap 5 17))
    else if va % n ≠ 0 then (s, .error (.trap 3 0))
    else if size < o + n then (s, .error (.trap 5 15))
    else (s, .ok (.mem (t.priv + (match lane with
      | some j => j + 1
      | none => 0) * size + o) 0))
  else (s, .error (.trap 5 14))

/-- Check and translate one address by itself. -/
def State.reach (s : State) (t : Thread) (k : AccessKind) (lane : Option Nat) (va n : Nat) : State × Except Flaw Place :=
  s.reachIn [] t k lane va n

/-- Checks of an instruction's own before and after the common ones: a code of ACCESS_FAULT for a pointer, a cause and code
for the place it names. -/
structure Extra where
  pre : Nat → Option Nat
  post : Nat → Place → Option (Nat × Nat)

def Extra.none : Extra := ⟨fun _ => Option.none, fun _ _ => Option.none⟩

/-- The checks of one address in their order (R220), the instruction's own among them. -/
def State.reachX (s : State) (memo : Map Xlat) (t : Thread) (k : AccessKind) (x : Extra) (lane : Option Nat) (va n : Nat) :
    State × Except Flaw Place :=
  match x.pre va with
  | some code => (s, .error (.trap 5 code))
  | none => match s.reachIn memo t k lane va n with
    | (s, .error f) => (s, .error f)
    | (s, .ok p) => match x.post va p with
      | some (cause, code) => (s, .error (.trap cause code))
      | none => (s, .ok p)

/-- A flaw at a lane with its address. -/
structure LaneFlaw where
  flaw : Flaw
  lane : Nat
  va : Nat

/-- The translations an access has made, with the one its last address used: the core's agent holds it. -/
def State.memoOf (s : State) (memo : Map Xlat) (t : Thread) (va : Nat) : Map Xlat :=
  if va / 2 ^ 60 ≠ 0 || (tlbFind memo t.ctx va).isSome then memo
  else match s.heldXlat t.core t.ctx va with
    | some y => memo.set (tlbKey t.ctx va y.bits) y
    | none => memo

/-- Check every (lane, address) in order; the first failing lane decides and no lane is performed (R220); lanes on one page use
one translation (R373). -/
def State.reachAll (s : State) (memo : Map Xlat) (t : Thread) (k : AccessKind) (x : Extra) (n : Nat) :
    List (Nat × Nat) → State × Except LaneFlaw (List (Nat × Nat × Place))
  | [] => (s, .ok [])
  | (j, va) :: rest =>
    match s.reachX memo t k x (some j) va n with
    | (s, .error f) => (s, .error ⟨f, j, va⟩)
    | (s, .ok p) =>
      match s.reachAll (s.memoOf memo t va) t k x n rest with
      | (s, .ok ps) => (s, .ok ((j, va, p) :: ps))
      | r => r

/-- Page number (64 KiB) of a physical address, as the runtime's pools and the retired pages list them. -/
def pageOf (pa : Nat) : Nat := pa / 2 ^ 16

/-! ### Private areas -/

/-- Bytes one wave's private areas take: the scalar area and one per lane (R66). -/
def waveAreas (c : Ctx) : Nat := 97 * c.privBytes

end Sys2Proof.Machine
end

