-- ==== Sys2Proof/Machine/Work.lean ====
section
/-! DEFINITION. Work: launch records, tasks, placement and start of blocks, their end, completion words, the rechecks
of waits, gangs' ends, context termination (R32 to R64, R363, R375, R389, R410, R422). -/

namespace Sys2Proof.Machine

open Sys2Proof

/-! ### Launch records (R36 to R39) -/

/-- The little-endian field of n bytes at an offset of a record. -/
def fld (b : List Byte) (off n : Nat) : Nat := leNat ((b.drop off).take n)

def padTo (n k : Nat) : Nat := (n + k - 1) / k * k

/-- The eight produced-queue entries of a role: queue, slot code, depth (R38). -/
def roleQueues (b : List Byte) : List (Nat × Nat × Nat) :=
  ((List.range 8).map fun i => let e := fld b (16 + 2 * i) 2
    (e / 2 ^ 12, e / 2 ^ 8 % 16, e % 2 ^ 8)).filter fun q => q.2.2 ≠ 0

/-- What no move takes a wave below: the larger of 8 and half its role-table quota (R59). -/
def leastQuota (q : Nat) : Nat := max 8 ((q + 1) / 2)

/-- One 32-byte role entry against its own limits (R38). -/
def parseRole (b : List Byte) (quota : Nat) : Option (Role × List (Nat × Nat × Nat)) :=
  let q := fld b 10 2
  let qs := roleQueues b
  let produce := fld b 12 2
  if fld b 0 8 % 4 ≠ 0 || fld b 8 1 < 1 || 16 < fld b 8 1 || 1 < fld b 9 1 then none
  else if q ≠ 0 && (q < 8 || 512 < q) then none
  else if qs.any (fun e => 7 < e.2.1) || !(qs.map (·.1)).Nodup then none
  else if (List.range 16).any (fun i => (produce / 2 ^ i % 2 = 1) != (qs.map (·.1)).contains i) then none
  else
    let q := if q = 0 then quota else q
    some (⟨fld b 0 8, fld b 8 1, fld b 9 1 = 1, q, leastQuota q, produce, fld b 14 2⟩, qs)

def hasBit (m i : Nat) : Bool := m / 2 ^ i % 2 = 1

/-- The queue rules over the whole table (R38): one producer and one consumer each, different roles. -/
def queuesOk (rs : List Role) : Bool :=
  (List.range 16).all fun q =>
    let ps := (List.range rs.length).filter fun i => (rs[i]?).any fun r => hasBit r.produce q
    let cs := (List.range rs.length).filter fun i => (rs[i]?).any fun r => hasBit r.consume q
    (ps.isEmpty && cs.isEmpty) || (ps.length = 1 && cs.length = 1 && ps != cs)

/-- Place the declared queues in ascending number, downward from the top of the window (R39); none if they do not
fit. Answers the queues and the usable window. -/
def layQueues : List (Nat × Nat × Nat × Nat × Nat) → Nat → Map Queue → Option (Map Queue × Nat)
  | [], top, m => some (m, top)
  | (q, code, depth, p, c) :: rest, top, m =>
    let size := 64 + 32 * 2 ^ code * depth
    if top < size then none
    else layQueues rest (top - size) (m.set q ⟨code, depth, top - size, [(true, [])], p, c, 0, []⟩)

/-- Every limit of R36 and R38 but the energy estimate. tables is the role table's bytes; privileged launchers may name
a context; gangOk: the launch comes from a gang. -/
def State.parseRecord (s : State) (b table : List Byte) (addr ownCtx : Nat) (privileged gangOk : Bool) : Option Record :=
  let cls := fld b 21 1
  let roles := fld b 29 1
  let flags := fld b 23 1
  let dual := hasBit flags 0
  let ls := padTo (fld b 24 4) 4096
  let quota := if fld b 30 2 = 0 then 64 else fld b 30 2
  let waves := fld b 20 1
  let ctx := fld b 56 2
  let done := fld b 48 8
  let cl := decide (cls = 0)
  let regs := if cl then 2048 else 1792
  let rs := (List.range roles).map fun i => parseRole ((table.drop (32 * i)).take 32) quota
  if (roles = 0 && fld b 0 8 % 4 ≠ 0) || fld b 16 4 = 0 || waves < 1 || 16 < waves || 2 < cls || 64 ≤ fld b 22 1 then none
  else if 8 ≤ flags || (if cl then 1048576 else 983040) < fld b 24 4 || (if cl then 32 else 30) < fld b 28 1 then none
  else if 4 < roles || (fld b 30 2 ≠ 0 && (quota < 8 || 512 < quota)) || (0 < roles && fld b 32 8 % 32 ≠ 0) then none
  else if fld b 44 4 ≠ 0 || fld b 58 6 ≠ 0 || done % 8 ≠ 0 then none
  else if !(s.ctx ctx).live || (s.ctx ctx).terminated || (!privileged && ctx ≠ ownCtx) then none
  else if hasBit flags 2 && !gangOk then none
  else if rs.any (·.isNone) then none
  else
    let parsed := rs.filterMap id
    let roleL := if roles = 0 then [⟨fld b 0 8, waves, false, quota, leastQuota quota, 0, 0⟩] else parsed.map (·.1)
    let total := (roleL.map fun r => r.waves * r.quota).sum
    let qs := (List.range 16).filterMap fun q =>
      ((List.range parsed.length).findSome? fun i => (parsed[i]?).bind fun r =>
        ((r.2.find? fun e => e.1 = q).map fun e => (q, e.2.1, e.2.2, i))).map fun e =>
          (e.1, e.2.1, e.2.2.1, e.2.2.2, ((List.range parsed.length).find? fun i => (parsed[i]?).any fun r => hasBit r.1.consume q).getD 0)
    if (roleL.map (·.waves)).sum ≠ waves || regs < total * (if dual then 2 else 1) || !queuesOk (parsed.map (·.1)) then none
    else match layQueues qs ls [] with
      | none => none
      | some (queues, _) =>
        some ⟨fld b 0 8, fld b 8 8, fld b 16 4, waves, cls, fld b 22 1 % 8, hasBit (fld b 22 1) 3, fld b 22 1 / 16 % 4,
          dual, hasBit flags 1, hasBit flags 2, ls, fld b 28 1, quota, fld b 40 4, done, ctx, roleL, queues, addr⟩

/-- The part of the window below the lowest queue (R39). -/
def Record.usable (r : Record) : Nat := (r.queues.vals.map (·.base)).foldl min r.lsBytes

/-- R37, R407: an estimate that no window could admit. -/
def State.overBudget (s : State) (r : Record) : Bool :=
  let b := (s.ctx r.ctx).budget
  (b ≠ 0 && decide (b < r.energy)) || decide (24000000 < r.energy)

/-! ### Orders -/

def insertBy {α : Type} (lt : α → α → Bool) (x : α) : List α → List α
  | [] => [x]
  | y :: t => if lt x y then x :: y :: t else y :: insertBy lt x t

def sortBy {α : Type} (lt : α → α → Bool) (l : List α) : List α := l.foldr (insertBy lt) []

/-! ### Resources of a core (R45, R50, R76) -/

def Record.slots (r : Record) : Nat := r.waves * (if r.dual then 2 else 1)

def Record.regs (r : Record) : Nat := (r.roles.map fun x => x.waves * x.quota).sum * (if r.dual then 2 else 1)

/-- Save, spill and template areas of a block (R422), in bytes. -/
def Record.areas (r : Record) : Nat :=
  16384 + 4096 * r.slots + r.lsBytes + 8192 * r.accBanks + 196608 * r.slots + 4096

def State.blocksOn (s : State) (core : Nat) : List Block := s.blocks.vals.filter fun b => b.resident && b.core = core

def Block.slots (b : Block) : Nat := b.nwaves * (if b.dual then 2 else 1)

def Block.regs (b : Block) : Nat := b.quotaTotal * (if b.dual then 2 else 1)

/-- Wave slots a block holds: those of exited waves are free again; halted waves keep theirs (R61, R389). -/
def State.slotsUsed (s : State) (b : Block) : Nat :=
  if b.started then (s.allThreads.filter fun t => t.blk = b.uid && decide (t.life ≠ .exited)).length else b.slots

/-- Room for one resource: blocks of class P and W stay outside the concurrent reserve (R45). -/
def roomFor (bs : List Block) (f : Block → Nat) (total reserve need : Nat) (cls : Nat) : Bool :=
  let all := (bs.map f).sum
  let pw := ((bs.filter fun b => b.cls ≠ 0).map f).sum
  decide (all + need ≤ total) && (cls = 0 || decide (pw + need ≤ total - reserve))

/-- Free wave slots of a core, lowest first. -/
def State.freeWaveSlots (s : State) (core : Nat) : List Nat :=
  let used := (s.allThreads.filter fun t => t.core = core && t.blk ≠ 0 && (s.block t.blk).resident && decide (t.life ≠ .exited)).map (·.wslot)
  (List.range 32).filter fun i => !used.contains i

/-- Neighbours of a list, two by two. -/
def twos : List Nat → List (Nat × Nat)
  | a :: b :: rest => (a, b) :: twos rest
  | _ => []

/-- Free wave slots two by two, each pair in one issue slot: a wave and its shadow take one (R51, R397). -/
def State.slotPairs (s : State) (core : Nat) : List (Nat × Nat) :=
  (List.range 4).flatMap fun i => twos ((s.freeWaveSlots core).filter fun w => w / 8 = i)

/-- Wave slots for n waves, lowest first; of a dual block the waves' slots, then their shadows'. -/
def State.waveSlots (s : State) (core n : Nat) (dual : Bool) : List Nat :=
  if dual then ((s.slotPairs core).take n).map (·.1) ++ ((s.slotPairs core).take n).map (·.2) else s.freeWaveSlots core

def State.coreFits (s : State) (core : Nat) (slots ls banks regs cls : Nat) (dual : Bool) : Bool :=
  let bs := s.blocksOn core
  decide (bs.length < 8) && (!dual || decide (slots / 2 ≤ (s.slotPairs core).length)) && roomFor bs s.slotsUsed 32 4 slots cls && roomFor bs (·.lsBytes) 1048576 65536 ls cls &&
    roomFor bs (·.accBanks) 32 2 banks cls && roomFor bs Block.regs 2048 256 regs cls

/-- A die takes new work: it is ONLINE, and bring-up has taken the dies out of reset (R12, R401, R417, R418). -/
def State.dieOnline (s : State) (die : Nat) : Bool := decide (die < 4) && s.host.code = 0 && decide (4 ≤ s.host.stage) && s.dies.states.getD die 0 = 0

/-- The fitting core of a die with the fewest free wave slots, the lowest index on ties (R50). -/
def State.bestCore (s : State) (die slots ls banks regs cls : Nat) (dual : Bool) : Option Nat :=
  if !s.dieOnline die then none else
  (((List.range 128).map (128 * die + ·)).filter fun c => s.coreFits c slots ls banks regs cls dual).foldl (fun best c =>
    match best with
    | none => some c
    | some b => if ((s.blocksOn b).map s.slotsUsed).sum < ((s.blocksOn c).map s.slotsUsed).sum then some c else some b) none

/-- The task's die first, then the others in ascending order (R50). -/
def State.findCore (s : State) (die slots ls banks regs cls : Nat) (dual : Bool) : Option Nat :=
  (die :: (List.range 4).filter (· ≠ die)).findSome? fun d => s.bestCore d slots ls banks regs cls dual

def lowestFree (used : List Nat) (n : Nat) : Nat := ((List.range n).find? fun i => !used.contains i).getD 0

/-- Physical pages for a window (R423): the lowest free pages of the core. -/
def State.freeLsPages (s : State) (core n : Nat) : List Nat :=
  let used := (s.blocksOn core).flatMap (·.pages)
  ((List.range 256).filter fun i => !used.contains i).take n

/-- The wave's number and role within the block, waves numbered role by role (R40). -/
def roleOfWave : List Role → Nat → Nat → Nat
  | [], _, k => k
  | r :: rest, w, k => if w < r.waves then k else roleOfWave rest (w - r.waves) (k + 1)

/-- The start state of a wave (R40). -/
def startThread (uid core : Nat) (b : Block) (r : Record) (w wslot priv privBytes : Nat) : Thread :=
  let role := roleOfWave r.roles w 0
  let e := r.roles.getD role ⟨r.entry, r.waves, false, r.quota, 8, 0, 0⟩
  let regs : Map Word := [(2, BitVec.ofNat 64 (0x3000000000000000 + privBytes)), (3, BitVec.ofNat 64 r.param),
    (4, BitVec.ofNat 64 b.idx), (5, BitVec.ofNat 64 w), (6, BitVec.ofNat 64 role), (7, BitVec.ofNat 64 r.addr),
    (125, 0xFFFFFFFF), (126, 0xFFFFFFFF), (127, 0xFFFFFFFF)]
  { Thread.reset uid with
    core := core, ctx := r.ctx, blk := b.uid, wib := w, wslot := wslot, role := role, prio := r.prio, cls := r.cls
    succ := b.succ, pc := BitVec.ofNat 64 e.entry, sreg := regs, quota := e.quota, fixq := e.fixq, priv := priv }

/-- Create the waves of a block (with their shadows) in the given wave slots. -/
def State.spawn (s : State) (b : Block) (r : Record) (slots : List Nat) : State :=
  let c := s.ctx r.ctx
  let n := r.waves
  let s := (List.range n).foldl (fun s w =>
    let t := startThread (b.uid + 1 + w) b.core b r w (slots.getD w 0) (c.privBase + (c.privNext + w) * waveAreas c) c.privBytes
    let t := if b.dual then { t with partner := some (b.uid + 1 + n + w) } else t
    s.setThread { t with lastIssue := s.cycles }) s
  let s := if b.dual then (List.range n).foldl (fun s w =>
      let t := startThread (b.uid + 1 + n + w) b.core b r w (slots.getD (n + w) 0) (c.privBase + (c.privNext + w) * waveAreas c) c.privBytes
      s.setThread { t with shadow := true, partner := some (b.uid + 1 + w), lastIssue := s.cycles }) s else s
  s.modCtx r.ctx fun c => { c with privNext := c.privNext + n }

/-- A block made from its record; it owns no slot yet. -/
def mkBlock (uid idx : Nat) (task : Task) (succ : Bool) : Block :=
  let r := task.record
  { Block.reset uid with
    ctx := r.ctx, task := task.uid, idx := idx
    waves := (List.range r.waves).map (uid + 1 + ·), nwaves := r.waves, dual := r.dual, cls := r.cls, prio := r.prio
    succ := succ, roles := r.roles, quotaTotal := (r.roles.map fun x => x.waves * x.quota).sum, lsBytes := r.lsBytes
    usable := r.usable, queues := r.queues, accBanks := r.accBanks, spillHeld := r.areas, energy := r.energy }

/-- Give a block a core with the lowest free block slot and its local-store pages (R76, R301, R423). -/
def State.seat (s : State) (b : Block) (core : Nat) : Block :=
  { b with
    core := core, resident := true, slot := lowestFree ((s.blocksOn core).map (·.slot)) 8
    pages := s.freeLsPages core (b.lsBytes / 4096), residentSince := s.now }

/-- BLOCK_START (R35, R40, R106): all waves start, with a full acquire, and the die is touched (R30). -/
def State.startBlock (s : State) (b : Block) (r : Record) : State :=
  let s := { s with blocks := s.blocks.set b.uid { b with started := true, startedAt := s.now } }
  let s := s.spawn b r (s.waveSlots b.core r.waves b.dual)
  ((s.selfInvalidate b.core (BitVec.allOnes 64)).touchDie b.ctx (dieOf b.core))

/-! ### Completion words and the ends of tasks (R41, R61, R363) -/

/-- The completion word (R41). -/
def completionWord (status ended : Nat) : Nat := 2 ^ 63 + status % 2 ^ 8 * 2 ^ 32 + ended % 2 ^ 32

/-- A completion word waits until its home can be reached. -/
def State.oweDone (s : State) (ctx addr value : Nat) : State := { s with owed := s.owed ++ [(ctx, addr, value)] }

/-- What a write of the runtime in a context's memory comes to. -/
inductive PutRes where
  | done (s : State)
  /-- A packet carries it to another package: destination and number. -/
  | sent (s : State) (dst q : Nat)
  /-- The address faults. -/
  | bad
  /-- Its home, or an entry of its page's tables, cannot be reached yet. -/
  | later (s : State)

/-- The dispatcher or the runtime writes an 8-byte word in a context, as a release at system scope (R41, R379). -/
def State.putWord (s : State) (ctx addr value : Nat) : PutRes :=
  if addr / 2 ^ 56 ≠ 0 then .bad
  else match s.walk ctx addr with
    | .leaf x =>
      if !x.w then .bad
      else
        let s := s.walkNote ctx addr
        let pl := placeOf (x.addr addr) x.region
        if !s.placeReady runtime runtime pl 8 then .later s else match pl with
        | .mem pa _ =>
          let s := s.touchDie ctx (homeDie pa)
          .done ((s.forceWord (pa / 4) (BitVec.ofNat 32 value) ctx).forceWord (pa / 4 + 1) (BitVec.ofNat 32 (value / 2 ^ 32)) ctx)
        | .host i a => .done (s.hostSet ctx i a 8 value)
        | .remote pkg o _ => if s.canSend pkg 1 then (match s.sendPacket pkg ctx 0 0 o (.write (leBytes 8 value)) none (s.ctx ctx).phase with
          | (s, q) => .sent s pkg q) else .later s
        | _ => .done s
    | .notPresent => .bad
    | .malformed => .bad
    | .stall => .later s
    | .ask pkg o =>
      if s.canSend pkg 1 then
        match s.sendPacket pkg ctx (mkOwner 2 s.pkg 0 0 0) 0 o .entry none (s.ctx ctx).phase with
        | (s, q) => .later { s with asks := (pkg, o, .sent pkg q) :: s.asks }
      else .later s

/-- The dispatcher's write of a completion word (R41): nothing is written where the address faults, and the context's log receives record
0x07; where the home cannot be reached yet, the write is owed. -/
def State.writeDone (s : State) (ctx addr value : Nat) : State :=
  if addr = 0 then s
  else match s.putWord ctx addr value with
    | .done s => s
    | .sent s _ _ => s
    | .bad => s.logCtx ctx 0x07 addr 0
    | .later s => s.oweDone ctx addr value

/-- The writes that are owed are tried again. -/
def State.writeOwed (s : State) : State := s.owed.foldl (fun s x => s.writeDone x.1 x.2.1 x.2.2) { s with owed := [] }

/-- A message for another package waits to be taken. -/
def State.post (s : State) (m : Msg) : State := { s with outbox := s.outbox ++ [m] }

/-- GANG_COMPLETION_WORD_WRITE (R363, R366): when every begun member's blocks have ended, the word is written and the
slot is freed. Of an abandoned gang every member must have told that none of its blocks runs, one that never began by an end of 0 blocks
(log 74). -/
def State.gangCheck (s : State) (slot : Nat) : State :=
  match s.gangs.get? slot with
  | some g =>
    if g.phase = 2 && (if g.abandoned then (List.range g.members.length).all g.finished.contains
        else g.begun.all g.finished.contains && decide (g.begun.length = g.members.length)) then
      let s := s.writeDone g.ctx g.done (completionWord (if g.abandoned then 2 else 0) g.ended)
      { s with gangs := s.gangs.set slot { Gang.reset with gen := (g.gen + 1) % 256 } }
    else s
  | none => s

/-- All gang blocks of member i have ended, n of them counted (R363). -/
def State.gangEnded (s : State) (slot i n : Nat) : State :=
  match s.gangs.get? slot with
  | none => s
  | some g =>
    if g.phase ≠ 2 || decide (g.members.length ≤ i) || !(g.abandoned || g.begun.contains i) || g.finished.contains i then s
    else { s with gangs := s.gangs.set slot { g with finished := i :: g.finished, ended := g.ended + n } }.gangCheck slot

/-- The launching package learns that a member here has ended. -/
def State.tellEnded (s : State) (key n : Nat) : State :=
  match s.members.get? key with
  | none => s
  | some m => if key / 64 = s.pkg then s.gangEnded (key % 64) m.index n else s.post (.begun (key / 64) (key % 64) m.index (some n))

/-- A task's last block has ended: its completion word is written and its slot is free (R41, R61); a gang's task reports to
its launcher (R363), which a terminated context's has no need of: that gang's word carries STATUS 3 (R375). -/
def State.taskEnd (s : State) (u : Nat) : State :=
  match s.tasks.get? u with
  | none => s
  | some t =>
    let word := completionWord t.status t.counted
    let s := s.modTask u fun t => { t with isOver := true, word := some word, slot := none }
    match t.gangKey with
    | some k => if (s.ctx t.record.ctx).terminated then s else s.tellEnded k t.counted
    | none => s.writeDone t.record.ctx t.record.done word

/-- Change what a thread's wait records, in trap mode the interrupted wait's too. -/
def Thread.mapWait (t : Thread) (f : Wait → Wait) : Thread := { t with wait := t.wait.map f, frozenWait := t.frozenWait.map f }

/-- The value tbwait writes (R256). -/
def Trellis.value (t : Trellis) : Nat := (if t.gen then 16 else 0) + t.status

/-- A generation of a Trellis identifier completes: it flips, and every waiter's value is recorded (R246, R256). -/
def State.trellisFlip (s : State) (id : Nat) (f : Trellis → Trellis) : State :=
  match s.trellis.get? id with
  | none => s
  | some t =>
    let t := f { t with gen := !t.gen }
    let s := { s with trellis := s.trellis.set id t }
    s.allThreads.foldl (fun s x => s.modThread x.uid (·.mapWait fun w => match w.kind with
      | .trellis i g => if i = id && w.result.isNone && (g != t.gen || decide (t.status ≠ 0)) then { w with result := some t.value } else w
      | _ => w)) s

/-- Releases that are due by now (R256). -/
def State.trellisDue (s : State) (id : Nat) : State :=
  match s.trellis.get? id with
  | none => s
  | some t => (t.due.filter fun d => decide (d ≤ s.now)).foldl (fun s d => s.trellisFlip id fun t => { t with due := t.due.erase d }) s

/-- Trellis identifiers whose member tasks have all ended complete ABANDONED (R256). -/
def State.trellisAbandon (s : State) : State :=
  (s.trellis.filter fun p => p.2.status = 0 && decide (p.2.count < p.2.n) && p.2.due.isEmpty && !p.2.tasks.isEmpty &&
      p.2.tasks.all fun u => (s.tasks.get? u).any (·.isOver)).foldl
    (fun s p => s.trellisFlip p.1 fun t => { t with status := 1, count := 0 }) s

/-! ### Waits and their rechecks (R44) -/

/-- TRAPINFO of ILLEGAL_WAIT: reason and identifier. -/
def waitInfo (reason id : Nat) : Nat := reason + id * 2 ^ 16

def Thread.gone (t : Thread) : Bool := t.life = .exited || t.life = .halted || t.life = .stopped

def State.goneWave (s : State) (b : Block) : Bool := b.waves.any fun u => (s.thread u).gone

/-- Waves of a role of a block. -/
def State.roleWaves (s : State) (b : Block) (role : Nat) : List Nat := b.waves.filter fun u => (s.thread u).role = role

/-- Whether an arrival-mode nbwait can still complete (R44). -/
def State.nbOk (s : State) (b : Block) (bar : Barrier) : Bool :=
  let may := (b.waves.filter fun u => !(s.thread u).gone && !bar.amask.contains (s.thread u).wib).length
  decide (bar.expected ≤ bar.arrived + may)

def Queue.count (q : Queue) : Nat := (q.segs.map (·.2.length)).sum

/-- Extension segments in use (R55). -/
def Queue.exts (q : Queue) : Nat := (q.segs.filter fun x => !x.1).length

/-- qpush writes into the newest segment; a drained base segment may follow it (R55). -/
def Queue.full (q : Queue) : Bool := q.segs.any (·.1) && match q.segs.getLast? with
  | some x => decide (q.depth ≤ x.2.length)
  | none => false

/-- Bytes of an extension segment. -/
def Queue.segBytes (q : Queue) : Nat := 32 * 2 ^ q.code * q.depth

/-- The R44 check of tbwait and tbar over every launched member task (R256). -/
def State.trellisFails (s : State) (id : Nat) (t : Trellis) : Option Nat :=
  t.tasks.findSome? fun u => match s.tasks.get? u with
    | none => none
    | some k =>
      if k.record.cls = 2 then some (waitInfo 1 id)
      else if k.isOver then none
      else if k.record.cls = 1 && (decide (k.placed < k.record.blocks) || s.blocks.vals.any fun b => b.task = u && !b.started) then some (waitInfo 2 id)
      else none

/-- The failing check of a wait, as TRAPINFO (R44); b: the waiting wave's block. -/
def State.waitFails (s : State) (b : Block) (w : WaitKind) : Option Nat :=
  match w with
  | .trellis id _ => (s.trellis.get? id).bind (s.trellisFails id)
  | .bar => if s.goneWave b then some (waitInfo 3 0) else none
  | .nb n _ =>
    let bar := b.bars.getD n Barrier.reset
    if !bar.sector && !s.nbOk b bar then some (waitInfo 3 n) else none
  | .queuePop q => match b.queues.get? q with
    | some x => if x.count = 0 && (s.roleWaves b x.producer).all (fun u => (s.thread u).gone) then some (waitInfo 3 q) else none
    | none => none
  | .queuePush q => match b.queues.get? q with
    | some x => if x.full && (s.roleWaves b x.consumer).all (fun u => (s.thread u).gone) then some (waitInfo 3 q) else none
    | none => none
  | _ => none

/-- The check of one thread's wait, made anew (R44, R246): a failure is marked for its waiting instruction. -/
def State.checkWait (s : State) (u : Nat) : State :=
  s.modThread u fun t => match t.wait with
    | some w => if w.result.isNone && w.fail.isNone && t.life = .running then
        { t with wait := some { w with fail := s.waitFails (s.block t.blk) w.kind } } else t
    | none => t

/-- A Trellis wait whose identifier has the task among its members. -/
def State.waitsOn (s : State) (task : Nat) (t : Thread) : Bool := t.wait.any fun w => match w.kind with
  | .trellis id _ => (s.trellis.get? id).any fun x => x.tasks.contains task
  | _ => false

/-- ILLEGAL_WAIT_RECHECK (R44, R245): a wave of the block has exited; each waiting wave of the block, and each wave that waits
on a Trellis identifier of its task, is checked, and takes the trap at its waiting instruction. -/
def State.recheck (s : State) (blk : Nat) : State :=
  let b := s.block blk
  let us := b.waves ++ (s.allThreads.filter (s.waitsOn b.task)).map (·.uid)
  us.foldl (fun s u => s.checkWait u) s

/-! ### Barriers (R250 to R254) -/

/-- The value nbwait and nbtest write (R254). -/
def Barrier.value (b : Barrier) : Nat :=
  b.expected * 2 ^ 40 + b.arrived * 2 ^ 16 + (if b.sector then 32 else 0) + (if b.phase then 16 else 0) + b.status

/-- BARRIER_COMPLETION (R251): the completion test. -/
def Barrier.test (b : Barrier) : Barrier :=
  if b.expected ≠ 0 && b.arrived = b.expected then
    let x := if b.sector then { b with phase := !b.phase, arrived := 0, expected := 0 }
      else { b with phase := !b.phase, arrived := 0, amask := [] }
    { x with comp := some x.value }
  else b

def Block.bar (b : Block) (n : Nat) : Barrier := b.bars.getD n Barrier.reset

/-- Barriers a block owns (R249). -/
def Block.barCount (b : Block) : Nat := b.lsBytes / 1024

/-- Change a barrier; waiters whose phase or status is reached have the value recorded (R246, R251, R252). -/
def State.setBar (s : State) (blk n : Nat) (x : Barrier) : State :=
  let s := s.modBlock blk fun b => { b with bars := b.bars.set n x }
  (s.block blk).waves.foldl (fun s u => s.modThread u (·.mapWait fun w => match w.kind with
    | .nb m p => if m = n && w.result.isNone && (x.phase != p || decide (x.status ≠ 0)) then { w with result := some x.value } else w
    | _ => w)) s

/-- Count one sector or one arrival without an AMASK bit (R253, R286, R359). -/
def State.countBar (s : State) (blk n : Nat) : State :=
  let b := (s.block blk).bar n
  s.setBar blk n { b with arrived := (b.arrived + 1) % 2 ^ 24 }.test

/-- STATUS of every owned barrier of a block (R252). -/
def State.abandonBars (s : State) (blk status : Nat) : State :=
  (List.range (s.block blk).barCount).foldl (fun s n =>
    let x := (s.block blk).bar n
    if x.status = 0 then s.setBar blk n { x with status := status } else s) s

/-! ### The end of a block (R61, R80) -/

/-- The block's resources return to the core and to the pool; its registered words are written back, or dropped. Its energy
estimate stays in the window's admitted sum (DESIGN CHOICE, log 69). -/
def State.releaseBlock (s : State) (blk : Nat) (drop : Bool) : State :=
  let b := s.block blk
  let o := mkOwner 0 s.pkg (dieOf b.core) (b.core % 128) b.slot
  let s := if b.resident then (if drop then s.dropAll o else s.writeBackAll o) else s
  let s := s.modCore b.core fun c => { c with
    rotation := c.rotation.filter (· ≠ blk), tmplSlots := c.tmplSlots.filter (·.1 ≠ blk)
    latq := c.latq.filter (·.blk ≠ blk), barrow := c.barrow.filter (·.blk ≠ blk), idleSince := s.cycles }
  let s := s.modCtx b.ctx fun c => { c with
    spillFree := c.spillFree + b.spillHeld
    overFree := c.overFree + (b.queues.vals.map fun q => q.exts * q.segBytes).sum }
  { s with blocks := s.blocks.set blk { b with resident := false, spillHeld := 0, waves := [], queues := [] } }

/-- Engine commands of a block that are not complete: its wave slots are held for them (R61, R389). -/
def State.engineBusy (s : State) (blk : Nat) : Bool :=
  let c := s.core (s.block blk).core
  c.latq.any (fun x => x.blk = blk) || c.barrow.any fun x => x.blk = blk

/-- BLOCK_END (R61): the last wave of the block has exited or halted. -/
def State.endBlock (s : State) (blk : Nat) : State :=
  let b := s.block blk
  let s := s.releaseBlock blk false
  let s := s.modTask b.task fun t => { t with
    ended := t.ended + 1, counted := t.counted + (if b.halts = 0 then 1 else 0)
    status := if b.halts = 0 then t.status else max t.status 1 }
  let s := match s.tasks.get? b.task with
    | some t => if t.record.blocks ≤ t.ended then s.taskEnd b.task else s
    | none => s
  s.trellisAbandon

/-- Every wave of a block is gone and its engine commands are complete. -/
def State.blockOver (s : State) (blk : Nat) : Bool :=
  (s.block blk).waves.all (fun x => (s.thread x).gone) && !s.engineBusy blk

/-- The block ends, if it is over. -/
def State.endIfOver (s : State) (blk : Nat) : State := if s.blockOver blk then s.endBlock blk else s

/-- Blocks whose last engine command has completed after their last wave end now (R389). -/
def State.endDue (s : State) : State :=
  (s.blocks.vals.filter fun b => b.resident && b.started && decide (b.waves ≠ [])).foldl (fun s b => s.endIfOver b.uid) s

/-- A wave leaves its block: its claims drop, its siblings' waits are rechecked, and the block ends with its last
wave (R44, R61, R330). -/
def State.leave (s : State) (u : Nat) (life : Life) : State :=
  let t := s.thread u
  let s := s.setThread { t with life := life, wait := none, vreg := [], bound := [], trapMode := false }
  let s := match t.partner with
    | some v => s.modThread v fun x => { x with life := life, wait := none, vreg := [], bound := [], trapMode := false }
    | none => s
  let s := s.modBlock t.blk fun b => { b with
    tiles := b.tiles.map fun p => (p.1, { p.2 with claims := p.2.claims.filter (·.2 ≠ t.wib) })
    exits := b.exits + (if life = .exited then 1 else 0), halts := b.halts + (if life = .halted then 1 else 0) }
  let s := s.recheck t.blk
  s.endIfOver t.blk

/-- WAVE_HALT (R389): the wave stops; complete effects stand, others are discarded; its block's barriers read
ABANDONED and one record goes to its context's log. -/
def State.haltWave (s : State) (u code : Nat) (pc : Word) : State :=
  let s := s.txUnlock u
  let t := s.thread u
  let s := s.logCtx t.ctx code pc.toNat (s.ownerOf t).toNat
  let s := s.setThread { t with
    out := t.out.filter (·.ctr = .mx), pending := [], async := [], latList := none, barList := none, trapMode := false }
  let s := s.abandonBars t.blk 1
  let t := s.thread u
  let s := s.setThread { t with life := .halted, wait := none }
  let s := match t.partner with
    | some v => s.modThread v fun x => { x with life := .halted, wait := none, trapMode := false }
    | none => s
  let s := s.modBlock t.blk fun b => { b with
    halts := b.halts + 1
    tiles := b.tiles.map fun p => (p.1, { p.2 with claims := p.2.claims.filter (·.2 ≠ t.wib) }) }
  let s := s.recheck t.blk
  s.endIfOver t.blk

/-- The gangs a terminated context launched here: a begun one's completion word carries STATUS 3, and their slots are free
(R366, R375). -/
def State.endGangs (s : State) (ctx : Nat) : State :=
  (s.gangs.filter fun p => p.2.phase ≠ 0 && p.2.ctx = ctx).foldl (fun s p =>
    let s := if p.2.phase = 2 then s.writeDone ctx p.2.done (completionWord 3 p.2.ended) else s
    { s with gangs := s.gangs.set p.1 { Gang.reset with gen := (p.2.gen + 1) % 256 } }) s

/-- A context ends on this package (R375, R394, R410): every wave of it ends, each unfinished task's completion word carries
STATUS 3, and record 0x12 is written. drop: registrations are dropped without write-back. -/
def State.terminateHere (s : State) (ctx cause : Nat) (drop : Bool) : State :=
  let s := s.modCtx ctx fun c => { c with terminated := true, faults := [] }
  let us := (s.allThreads.filter fun t => t.ctx = ctx && !t.frailor).map (·.uid)
  let s := us.foldl (fun s u => (s.txUnlock u).modThread u fun t => if t.gone then t else { t with life := .stopped, wait := none, out := [], pending := [] }) s
  let bs := (s.blocks.filter fun p => p.2.ctx = ctx && decide (p.2.waves ≠ [])).map (·.1)
  let s := bs.foldl (fun s b => s.releaseBlock b drop) s
  let s := { s with watch := s.watch.filter fun u => !us.contains u.1, colls := s.colls.filter (·.ctx ≠ ctx) }
  let s := s.endGangs ctx
  let ts := (s.tasks.filter fun p => p.2.record.ctx = ctx && !p.2.isOver).map (·.1)
  let s := ts.foldl (fun s u => (s.modTask u fun t => { t with status := 3 }).taskEnd u) s
  (s.logPkg 0x12 cause ctx).trellisAbandon

/-- CONTEXT_TERMINATION (R375): the context ends here, and the other packages it runs on are told. -/
def State.terminate (s : State) (ctx cause : Nat) (drop : Bool) : State :=
  (((s.ctx ctx).packages.filter (· ≠ s.pkg)).foldl (fun s p => s.post (.terminated p ctx cause)) s).terminateHere ctx cause drop

/-! ### Acceptance of a task (R37, R45, R49, R407) -/

/-- The task slots of a die have ceased with it (R400). -/
def State.dieGone (s : State) (die : Nat) : Bool := decide (3 ≤ s.dies.states.getD die 0)

/-- The lowest free task slot of a die (R49). -/
def State.freeSlot (s : State) (die : Nat) : Option Nat :=
  if s.dieGone die then none else
  let used := s.tasks.vals.filterMap fun t => if t.die = die then t.slot else none
  (List.range 256).find? fun i => !used.contains i

/-- Free task slots of a die; a successor shares its parent's (R62). -/
def State.slotsFree (s : State) (die : Nat) : Nat :=
  256 - ((s.tasks.vals.filter fun t => t.die = die).filterMap (·.slot)).eraseDups.length

/-- The ONLINE die with the most free slots, the lower number on ties (R49). -/
def State.roomiestDie (s : State) : Nat :=
  (((List.range 4).filter s.dieOnline).foldl (fun best d => match best with
    | none => some d
    | some b => if s.slotsFree b < s.slotsFree d then some d else some b) none).getD 0

/-- The die whose slot a task takes (R49); launcher none: a Frailor launcher. -/
def State.taskDie (s : State) (r : Record) (launcher : Option Nat) : Nat :=
  if r.hint && s.dieOnline r.prefDie then r.prefDie
  else match launcher with
    | some d => if s.dieOnline d then d else s.roomiestDie
    | none => s.roomiestDie

/-- Of two tasks the one that loses its slot first: the lower effective priority, then the younger (R49). -/
def looserTask (a b : Task) : Task := if b.eff < a.eff || (a.eff = b.eff && decide (a.born < b.born)) then b else a

def pickTask (ts : List Task) : Option Task := ts.foldl (fun best t => some (match best with
  | none => t
  | some b => looserTask b t)) none

/-- SLOT_TAKEOVER (R49): the task that gives up its slot to a taker of effective priority eff. -/
def State.takeoverVictim (s : State) (die eff : Nat) : Option Task :=
  let ts := s.tasks.vals.filter fun t => t.die = die && t.slot.isSome && decide (t.eff < eff) && decide (t.record.cls ≠ 0) && decide (t.eff < 7)
  let started (t : Task) : Bool := s.blocks.vals.any fun b => b.task = t.uid && b.started
  (pickTask (ts.filter fun t => !started t)).orElse fun _ =>
    (pickTask (ts.filter fun t => t.record.cls = 2)).orElse fun _ =>
      if eff = 7 then pickTask (ts.filter fun t => t.record.cls = 1) else none

/-- TASK_SLOT_ASSIGNMENT (R49): a free slot, or one taken over, or the pending list. The started blocks of a task that
loses its slot are pre-empted next. -/
def State.assignSlot (s : State) (u : Nat) : State :=
  match s.tasks.get? u with
  | none => s
  | some t => match s.freeSlot t.die with
    | some i => s.modTask u fun t => { t with slot := some i }
    | none => match (if s.dieGone t.die then none else s.takeoverVictim t.die t.eff) with
      | some v =>
        let s := s.modTask v.uid fun t => { t with slot := none }
        let bs := s.blocks.vals.filter fun b => b.task = v.uid && b.resident && b.started
        { s.modTask u fun t => { t with slot := v.slot } with agenda := bs.map (fun b => .preempt b.uid) ++ s.agenda }
      | none => s

/-- A block of a task takes its place on a core, with its areas from the spill pool (R422); the core's die is touched first (R30). -/
def State.placeOn (s : State) (t : Task) (idx : Nat) (succ : Bool) (core : Nat) : State × Nat :=
  let r := t.record
  let u := s.nextUid
  let s := s.touchDie r.ctx (dieOf core)
  let b := s.seat (mkBlock u idx t succ) core
  let s := { s with nextUid := u + 64, blocks := s.blocks.set u b }
  (s.modCtx r.ctx fun c => { c with spillFree := c.spillFree - r.areas }, u)

/-- The spill pool of its context holds a block's areas (R50, R422). -/
def State.hasAreas (s : State) (r : Record) : Bool := decide (r.areas ≤ (s.ctx r.ctx).spillFree)

/-- A resident place for a block of a task on the first die, in the order of R50, that has one. -/
def State.placeBlock (s : State) (t : Task) (idx : Nat) (succ : Bool) : Option (State × Nat) :=
  let r := t.record
  if !s.hasAreas r then none
  else (s.findCore t.die r.slots r.lsBytes r.accBanks r.regs r.cls r.dual).map (s.placeOn t idx succ)

/-- A place in a rotation list (R45): the first core in die order whose list has room, whatever else that core holds (DESIGN
CHOICE, log 68). -/
def State.listBlock (s : State) (t : Task) (idx : Nat) : Option State :=
  let r := t.record
  if !s.hasAreas r then none
  else
    let dies := (t.die :: (List.range 4).filter (· ≠ t.die)).filter s.dieOnline
    match (dies.flatMap fun d => (List.range 128).map (128 * d + ·)).find? fun c => decide ((s.core c).rotation.length < 4) with
    | none => none
    | some core =>
      let u := s.nextUid
      let s := s.touchDie r.ctx (dieOf core)
      let b := { mkBlock u idx t false with core := core, rotating := true }
      let s := { s with nextUid := u + 64, blocks := s.blocks.set u b }
      let s := s.modCore core fun c => { c with rotation := c.rotation ++ [u] }
      some (s.modCtx r.ctx fun c => { c with spillFree := c.spillFree - r.areas })

/-- A place for every block of a class-C task, or nothing (R45). -/
def State.reserveC (s : State) (t : Task) : Nat → Nat → Option State
  | 0, _ => some s
  | n + 1, idx =>
    match s.placeBlock t idx false with
    | some (s, _) => s.reserveC t n (idx + 1)
    | none => match s.listBlock t idx with
      | some s => s.reserveC t n (idx + 1)
      | none => none

/-- BUDGET_WINDOW_START: the windows begin at multiples of 10,000,000 ticks (R407). -/
def State.newWindow (s : State) : State :=
  if s.windowNo < s.now / 10000000 then
    { s with windowNo := s.now / 10000000, windowAdmitted := 0, ctxs := s.ctxs.map fun (p : Nat × Ctx) => (p.1, { p.2 with admitted := 0 }) }
  else s

/-- Whether estimates fit the budget window of the present time (R407). The estimate of a successor that `exit.succ` starts, which passes no
dispatcher, is neither tested nor charged (DESIGN CHOICE, log 69). -/
def State.fitsWindow (s : State) (ctx e : Nat) : Bool :=
  let s := s.newWindow
  let c := s.ctx ctx
  (c.budget = 0 || decide (c.admitted + e ≤ c.budget)) && decide (s.windowAdmitted + e ≤ 24000000)

def State.charge (s : State) (ctx e : Nat) : State :=
  let s := s.newWindow
  { s.modCtx ctx fun c => { c with admitted := c.admitted + e } with windowAdmitted := s.windowAdmitted + e }

/-- A task of a record, not yet known to the machine. -/
def State.newTask (s : State) (r : Record) (launcher parent gangKey : Option Nat) (idxBase : Nat) (handler : Bool) : Task where
  uid := s.nextUid
  record := r
  die := s.taskDie r launcher
  slot := none
  eff := r.prio
  born := s.nextUid
  placed := if r.cls = 0 then r.blocks else 0
  ended := 0
  counted := 0
  status := 0
  isOver := false
  word := none
  reserved := 0
  parent := parent
  gangKey := gangKey
  idxBase := idxBase
  handler := handler
  launcherDie := launcher.getD 0

/-- Most places the package can give: 8 resident blocks and 4 listed blocks on each of 512 cores. -/
def maxPlaces : Nat := 6144

/-- Accept a valid record (R37): the status, and the task's number when it is OK. -/
def State.accept (s : State) (r : Record) (launcher parent gangKey : Option Nat) (idxBase : Nat) (handler : Bool) : State × Nat × Nat :=
  let t := s.newTask r launcher parent gangKey idxBase handler
  if s.overBudget r then (s, 3, 0)
  else
    let s' := { s with nextUid := s.nextUid + 1, tasks := s.tasks.set t.uid t }
    if r.cls ≠ 0 then (s'.assignSlot t.uid, 0, t.uid)
    else if maxPlaces < r.blocks || !s.fitsWindow r.ctx (r.blocks * r.energy) then (s, 1, 0)
    else match s'.reserveC t r.blocks idxBase with
      | none => (s, 1, 0)
      | some s' => ((s'.charge r.ctx (r.blocks * r.energy)).assignSlot t.uid, 0, t.uid)

/-- Bytes of a context's memory on this package, 8 at a time; none where they cannot be reached. -/
def State.readCtx (s : State) (ctx va : Nat) : Nat → Option (List Byte)
  | 0 => some []
  | n + 1 =>
    if va / 2 ^ 56 ≠ 0 then none
    else match s.walk ctx va with
      | .leaf x =>
        let pl := placeOf (x.addr va) x.region
        if !s.placeReady runtime runtime pl 8 then none else match pl with
        | .mem pa _ => (s.readCtx ctx (va + 8) n).map (leBytes 8 ((s.homeVal (pa / 4)).toNat + 2 ^ 32 * (s.homeVal (pa / 4 + 1)).toNat) ++ ·)
        | .host i a => (s.readCtx ctx (va + 8) n).map (s.hostBytes i a 8 ++ ·)
        | _ => none
      | _ => none

end Sys2Proof.Machine
end

