-- ==== Sys2Proof/Machine/Errors.lean ====
section
/-! DEFINITION. Errors in arrays: CRC-32C, corrected rows and sparing, uncorrectable errors in LLC lines with retirement
and quarantine, planted errors, and the page-table surgery they need (R217, R391 to R396, R402, R404, R405, R409, R423). -/

namespace Sys2Proof.Machine

open Sys2Proof

/-! ### CRC-32C (R217) -/

def crcBits (c : BitVec 32) : Nat → BitVec 32
  | 0 => c
  | n + 1 => crcBits (if c.getLsbD 0 then (c >>> 1) ^^^ 0x82F63B78#32 else c >>> 1) n

def crcByte (c : BitVec 32) (b : Nat) : BitVec 32 := crcBits (c ^^^ BitVec.ofNat 32 (b % 256)) 8

/-- `crc32c(c, x)` over the four bytes of x. -/
def crc32c (c x : BitVec 32) : BitVec 32 :=
  crcByte (crcByte (crcByte (crcByte c x.toNat) (x.toNat / 2 ^ 8)) (x.toNat / 2 ^ 16)) (x.toNat / 2 ^ 24)

/-! ### Rows (R395, R396) -/

/-- The row identifier of a tier-1 address: channel of R368, bank and row of log 22. -/
def rowId (pa : Nat) : Nat := pa % 2 ^ 39 / 256 % 96 * 2 ^ 25 + (Config.rowOf pa).toNat

def filterKeys (die id : Nat) : List Nat :=
  [1, 2, 3].map fun i => die * 2 ^ 20 + (crc32c (BitVec.ofNat 32 i) (BitVec.ofNat 32 id)).toNat % 2 ^ 20

def rowDetail (die id : Nat) : Nat := die + id * 2 ^ 32

/-! ### Page tables as lists of leaves -/

/-- The entries of a table that memory lists: index and value. -/
def State.tableEntries (s : State) (tbl n : Nat) : List (Nat × Nat) :=
  let ws := ((s.home.filter fun p => decide (tbl ≤ 4 * p.1) && decide (4 * p.1 < tbl + 8 * n)).map (·.1)) ++
    ((s.tier.filter fun p => decide (tbl ≤ p.1) && decide (p.1 < tbl + 8 * n)).map fun p => p.1 / 4)
  ((ws.map fun w => (4 * w - tbl) / 8).eraseDups).map fun i =>
    (i, (s.homeVal (tbl / 4 + 2 * i)).toNat + 2 ^ 32 * (s.homeVal (tbl / 4 + 2 * i + 1)).toNat)

/-- A leaf of a context's tables: the entry's address, the virtual address, the page size as a power of two, the entry. -/
structure Leaf where
  entryAddr : Nat
  va : Nat
  sh : Nat
  e : Nat

def State.leavesFrom (s : State) (va : Nat) : List (Nat × Nat × Nat) → Nat → List Leaf
  | [], _ => []
  | (_, sh, n) :: rest, tbl => (s.tableEntries tbl (2 ^ n)).flatMap fun (p : Nat × Nat) =>
    if p.2 % 2 = 0 then []
    else if bits p.2 54 54 = 1 then [⟨tbl + 8 * p.1, va + p.1 * 2 ^ sh, sh, p.2⟩]
    else s.leavesFrom (va + p.1 * 2 ^ sh) rest (bits p.2 51 8 * 2 ^ 8)

def State.liveCtxs (s : State) : List Nat := (s.ctxs.filter fun p => p.2.live).map (·.1)

def State.leaves (s : State) (ctx : Nat) : List Leaf :=
  if (s.ctx ctx).live then s.leavesFrom 0 levels (s.ctx ctx).ptroot else []

def Leaf.pa (l : Leaf) : Nat := bits l.e 51 8 * 2 ^ 8

/-- The leaf maps the 64 KiB physical page. -/
def Leaf.maps (l : Leaf) (page : Nat) : Bool := decide (l.pa / 2 ^ 16 ≤ page) && decide (page < (l.pa + 2 ^ l.sh) / 2 ^ 16)

/-- The runtime's write of an entry at its home. -/
def State.setEntry (s : State) (a e : Nat) : State :=
  (s.forceWord (a / 4) (BitVec.ofNat 32 e) 0).forceWord (a / 4 + 1) (BitVec.ofNat 32 (e / 2 ^ 32)) 0

/-- An entry with another page address. -/
def withAddr (e pa : Nat) : Nat := e / 2 ^ 52 * 2 ^ 52 + pa / 2 ^ 8 * 2 ^ 8 + e % 2 ^ 8

/-- Take one free page of a context's pool, on an ONLINE die other than `avoid`: tier 1 with the lowest die first, then tier 2
unless only tier 1 will do (R396, R402). -/
def State.takePage (s : State) (ctx avoid : Nat) (only1 : Bool) : Option (Nat × State) :=
  let ps := (s.ctx ctx).poolPages
  let ones := (List.range 4).flatMap fun d => ps.filter fun p => decide (p < 2 ^ 29) && decide (homeDie (p * 2 ^ 16) = d) && s.dieOnline d && decide (d ≠ avoid)
  let twos := if only1 then [] else ps.filter fun p => decide (2 ^ 29 ≤ p) && s.dieOnline (homeDie (p * 2 ^ 16)) && decide (homeDie (p * 2 ^ 16) ≠ avoid)
  (ones ++ twos).head?.map fun p => (p, s.modCtx ctx fun c => { c with poolPages := c.poolPages.filter (· ≠ p) })

/-- Contexts whose tables map a physical page. -/
def State.mappers (s : State) (page : Nat) : List Nat := s.liveCtxs.filter fun c => (s.leaves c).any (·.maps page)

/-- A page of the runtime's own, for a table: the highest tier-1 page of an ONLINE die that no table maps, no pool lists, nothing has
retired, and that holds nothing (log 61). -/
def State.runtimePage (s : State) : Option Nat :=
  ((List.range 4).filter s.dieOnline).findSome? fun d =>
    ((List.range 0x600000).map fun i => d * 2 ^ 23 + 0x5FFFFF - i).find? fun p =>
      !s.retired.contains p && (s.mappers p).isEmpty && s.ctxs.vals.all (fun c => !c.poolPages.contains p) &&
        s.home.all (fun x => decide (x.1 / 2 ^ 14 ≠ p)) && s.tier.all fun x => decide (x.1 / 2 ^ 16 ≠ p)

/-- A page for a table of a context: of its pool, or the runtime's own. -/
def State.tablePage (s : State) (ctx : Nat) : Option (Nat × State) :=
  (s.takePage ctx 4 false).orElse fun _ => s.runtimePage.map fun p => (p, s)

/-- Replace a large leaf by a table of leaves of the next size, down to the level that holds the page (R394). -/
def State.splitTo (s : State) (ctx page : Nat) : Nat → Leaf → State × Leaf
  | 0, l => (s, l)
  | k + 1, l =>
    if l.sh ≤ 16 then (s, l)
    else match s.tablePage ctx with
      | none => (s, l)
      | some (t, s) =>
        let sh := if l.sh = 30 then 21 else 16
        let n := 2 ^ (l.sh - sh)
        let tbl := t * 2 ^ 16
        let s := (List.range n).foldl (fun s i => s.setEntry (tbl + 8 * i) (withAddr l.e (l.pa + i * 2 ^ sh))) s
        let s := s.setEntry l.entryAddr (1 + tbl)
        let i := (page * 2 ^ 16 - l.pa) / 2 ^ sh
        s.splitTo ctx page k ⟨tbl + 8 * i, l.va + i * 2 ^ sh, sh, withAddr l.e (l.pa + i * 2 ^ sh)⟩

/-- Every translation of a physical page leaves the TLBs (R373). -/
def State.shootPage (s : State) (page : Nat) : State :=
  s.filterTlbs fun _ x => !(decide (x.pa / 2 ^ 16 ≤ page) && decide (page < (x.pa + 2 ^ x.bits) / 2 ^ 16))

/-- Every leaf that maps a physical page, in every context, is made to map the page at `pa` there, or nothing. -/
def State.remap (s : State) (page : Nat) (pa : Option Nat) : State :=
  s.liveCtxs.foldl (fun s c => ((s.leaves c).filter (·.maps page)).foldl (fun s l =>
    let r := s.splitTo c page 2 l
    r.1.setEntry r.2.entryAddr ((pa.map (withAddr r.2.e)).getD 0)) s) s

/-- PAGE_RETIREMENT (R394): the page leaves every table and is never used again; record 0x13. -/
def State.retirePage (s : State) (page : Nat) : State :=
  let s := s.remap page none
  let s := s.liveCtxs.foldl (fun s c => s.modCtx c fun x => { x with poolPages := x.poolPages.filter (· ≠ page) }) s
  ({ s.shootPage page with retired := page :: s.retired }).logPkg 0x13 (page * 2 ^ 16) 0xFFFF

/-- Copy a page's words, all written back first. -/
def State.copyPage (s : State) (old new : Nat) : State :=
  let ws := ((s.home.keys.filter fun w => w / 2 ^ 14 = old) ++
    ((Map.keys s.tier).filter fun a => a / 2 ^ 16 = old).map fun a => a / 4).eraseDups
  ws.foldl (fun s w =>
    let s := (s.lineRead (lineOf w)).writeBack w false
    let s := s.forceWord (new * 2 ^ 14 + w % 2 ^ 14) (s.homeVal w) 0xFFFF
    if s.memPoison.has w then { s with memPoison := s.memPoison.set (new * 2 ^ 14 + w % 2 ^ 14) true } else s) s

/-- A collective in flight holds the page pinned (R358). -/
def State.pinned (s : State) (page : Nat) : Bool := s.colls.any fun c => c.pins.any fun x => decide (x.2.pa / 2 ^ 16 ≤ page) && decide (page < (x.2.pa + 2 ^ x.2.bits) / 2 ^ 16)

/-- A physical address in a page that has moved. -/
def movedPa (page new pa : Nat) : Nat := if pa / 2 ^ 16 = page then new * 2 ^ 16 + pa % 2 ^ 16 else pa

/-- A place in a page that has moved. -/
def movedPlace (page new : Nat) : Place → Place
  | .mem pa r => .mem (movedPa page new pa) r
  | pl => pl

/-- A map under other keys. -/
def rekey {α : Type} (f : Nat → Nat) (m : Map α) : Map α := m.foldl (fun n x => n.set (f x.1) x.2) []

/-- A lane's sets name the words where they are now. -/
def movedLane (page new : Nat) (L : TxLane) : TxLane :=
  let w (x : Nat) : Nat := movedPa page new (4 * x) / 4
  { L with reads := rekey w L.reads, writes := rekey (movedPa page new) L.writes, regions := rekey w L.regions, stores := rekey w L.stores }

/-- A watch-table entry of a word in a page that has moved: its number, and its new home die (R243). -/
def movedWatch (page new : Nat) (x : Nat × Nat × Nat) : Nat × Nat × Nat :=
  let pa := movedPa page new (8 * x.2.2)
  if pa = 8 * x.2.2 then x else (x.1, homeDie pa, pa / 8)

/-- Accesses that were translated before a page moved reach its words where they are now: a move changes only timing (R373, R402). -/
def State.followMove (s : State) (page new : Nat) : State :=
  let s := { s with
    watch := s.watch.map (movedWatch page new)
    locks := s.locks.map fun (x : Nat × Nat × Nat) => (x.1, x.2.1, movedPa page new (4 * x.2.2) / 4)
    cores := s.cores.map fun (p : Nat × Core) => (p.1, { p.2 with barrow := p.2.barrow.map fun (c : BarCmd) => { c with held := c.held.map fun (x : Nat × Place) => (x.1, movedPlace page new x.2) } }) }
  s.allThreads.foldl (fun s t => s.modThread t.uid fun t => { t with
    out := t.out.map fun (a : Access) => { a with parts := a.parts.map fun p => { p with place := movedPlace page new p.place } }
    tx := { t.tx with lanes := t.tx.lanes.map fun (x : Nat × TxLane) => (x.1, movedLane page new x.2) } }) s

/-- PAGE_MOVE (R402): a mapped page moves to a free page of a pool of a context that maps it, and every mapping with it; none: no
place, or a collective holds it pinned (R358). -/
def State.movePage (s : State) (page avoid : Nat) (only1 : Bool) : Option State :=
  let cs := s.mappers page
  if cs.isEmpty then some s
  else if s.pinned page then none
  else (cs.findSome? fun c => s.takePage c avoid only1).map fun r =>
    let pa := r.1 * 2 ^ 16
    let s := (((r.2.copyPage page r.1).remap page (some pa)).shootPage page).followMove page r.1
    cs.foldl (fun s c => s.touchDie c (homeDie pa)) s

/-! ### Corrected errors (R395, R396) -/

def State.setErr (s : State) (f : Errors → Errors) : State := { s with err := f s.err }

/-- The 64 KiB pages of a die with bytes in a row (R396). -/
def rowPages (die id : Nat) : List Nat :=
  ((List.range 0x600000).map (die * 2 ^ 23 + ·)).filter fun p => (List.range 256).any fun i => decide (rowId (p * 2 ^ 16 + 256 * i) = id)

/-- ROW_SPARING (R396): the row moves to a spare row, or, with none left, every page with bytes in it moves and is
retired; a page that finds no free one stays (DESIGN CHOICE, log 62). -/
def State.spareRow (s : State) (die id : Nat) : State :=
  let bank := die * 2 ^ 12 + id / 2 ^ 20
  let used := s.err.sparedBanks.getD bank 0
  let s := s.setErr fun e => { e with repeats := e.repeats.filter fun r => !(r.1 = die && r.2.1 = id) }
  if used < 8 then
    (s.setErr fun e => { e with sparedBanks := e.sparedBanks.set bank (used + 1), spared := rowDetail die id :: e.spared }).logPkg
      0x16 (rowDetail die id) 0xFFFF
  else
    let s := s.logPkg 0x17 (rowDetail die id) 0xFFFF
    (rowPages die id).foldl (fun s page => (s.movePage page 4 true).elim s fun s => s.retirePage page) s

/-- A repeat of a row (R396): entries stand most recently counted first, at most 1024 per die. -/
def State.repeatRow (s : State) (die id : Nat) : State :=
  let n := match s.err.repeats.find? fun r => r.1 = die && r.2.1 = id with
    | some r => r.2.2 + 1
    | none => 1
  if n = 4 then s.spareRow die id
  else s.setErr fun e =>
    let mine := e.repeats.filter fun r => r.1 = die && r.2.1 ≠ id
    let other := e.repeats.filter fun r => r.1 ≠ die
    { e with repeats := (die, id, n) :: mine.take 1023 ++ other }

/-- The period of the filter, 24 hours in reference ticks (R395). -/
def filterPeriod : Nat := 86400000000000

/-- The filter is cleared at each multiple of its period, before any later error is tested (R395). -/
def State.filterDue (s : State) : State :=
  if s.now / filterPeriod = s.err.period then s else s.setErr fun e => { e with filter := [], period := s.now / filterPeriod }

/-- CORRECTED_ERROR (R395): the three filter bits are tested, and set at a first occurrence. -/
def State.corrected (s : State) (pa : Nat) : State :=
  let s := s.filterDue
  let die := homeDie pa
  let id := rowId pa
  let ks := filterKeys die id
  if ks.all s.err.filter.has then s.repeatRow die id
  else (s.setErr fun e => { e with filter := ks.foldl (fun m k => m.set k true) e.filter }).logPkg 0x15 (rowDetail die id) 0xFFFF

def isTier1 (pa : Nat) : Bool := pa / 2 ^ 45 = 0

/-- A read of tier-1 memory finds the corrected errors and the planted error of its row (R391, R395, R405). -/
def State.readRow (s : State) (w : Nat) : State :=
  let pa := 4 * w
  if !isTier1 pa then s
  else
    let hit (a : Nat) : Bool := homeDie a = homeDie pa && rowId a = rowId pa
    let found := s.err.rows.filter hit
    let s := s.setErr fun e => { e with rows := e.rows.filter fun a => !hit a }
    let s := found.foldl (fun s a => s.corrected a) s
    match s.err.plant with
    | some ⟨1, ue, a⟩ =>
      if hit a then
        let s := s.setErr fun e => { e with status := 2, plant := none }
        if !ue then s.corrected a
        else if s.lines.has (lineOf (a / 4)) then { s with tierPoison := s.tierPoison.set (a / 4) true }
        else { s with memPoison := s.memPoison.set (a / 4) true }
      else s
    | _ => s

/-! ### Uncorrectable errors in LLC lines (R391, R394, R409, R410) -/

/-- The line's data is gone: its words read from tier memory again. -/
def State.dropLine (s : State) (line : Nat) : State :=
  { s with lines := s.lines.erase line, home := s.home.filter fun p => p.1 / 64 ≠ line }.exposeTier line

/-- Ways of the line's set that are not quarantined. -/
def State.goodWays (s : State) (line : Nat) : Nat := ((List.range 16).filter fun w => !s.quarantined.contains (wayCode line w)).length

/-- LLC_UNCORRECTABLE_ERROR in a dirty line: look up the tag, terminate, retire, quarantine, resume (R394, R410). -/
def State.lineError (s : State) (line : Nat) (l : Line) : State :=
  let s := s.foundPlant line
  let page := 256 * line / 2 ^ 16
  let cs := if l.tag = 0xFFFF then s.mappers page else [l.tag]
  let s := cs.foldl (fun s c => s.terminate c 0x80 true) s
  let s := (s.dropLine line).retirePage page
  if s.goodWays line ≤ 1 then s
  else
    let s := ((s.lines.filter fun p => sameSet p.1 line && p.2.way = l.way).map (·.1)).foldl (fun s n => s.evictGood n) s
    ({ s with quarantined := wayCode line l.way :: s.quarantined }).logPkg 0x14 (wayCode line l.way) 0xFFFF

/-- R394's steps for the lines in which evictions found an error. -/
def State.lineErrors (s : State) : State :=
  s.err.found.foldl (fun s x => s.lineError x.1 x.2) (s.setErr fun e => { e with found := [] })

/-- The next read of a line finds the error in it: a dirty line's acts as `lineError` states, a clean line is fetched
again, a corrected error changes nothing (R391, R394, R409). -/
def State.readLine (s : State) (w : Nat) : State :=
  match s.lines.get? (lineOf w) with
  | none => s.readRow w
  | some l => match l.ue with
    | none => s
    | some ue =>
      if ue && l.dirty then s.lineError (lineOf w) l
      else
        let s := { s with lines := s.lines.set (lineOf w) { l with ue := none } }.foundPlant (lineOf w)
        if l.dirty || !ue then s
        else (({ s with lines := s.lines.erase (lineOf w) }.exposeTier (lineOf w)).touchLine w).readRow w

/-- A read at the home of a word: an error in its line is found, the line is held, and the die is touched (R30, R394, R408, R409). -/
def State.homeLine (s : State) (ctx w : Nat) : State := ((s.readLine w).touchLine w).touchDie ctx (homeDie (4 * w))

/-- A walk's read of a page-table word: context and word. -/
def State.walkRead (s : State) (x : Nat × Nat) : State := s.homeLine x.1 x.2

/-- What the reads of walks do at the LLC. -/
def State.walkReads (s : State) : State := s.walked.foldl State.walkRead { s with walked := [] }

/-! ### Planted local-store errors (R404, R405, R423) -/

/-- The physical address in a core's local store of a window offset. -/
def Block.physical (b : Block) (o : Nat) : Nat := b.pages.getD (o / 4096) 256 * 4096 + o % 4096

/-- The word a plant of TARGET 2 names is the window word at o of a block. -/
def plantHits (p : Plant) (b : Block) (o : Nat) : Bool :=
  p.target = 2 && p.addr / 2 ^ 20 % 2 ^ 9 = b.core && p.addr % 2 ^ 20 / 4 = b.physical o / 4

/-- A read of window words finds a planted error: an uncorrectable one poisons the word. -/
def State.readLocal (s : State) (blk o n : Nat) : State :=
  match s.err.plant with
  | some p =>
    let b := s.block blk
    match ((List.range ((o % 4 + n + 3) / 4)).map fun i => o / 4 * 4 + 4 * i).find? fun a => plantHits p b a with
    | some a =>
      let s := s.setErr fun e => { e with status := 2, plant := none }
      if p.ue then s.modBlock blk fun b => { b with lsPoison := b.lsPoison.set (a / 4) true } else s
    | none => s
  | none => s

/-- A store of a whole word before any read clears a planted error, and STATUS returns to IDLE (R423). -/
def State.coverLocal (s : State) (blk o n : Nat) : State :=
  match s.err.plant with
  | some p =>
    let b := s.block blk
    if ((List.range (n / 4)).map fun i => o / 4 * 4 + 4 * i).any (fun a => decide (o ≤ a) && decide (a + 4 ≤ o + n) && plantHits p b a) then
      s.setErr fun e => { e with status := 0, plant := none }
    else s
  | none => s

end Sys2Proof.Machine
end

