-- ==== Sys2Proof/Machine/Ops.lean ====
section
/-! DEFINITION. Taking a trap and returning from one, trap points, page-fault stalls, waiting, the gate every instruction
passes before its own effect, and the issue of counted accesses (R44, R87, R88, R118, R120, R125, R126, R189 to R191,
R220, R245, R246, R267, R269, R375 to R381, R386, R387, R392, R397 to R399). -/

namespace Sys2Proof.Machine

open Sys2Proof

/-! ### Causes (R125) -/

def cIllegal : Nat := 0x01
def cPrivileged : Nat := 0x02
def cMisaligned : Nat := 0x03
def cPageFault : Nat := 0x04
def cAccessFault : Nat := 0x05
def cIllegalWait : Nat := 0x09
def cDeadlock : Nat := 0x0A
def cLocalBounds : Nat := 0x0B
def cAccUnalloc : Nat := 0x0C
def cAccBand : Nat := 0x0D
def cLayout : Nat := 0x0E
def cOverlap : Nat := 0x0F
def cLatticeCheck : Nat := 0x10
def cUeConsumed : Nat := 0x11
def cSdc : Nat := 0x12
def cDieLost : Nat := 0x13
def cUnreachable : Nat := 0x14
def cGangAbandoned : Nat := 0x15
def cWindowFetch : Nat := 0x16
def cSoftwareTrap : Nat := 0x17
def cFormat : Nat := 0x18
def cTxInTrap : Nat := 0x19
def cQueuePool : Nat := 0x1A

/-- A trap about to be taken. -/
structure Trap where
  cause : Nat
  deferred : Bool
  pc : Word
  addr : Word
  info : Word
  barrow : Option Nat
  deriving DecidableEq, Repr

/-! ### Transactions that end early (R239) -/

/-- Abort open, unaborted lanes of a thread that `sel` names, with a reason (R238, R239, R241). -/
def Thread.abortTx (t : Thread) (reason : Nat) (sel : Nat → Bool) : Thread :=
  if !t.tx.isOpen then t
  else
    let hit := t.tx.lanes.filter fun p => p.2.aborted = 0 && sel p.1
    let lns := t.tx.lanes.map fun p => if p.2.aborted = 0 && sel p.1 then (p.1, { p.2 with aborted := reason }) else p
    match hit with
    | [] => t
    | (j, _) :: _ =>
      let low := decide (j < t.tx.lane)
      { t with tx := { t.tx with
          lanes := lns
          nabort := t.tx.nabort + hit.length
          lane := if low then j else t.tx.lane
          reason := if low then reason else t.tx.reason
          mixed := t.tx.mixed || (decide (t.tx.reason ≠ 0) && decide (t.tx.reason ≠ reason)) } }

def Thread.abortAll (t : Thread) (reason : Nat) : Thread := t.abortTx reason fun _ => true

/-! ### Taking a trap (R267, R375, R376, R386, R387) -/

/-- An asynchronous cause: it interrupts a wait, which goes on after `sret` (R125, R246). -/
def Trap.async (x : Trap) : Bool := x.cause = cDieLost || x.cause = cUnreachable || x.barrow.isSome

/-- Entry to single-lane trap mode at TVEC (R267, R376), or a Frailor core's own trap mode (R387): open lanes abort
with reason fault, the trap CSRs and TEPC are written, the trap register set is zero. After any cause but an asynchronous one the
instruction at TEPC issues anew. -/
def Thread.enterTrapMode (t : Thread) (x : Trap) : Thread :=
  { t.abortAll 4 with
    trapcause := BitVec.ofNat 64 (x.cause + (if x.deferred then 256 else 0))
    trappc := x.pc
    trapaddr := x.addr
    trapinfo := x.info
    tepc := if x.cause = cSoftwareTrap then x.pc + 4 else x.pc
    trapMode := true, treg := [], tPoison := [], tLd := 0, tSt := 0, trapBarrow := x.barrow
    pc := t.tvec, frozenWait := if x.async then t.wait.map fun w => { w with fail := none } else none, wait := none
    out := t.out.filter fun a => a.kind ≠ .record }

/-- A thread enters trap mode. A commit in progress lets its words go (R105), a sleeping wave its watch-table entry (R243), and time it
has waited is not time it was ready (R48). -/
def State.trapIn (s : State) (u : Nat) (x : Trap) : State :=
  let s := (s.txUnlock u).watchLeave u
  s.modThread u fun t => { t.enterTrapMode x with lastIssue := if t.wait.isSome then s.cycles else t.lastIssue }

/-- FRAILOR_CORE_RESET (R386, R387): that core alone is reset and record 0x19 is written. -/
def State.resetFrailor (s : State) (u : Nat) : State :=
  let t := s.thread u
  (s.setThread { Thread.reset u with core := t.core }).logPkg 0x19 (t.core - 512) 0xFFFF

/-- Whether a trap of this thread ends its context: no handler, or already in trap mode (R269, R375). -/
def Thread.noHandler (t : Thread) : Bool := t.tvec = 0 || t.trapMode

/-- Deliver a trap to one thread (R375, R387). -/
def State.deliver (s : State) (u : Nat) (x : Trap) : State :=
  let t := s.thread u
  if t.frailor then
    if t.noHandler then s.resetFrailor u else s.trapIn u x
  else if x.cause = cUeConsumed then s.haltWave u 0x10 x.pc
  else if x.cause = cSdc then s.haltWave u 0x11 x.pc
  else if t.noHandler then s.terminate t.ctx x.cause false
  else s.trapIn u x

/-- Deliver a trap to a thread, and to both waves of a dual pair at one point, in the leader's name (R399). -/
def State.takeTrap (s : State) (u : Nat) (x : Trap) : State :=
  match (s.thread u).partner with
  | some p =>
    let (u, v) := if (s.thread u).shadow then (p, u) else (u, p)
    let t := s.thread u
    let s := s.deliver u x
    if (s.thread v).gone then s
    else if x.cause = cUeConsumed || x.cause = cSdc then
      s.setThread { s.thread v with life := .halted, wait := none, trapMode := false }
    else if t.noHandler then s
    else s.trapIn v x
  | none => s.deliver u x

/-- An asynchronous cause as the trap it is, at the first instruction not executed (R125, R196, R375). -/
def Async.trap (a : Async) (pc : Word) : Trap := ⟨a.cause, true, pc, a.addr, a.info, a.barrow⟩

/-- A trap of the running thread is taken at its instruction; a DIE_LOST that has arrived is taken instead, and the precise trap is
discarded (R126). -/
def State.takePrecise (s : State) (x : Trap) : State :=
  match (if s.th.trapMode then none else s.th.async.find? fun a => a.cause = cDieLost) with
  | some a => ({ s with th := { s.th with async := s.th.async.erase a } }).takeTrap s.th.uid (a.trap s.th.pc)
  | none => s.takeTrap s.th.uid x

/-- A precise trap of the running thread at its instruction. -/
def State.raise (s : State) (cause : Nat) (addr info : Word) : Res :=
  .next (s.takePrecise ⟨cause, false, s.th.pc, addr, info, none⟩)

/-! ### Waiting (R245, R246) -/

/-- The running thread waits at its instruction; a wait of the same kind goes on. args: what the instruction read at issue (R173);
[] where it has not issued. -/
def State.waitWith (s : State) (k : WaitKind) (args : List Word) : State :=
  match s.th.wait with
  | some w => if w.kind = k then { s with th := { s.th with wait := some { w with args := if args = [] then w.args else args } } }
    else { s with th := { s.th with wait := some ⟨k, s.timeOf s.th, s.cycles, none, none, none, args, none⟩ } }
  | none => { s with th := { s.th with wait := some ⟨k, s.timeOf s.th, s.cycles, none, none, none, args, none⟩ } }

/-- A wait of an instruction that has not issued, or that reads no register. -/
def State.waitAt (s : State) (k : WaitKind) : State := s.waitWith k []

/-- Source i of the running instruction: as it was read at issue while the instruction waits, otherwise register r (R173). -/
def State.src (s : State) (i : Nat) (r : Reg) : Word := (s.th.wait.bind fun w => if w.kind = .pair then none else w.args[i]?).getD (s.sget r)

/-- The running thread waits in a wait of a kind already. -/
def State.inWait (s : State) (k : WaitKind) : Bool := s.th.wait.any fun w => w.kind = k

/-- The wait is over with a value, which the instruction takes once its earlier accesses are done (R246). -/
def State.waitDone (s : State) (k : WaitKind) (args : List Word) (v : Nat) : State :=
  let s := s.waitWith k args
  { s with th := { s.th with wait := s.th.wait.map fun w => { w with result := some v } } }

/-- The value recorded for the running wait of a kind. -/
def State.waitResult (s : State) (k : WaitKind) : Option Nat :=
  match s.th.wait with
  | some w => if w.kind = k then w.result else none
  | none => none

/-- A failed recheck or a found deadlock recorded for the running wait. -/
def State.waitFail (s : State) : Option Nat := s.th.wait.bind (·.fail)

/-! ### Page faults of a default context (R375, R379, R380) -/

def State.selfHandling (s : State) (t : Thread) : Bool :=
  match s.tasks.get? (s.block t.blk).task with
  | some k => k.record.selfh
  | none => false

/-- The wave as log records name it (R379). -/
def waveCode (t : Thread) : Nat := dieOf t.core * 2 ^ 12 + t.core % 128 * 2 ^ 5 + t.wslot % 32

/-- The 64 bytes of a fault record (R379). -/
def faultBytes (cause kind flags : Nat) (t : Thread) (va : Nat) (lns : List Nat) (elem : Nat) (pc : Word) (word dval : Nat) : List Byte :=
  leBytes 1 cause ++ leBytes 1 kind ++ leBytes 2 flags ++ leBytes 2 t.ctx ++ leBytes 2 (waveCode t) ++ leBytes 8 va ++
    leBytes 4 (tripleWord 0 lns.contains).toNat ++ leBytes 4 (tripleWord 1 lns.contains).toNat ++ leBytes 4 (tripleWord 2 lns.contains).toNat ++
    leBytes 4 elem ++ leBytes 8 pc.toNat ++ leBytes 4 word ++ leBytes 4 dval ++ leBytes 8 0 ++ leBytes 8 0

/-- The address of the context's next fault record. -/
def Ctx.faultAddr (c : Ctx) : Nat := c.faultRing + 64 * (c.faultNext % max c.faultSlots 1)

/-- A fault record joins its context's ring; the runtime writes it there and then launches the handler block (R379, R380). -/
def State.faultRecord (s : State) (t : Thread) (bytes : List Byte) (barrow : Option (Nat × Nat)) : State :=
  s.modCtx t.ctx fun c => { c with
    faults := c.faults ++ [⟨bytes, c.faultAddr, s.now, t.uid, barrow, bytes, [], [], false⟩], faultNext := c.faultNext + 1 }

/-- The running wave stalls at its instruction until the fault is resolved (R380); lns: the failing lanes of a vector
access. -/
def State.faultStall (s : State) (x : Trap) (kind : Nat) (vec : Bool) (lns : List Nat) : State :=
  let t := s.th
  let a := (s.ctx t.ctx).faultAddr
  let s := s.faultRecord t (faultBytes x.cause kind (if vec then 2 else 0) t x.addr.toNat lns 0 t.pc 0 0) none
  ({ s with th := { s.th with faultRec := some a } }).waitAt .fault

/-- A PAGE_FAULT, or an ACCESS_FAULT with code 13 (R375). -/
def isTranslation (cause : Nat) (info : Word) : Bool := cause = cPageFault || (cause = cAccessFault && decide (info.toNat % 256 = 13))

/-- A trap of the running thread's own access or fetch: a stall in a default context, otherwise the trap (R375). -/
def State.faulted (s : State) (x : Trap) (kind : Nat) (vec : Bool) (lns : List Nat) : Res :=
  if isTranslation x.cause x.info && !s.th.frailor && !s.th.trapMode && !s.selfHandling s.th then .next (s.faultStall x kind vec lns)
  else .next (s.takePrecise x)

/-- A flaw found by the checks of an access (R220, R371): the trap, or a wait until the entry can be read (R371). -/
def State.flawed (s : State) (k : AccessKind) (lane : Nat) (va : Nat) (f : Flaw) (vec : Bool) (lns : List Nat) : Res :=
  match f with
  | .stall => .next (s.waitAt .memory)
  | .trap cause code =>
    let info := if cause = cPageFault || cause = cAccessFault then faultInfo k lane code else 0
    s.faulted ⟨cause, false, s.th.pc, BitVec.ofNat 64 va, info, none⟩ k.code vec lns

/-! ### Deferred traps and trap points (R88, R191) -/

/-- The oldest of a list of pending traps. -/
def oldest : List Pending → Option Pending
  | [] => none
  | p :: ps => match oldest ps with
    | none => some p
    | some q => if p.seq ≤ q.seq then some p else some q

def Pending.isRace (p : Pending) : Bool := p.cause = 6 || p.cause = 7 || p.cause = 8

def Pending.trap (p : Pending) : Trap := ⟨p.cause, true, p.pc, p.addr, p.info, none⟩

/-- What a trap point leaves pending: the delivered trap goes, other covered races are discarded, other covered causes
are due when the handler returns. -/
def leftPending (covers : Pending → Bool) (p : Pending) (ps : List Pending) : List Pending :=
  (ps.filter fun q => q != p && !(covers q && q.isRace)).map fun q => if covers q then { q with due := true } else q

/-- DEFERRED_TRAP_DELIVERY: the oldest pending trap that a point covers is taken; otherwise the instruction goes on
as `k` says. A point in trap mode covers only what the handler left, and a point outside it only what the wave left (DESIGN CHOICE,
log 70). -/
def State.trapPoint (s : State) (covers : Pending → Bool) (k : State → Res) : Res :=
  let c := fun q => q.inTrap == s.th.trapMode && covers q
  match oldest (s.th.pending.filter c) with
  | some p => .next (({ s with th := { s.th with pending := leftPending c p s.th.pending } }).takeTrap s.th.uid p.trap)
  | none => k s

/-- After a handler returns: due deferred traps, oldest first, then a held asynchronous cause (R88, R126). -/
def State.takeDue (s : State) (u : Nat) : State :=
  let t := s.thread u
  match oldest (t.pending.filter fun q => q.due && !q.inTrap) with
  | some p => (s.setThread { t with pending := t.pending.filter (· != p) }).takeTrap u p.trap
  | none => match t.async with
    | a :: rest => (s.setThread { t with async := rest }).takeTrap u (a.trap t.pc)
    | [] => s

/-- Return from trap mode (R269, R387): the frozen state is live again at TEPC. -/
def Thread.leaveTrapMode (t : Thread) : Thread :=
  { t with
    trapMode := false, treg := [], tPoison := [], pc := t.tepc, trapBarrow := none
    wait := if t.tepc = t.trappc then t.frozenWait else none, frozenWait := none }

/-- A thread leaves trap mode, and an instruction it goes on waiting at is checked anew (R44, R246). -/
def State.leaveTrap (s : State) (u : Nat) : State := (s.modThread u Thread.leaveTrapMode).checkWait u

/-- Both waves of a dual pair have completed the same instructions (R397, R399). -/
def State.pairLevel (s : State) (t : Thread) : Bool := t.partner.all fun v => (s.thread v).icount = t.icount

/-- An asynchronous cause arrives at a thread. DIE_LOST is taken at once where the pair stands at one point, and ends the context of
a wave in trap mode (R126, R399); any other cause is held until it is delivered. A pair's causes are its leader's. -/
def State.postAsync (s : State) (u : Nat) (a : Async) : State :=
  let t := s.thread u
  if t.gone || t.shadow then s
  else if a.cause = cDieLost && t.trapMode && !t.frailor then s.terminate t.ctx cDieLost false
  else if a.cause = cDieLost && !t.trapMode && s.pairLevel t then s.takeTrap u (a.trap t.pc)
  else s.setThread { t with async := t.async ++ [a] }

/-! ### The counters (R189, R192) -/

/-- Outstanding instructions of a counter; in trap mode the handler's own set (R378). -/
def Thread.count (t : Thread) (c : Ctr) : Nat :=
  (t.out.filter fun a => a.ctr = c && (c = .mx || a.inTrap == t.trapMode)).length

def ctrLimit : Ctr → Nat
  | .mx => 64
  | _ => 63

/-- Counted instructions of a counter issued so far in the present mode (R191). -/
def Thread.issued (t : Thread) (c : Ctr) : Nat :=
  match c with
  | .ld => if t.trapMode then t.tLd else t.nLd
  | .st => if t.trapMode then t.tSt else t.nSt
  | _ => t.nMx

def Thread.bump (t : Thread) (c : Ctr) : Thread :=
  match c with
  | .ld => if t.trapMode then { t with tLd := t.tLd + 1 } else { t with nLd := t.nLd + 1 }
  | .st => if t.trapMode then { t with tSt := t.tSt + 1 } else { t with nSt := t.nSt + 1 }
  | .mx => { t with nMx := t.nMx + 1 }
  | .fence => t

def Place.pkg : Place → Option Nat
  | .remote d .. => some d
  | _ => none

/-- Packets to a package that issued accesses have still to send. -/
def State.toSend (s : State) (d : Nat) : Nat :=
  ((s.allThreads.flatMap (·.out)).flatMap fun a => a.parts.filter fun p => p.place.pkg = some d && p.phase = .idle).length

/-- The retry buffers hold what new parts will send (R342). -/
def State.sendRoom (s : State) (parts : List Part) : Bool :=
  ((parts.filterMap fun p => p.place.pkg).eraseDups).all fun d =>
    s.canSend d (s.toSend d + (parts.filter fun p => p.place.pkg = some d).length)

/-- Issue a counted access and go on (R189): it stalls while its counter is at its limit, or its packets find no room (R342). -/
def State.issue (s : State) (c : Ctr) (kind : AccKind) (p : Policy) (parts : List Part) (dest : List Nat) (tx : Bool) : Res :=
  if ctrLimit c ≤ s.th.count c || !s.sendRoom parts then .next (s.waitAt .counter)
  else
    let a : Access := ⟨s.th.seq, c, s.th.issued c, s.th.pc, kind, p, parts, dest, tx, s.th.trapMode, (s.ctx s.th.ctx).phase, s.countAt s.th.core⟩
    .next { s with th := { s.th.bump c with out := s.th.out ++ [a], emulated := none } }.adv

/-- Earlier work of the thread that counts in LD or ST, or a fence, is done: in trap mode the interrupted wave's too (R83). -/
def Thread.quiet (t : Thread) : Bool := t.out.all fun a => a.ctr = .mx

/-- The same of the thread's present mode alone: a handler's `rel` waits for the handler's accesses, which have counters and trap points of
their own (R126, R378; log 70). -/
def Thread.quietHere (t : Thread) : Bool := t.out.all fun a => a.ctr = .mx || a.inTrap != t.trapMode

/-- Every earlier load has returned (R83). -/
def Thread.loadsDone (t : Thread) : Bool := t.count .ld = 0

/-! ### The gate (R112, R118, R120, R239, R247, R267, R269, R386, R392, R397 to R399) -/

def wOp (w : W32) : Nat := w.toNat % 128
def wF (w : W32) : Nat := w.toNat / 2 ^ 28

/-- Majors a Frailor core executes (R386). -/
def frailorMay (op f : Nat) : Bool :=
  (decide (1 ≤ op) && decide (op ≤ 0x2E)) || (decide (0x30 ≤ op) && decide (op ≤ 0x3E)) || op = 0x5C || op = 0x5D ||
    (decide (0x60 ≤ op) && decide (op ≤ 0x63)) || op = 0x65 || op = 0x68 || op = 0x69 || op = 0x7D ||
    (op = 0x7C && (f = 0 || f = 2 || f = 3 || f = 4 || f = 5))

/-- Majors a wave executes in single-lane trap mode (R269); `txb` raises its own trap (R237). -/
def trapMay (op f : Nat) : Bool :=
  (decide (1 ≤ op) && decide (op ≤ 0x2E)) || (decide (0x30 ≤ op) && decide (op ≤ 0x3E)) || op = 0x5C || op = 0x5D ||
    (decide (0x60 ≤ op) && decide (op ≤ 0x63)) || (op = 0x64 && f = 0) || (op = 0x69 && f = 0) || (op = 0x7C && f = 5) || op = 0x7D

/-- The privileged operations that are not CSR accesses (R120). -/
def privOp (op f : Nat) : Bool := (op = 0x7D && decide (2 ≤ f) && decide (f ≤ 6)) || (op = 0x7C && f = 5)

/-- The instructions that abort an open transaction (R239). -/
def txDisallowed (op f : Nat) : Bool :=
  op = 0x5C || op = 0x5D || op = 0x5E || op = 0x60 || op = 0x61 || op = 0x62 || op = 0x63 || op = 0x65 ||
    (op = 0x64 && f = 0) || (decide (0x66 ≤ op) && decide (op ≤ 0x7C))

def Thread.privileged (t : Thread) : Bool := t.frailor || t.trapMode

/-- The CSR numbers that R122 and R123 assign. -/
def csrUserNums : List Nat :=
  [0x000, 0x001, 0x002, 0x003, 0x004, 0x005, 0x006, 0x008, 0x009, 0x00A, 0x00B, 0x00C, 0x00D, 0x010, 0x011, 0x012, 0x013, 0x014,
    0x018, 0x019, 0x01A, 0x01B, 0x01C, 0x020, 0x021, 0x030, 0x031]

def csrPrivNums : List Nat := [0x400, 0x410, 0x4E0, 0x4E1, 0x4E4, 0x4F0, 0x4F2, 0x4F8]

/-- The trap a CSR number raises for a thread (R118, R122, R123). -/
def Thread.csrCause (t : Thread) (n : Nat) : Option Nat :=
  if n < 0x400 then (if csrUserNums.contains n then none else some cIllegal)
  else if !t.privileged then some cPrivileged
  else if csrPrivNums.contains n then none else some cIllegal

/-- The cause of R118's and R120's checks, if one fails, for a word that is well-formed. -/
def State.gateCause (s : State) (w : W32) : Option Nat :=
  let t := s.th
  let op := wOp w
  let f := wF w
  if op = 0x3E then none
  else if t.frailor && !frailorMay op f then some cIllegal
  else if t.trapMode && !t.frailor && !trapMay op f then some cIllegal
  else if t.trapMode && (wordRegs w .s false).any (fun r => decide (32 ≤ r)) then some cIllegal
  else if op = 0x2D || op = 0x2E then t.csrCause (w.toNat / 2 ^ 21)
  else if privOp op f && !t.privileged then some cPrivileged
  else if op = 0x7D && f = 1 && !t.trapMode then some cIllegal
  else if op = 0x64 && f = 0 && t.trapMode then some cTxInTrap
  else none

/-- Whether a word's instruction reads element j of its vector sources: the element `vext` names, the active lanes of a reduction,
every lane otherwise (R198, R199). -/
def State.readsElem (s : State) (w : W32) (j : Nat) : Bool :=
  if wOp w = 0x4D && wF w = 2 then (s.sget (BitVec.ofNat 7 (w.toNat / 2 ^ 21 % 128))).toNat = j
  else if wOp w = 0x4E then s.active j
  else true

/-- The scalar registers an instruction reads, the activity mask of a masked form among them (R175, R199). -/
def sourceRegs (w : W32) : List Nat := wordRegs w .s true ++ if readsMask (wOp w) (wF w) then [125, 126, 127] else []

/-- A source register under an uncorrectable error (R391, R392). -/
def State.poisonedSource (s : State) (w : W32) : Bool :=
  if s.th.trapMode then (sourceRegs w).any s.th.tPoison.has
  else (sourceRegs w).any s.th.sPoison.has ||
    (wordRegs w .v true).any fun v => s.th.vPoison.any fun p => decide (p.1 / 96 = s.th.vbase + v) && s.readsElem w (p.1 % 96)

/-- Instructions each wave of a dual pair performs by itself: their results depend on the wave alone (R119, R398). -/
def pairPure (w : W32) : Bool :=
  let op := wOp w
  let n := w.toNat / 2 ^ 21
  (decide (1 ≤ op) && decide (op ≤ 0x2B)) || op = 0x2F || op = 0x3E || (decide (0x40 ≤ op) && decide (op ≤ 0x51)) ||
    (op = 0x7D && (wF w = 5 || wF w = 6)) ||
    (op = 0x2E && decide (n < 0x401)) ||
    (op = 0x2D && (decide (n ≤ 8) || n = 0xA || n = 0xD || (decide (0x18 ≤ n) && decide (n ≤ 0x21)) || n = 0x31 || n = 0x400))

/-- `lanerd` of an unprivileged CSR: as `csrr` of it, the leader performs it and its shadow takes the value (R270, R398). -/
def State.laneCsr (s : State) (w : W32) : Bool :=
  wOp w = 0x7D && wF w = 5 && (s.sget (BitVec.ofNat 7 (w.toNat / 2 ^ 14 % 128))).toNat / 2 ^ 12 % 4 = 2

/-- Lane j is active by the thread's mask registers (R33). -/
def Thread.laneOn (t : Thread) (j : Nat) : Bool := (t.sreg.getD (125 + j / 32) 0).getLsbD (j % 32)

/-- Two waves of a pair agree on every operand that a word sends outside the wave: its scalar sources, and of a form with lanes the
mask and the elements of the active lanes (R399). -/
def pairAgree (a b : Thread) (w : W32) : Bool :=
  let masked := readsMask (wOp w) (wF w)
  let sa (r : Nat) : Word := (if a.trapMode then a.treg else a.sreg).getD r 0
  let sb (r : Nat) : Word := (if b.trapMode then b.treg else b.sreg).getD r 0
  a.trapMode == b.trapMode &&
    (wordRegs w .s true).all (fun r => decide (sa r = sb r)) &&
    (!masked || [125, 126, 127].all fun r => decide (a.sreg.getD r 0 = b.sreg.getD r 0)) &&
    (wordRegs w .v true).all (fun v => lanes.all fun j =>
      (masked && !a.laneOn j) || decide (lane (a.vreadA (a.vbase + v)) j = lane (b.vreadA (b.vbase + v)) j))

/-- What the leader hands to its shadow after instruction n (R398): the destinations the word names. -/
def Thread.lvqEntry (t : Thread) (w : W32) (n : Nat) : LvqEntry :=
  let (kd, _, _) := kindsOf (wOp w) (wF w)
  let (d, _, _) := wordFields w
  let regs := if t.trapMode then t.treg else t.sreg
  ⟨n, (fieldRegs kd d .s).map fun r => (r, regs.getD r 0), (fieldRegs kd d .v).map fun v => (t.vbase + v, t.vreadA (t.vbase + v)), lanes⟩

/-- The shadow takes an entry and goes on: of a vector the performed lanes (R398). -/
def State.takeEntry (s : State) (e : LvqEntry) : State :=
  let s := e.scal.foldl (fun (s : State) (p : Nat × Word) => s.sset (BitVec.ofNat 7 p.1) p.2) s
  let s := { s with th := e.vec.foldl (fun (t : Thread) (p : Nat × VReg) => t.vwriteA p.1 e.performed.contains (lane p.2)) s.th }
  { s with th := { s.th with lvq := s.th.lvq.filter fun x => x.n != e.n } }.adv

/-- Another wave's source register lies under an uncorrectable error. -/
def State.partnerPoisoned (s : State) (p : Thread) (w : W32) : Bool := { s with th := p }.poisonedSource w

/-- The shadow stands at the leader's instruction and waits there with its word (R399). -/
def Thread.atWord (p : Thread) (n : Nat) : Bool := p.icount = n && p.wait.any fun x => x.kind = .pair

/-- What the pair compares where both waves stand at one instruction: a source under an error in either wave is UE_CONSUMED in both
(DESIGN CHOICE, log 77), a different word or operand SDC_DETECTED; none: they agree. -/
def State.pairCause (s : State) (p : Thread) (w : W32) : Option Nat :=
  if s.poisonedSource w || s.partnerPoisoned p w then some cUeConsumed
  else if !pairAgree s.th p w || !p.wait.any (fun x => x.args = [w.setWidth 64]) then some cSdc
  else none

/-- An instruction of a dual pair that reaches outside its wave: the leader waits for its shadow, the pair compares, the
leader performs it, and the shadow takes the result (R397 to R399). A shadow at a word that its leader has passed as one of its own has
gone another way. -/
def State.pairGate (s : State) (w : W32) (v : Nat) (k : State → Res) : Res :=
  let n := s.th.icount
  if s.th.shadow then
    match s.th.lvq.find? fun e => e.n = n with
    | some e => .next (s.takeEntry e)
    | none => if (s.thread v).trace.has n then s.raise cSdc 0 0 else .next (s.waitWith .pair [w.setWidth 64])
  else
    let p := s.thread v
    if !p.atWord n || decide (256 ≤ p.lvq.length) then .next (s.waitAt .pair)
    else match (if s.th.wait.any (fun x => x.kind ≠ .pair) then none else s.pairCause p w) with
      | some c => s.raise c 0 0
      | none =>
        let s := if s.th.wait.any (fun x => x.kind = .pair) then { s with th := { s.th with wait := none } } else s
        match k s with
        | .next s' =>
          if s'.th.icount = n + 1 && s'.th.out.all (fun a => a.seq ≠ s.th.seq || decide (a.ctr ≠ .ld)) && s'.th.trapMode == s.th.trapMode then
            .next (s'.modThread v fun t => { t with lvq := t.lvq ++ [s'.th.lvqEntry w n] })
          else .next s'
        | r => r

/-- A leader keeps the words it has performed that its shadow has not reached (R397). -/
def State.traced (s : State) (w : W32) (v : Nat) : State :=
  { s with th := { s.th with trace := Map.set (s.th.trace.filter fun x => decide ((s.thread v).icount ≤ x.1)) s.th.icount w } }

/-- An instruction has completed: the thread stands at the next one. -/
def Res.completes (r : Res) (n : Nat) : Bool := match r with
  | .next s => s.th.icount = n + 1
  | _ => false

/-- An instruction that each wave of a dual pair performs by itself: the leader runs ahead by at most 64, and the shadow compares
the word. The leader holds a trap until the shadow stands at the same instruction, where the pair compares; a trap of the shadow alone is
a difference, unless a register it reads lies under an error (R392, R397, R399). -/
def State.pairRun (s : State) (w : W32) (v : Nat) (k : State → Res) : Res :=
  let n := s.th.icount
  let p := s.thread v
  if s.th.shadow then
    if p.icount ≤ n then .next (s.waitWith .pair [w.setWidth 64])
    else if p.trace.get? n ≠ some w then s.raise cSdc 0 0
    else
      let r := k s
      if Res.completes r n || s.poisonedSource w then r else s.raise cSdc 0 0
  else if p.icount + 64 ≤ n then .next (s.waitAt .pair)
  else
    let r := k (s.traced w v)
    if Res.completes r n then r
    else if !p.atWord n then .next (s.waitAt .pair)
    else match s.pairCause p w with
      | some c => s.raise c 0 0
      | none => r

/-- The refill of spilled sources (R58), and the end of a transaction the instruction may not run in (R239). -/
def State.touched (s : State) (w : W32) : State :=
  let s := { s with th := s.th.touch ((wordRegs w .v true).map (s.th.vbase + ·)) }
  if txDisallowed (wOp w) (wF w) then { s with th := s.th.abortAll 6 } else s

/-- The checks of one thread before an instruction's own effect `k`. What a waiting instruction read at issue is not read again
(R173). -/
def State.checked (s : State) (w : W32) (k : State → Res) : Res :=
  match s.gateCause w with
  | some c => s.raise c 0 (if c = cTxInTrap then 0 else w.setWidth 64)
  | none =>
    if s.poisonedSource w && !s.th.wait.any (fun x => x.args ≠ [] && x.kind ≠ .pair) then s.raise cUeConsumed 0 0
    else k (s.touched w)

/-- Every instruction word passes this gate before its own effect `k`: the checks of R118, R120 and the trap modes,
poisoned sources, the refill of spilled sources, the transaction it may not run in, the comparison of a dual pair. -/
def State.guarded (s : State) (w : W32) (k : State → Res) : Res :=
  match s.th.partner with
  | none => s.checked w k
  | some v =>
    if pairPure w && !s.laneCsr w then s.pairRun w v fun s => s.checked w k
    else s.pairGate w v fun s => s.checked w k

/-! ### Forming accesses (R219, R220) -/

/-- The place 4 bytes on. -/
def Place.up : Place → Place
  | .mem pa r => .mem (pa + 4) r
  | .loc o => .loc (o + 4)
  | p => p

/-- The place is decided word by word: memory and the local store (R90). -/
def Place.byWord : Place → Bool
  | .mem .. => true
  | .loc _ => true
  | _ => false

/-- The parts of one lane's access: an 8-byte access that is no atomic is decided word by word (R90). -/
def mkParts (lane va : Nat) (pl : Place) (n x y : Nat) (split : Bool) : List Part :=
  if split && n = 8 && pl.byWord then [⟨lane, va, pl, 4, 0, x % 2 ^ 32, 0, .idle⟩, ⟨lane, va + 4, pl.up, 4, 4, x / 2 ^ 32, 0, .idle⟩]
  else [⟨lane, va, pl, n, 0, x, y, .idle⟩]

/-- Whether pgres EMULATED treats a lane of this access as performed (R381). -/
def State.emulates (s : State) (lane : Nat) : Bool :=
  match s.th.emulated with
  | some (ls, _) => ls.contains lane
  | none => false

/-- Addresses touch their home dies and Seedbank dies in TDMASK (R30). -/
def State.touchPlace (s : State) (ctx : Nat) : Place → State
  | .mem pa _ => s.touchDie ctx (homeDie pa)
  | .seed o => s.touchDie ctx (o / 2 ^ 26)
  | .host p _ => s.touchDie ctx p
  | _ => s

/-- The part of an access pgres EMULATED treats as performed (R381): a load finds DATA, a store and an atomic change nothing. -/
def State.emulatedPart (s : State) (k : AccessKind) (lane n : Nat) : List Part :=
  [⟨lane, 0, .seed (2 ^ 40 + 64 * lane), n, 0, 0, 0, if k = .load then .got (match s.th.emulated with
    | some (_, data) => data % 2 ^ (8 * n)
    | none => 0) else .done⟩]

/-- The scalar thread's access of n bytes at a generic pointer: checked, then handed on with its parts (R220). -/
def State.scalarAccess (s : State) (k : AccessKind) (e : Extra) (va : Word) (n x y : Nat) (k' : State → List Part → Res) : Res :=
  if s.emulates 127 then k' s (s.emulatedPart k 127 n)
  else match s.reachX [] s.th k e none va.toNat n with
    | (s, .error f) => s.flawed k 127 va.toNat f false []
    | (s, .ok pl) => k' s (mkParts 127 va.toNat pl n x y (k ≠ .atomic))

/-- The lanes of a vector access whose translation fails (R379). -/
def State.failingLanes (s : State) (k : AccessKind) (n : Nat) (las : List (Nat × Nat)) : List Nat :=
  (las.filter fun (p : Nat × Nat) => match (s.reach s.th k (some p.1) p.2 n).2 with
    | .error (.trap c code) => c = cPageFault || (c = cAccessFault && code = 13)
    | _ => false).map (·.1)

/-- The lanes' accesses of a vector instruction, all checked before any is performed (R220). `x` and `y` give each
lane's operands. -/
def State.vectorAccess (s : State) (k : AccessKind) (e : Extra) (n : Nat) (las : List (Nat × Nat)) (x y : Nat → Nat)
    (k' : State → List Part → Res) : Res :=
  let live := las.filter fun (p : Nat × Nat) => !s.emulates p.1
  match s.reachAll [] s.th k e n live with
  | (s', .error f) => s'.flawed k f.lane f.va f.flaw true (s.failingLanes k n live)
  | (s', .ok ps) => k' s' (las.flatMap fun (l : Nat × Nat) => if s.emulates l.1 then s.emulatedPart k l.1 n
      else (ps.filter fun p => p.1 = l.1).flatMap fun (p : Nat × Nat × Place) => mkParts p.1 p.2.1 p.2.2 n (x p.1) (y p.1) false)

end Sys2Proof.Machine
end

