-- ==== Sys2Proof/Machine/Perform.lean ====
section
/-! DEFINITION. How issued accesses are performed, part by part, and retired in order: enabling, transactions, the fabric's
sending side, delivery to the destination, deferred traps (R87 to R92, R96 to R100, R104, R173, R189, R190, R222 to R232,
R238, R318, R319, R331, R341 to R343, R348, R354, R369, R392). -/

namespace Sys2Proof.Machine

open Sys2Proof

/-! ### Which part may be performed (R71, R97, R98, R104) -/

def Phase.final : Phase → Bool
  | .nak .. => true
  | .refused => true
  | .poisoned => true
  | .done => true
  | _ => false

/-- A packet whose answer has not come. -/
def Phase.onWay : Phase → Bool
  | .sent .. => true
  | _ => false

def Access.finished (a : Access) : Bool := a.parts.all (·.phase.final)

def meet (a n b m : Nat) : Bool := decide (a / 4 ≤ (b + m - 1) / 4) && decide (b / 4 ≤ (a + n - 1) / 4)

/-- Two parts that meet in one word. -/
def Part.sameWord (p q : Part) : Bool :=
  match p.place, q.place with
  | .mem a _, .mem b _ => meet a p.n b q.n
  | .loc a, .loc b => meet a p.n b q.n
  | .seed a, .seed b => meet a p.n b q.n
  | .host i a, .host j b => i = j && meet a p.n b q.n
  | .remote i a _, .remote j b _ => i = j && meet a p.n b q.n
  | _, _ => false

/-- Two parts whose order program order fixes: the same word, or both in the block's local store (R71, R97). -/
def Part.together (p q : Part) : Bool :=
  match p.place, q.place with
  | .loc _, .loc _ => true
  | _, _ => p.sameWord q

def AccKind.isLoad : AccKind → Bool
  | .loadS .. => true
  | .loadV .. => true
  | _ => false

def AccKind.isStore : AccKind → Bool
  | .store _ => true
  | _ => false

def AccKind.isAtomic : AccKind → Bool
  | .atomS .. => true
  | .atomV .. => true
  | .sbRed _ => true
  | .sbUpd _ => true
  | _ => false

def AccKind.isSend : AccKind → Bool
  | .rred .. => true
  | _ => false

/-- A part of a store or atomic that goes to host memory, over CXL (R94, R414). -/
def Access.cxl (a : Access) (p : Part) : Bool := (a.kind.isStore || a.kind.isAtomic) && match p.place with
  | .host .. => true
  | _ => false

/-- Earlier accesses a fence waits for (R104). -/
def fenceBefore (kind : Nat) (k : AccKind) : Bool :=
  match kind with
  | 0 => k.isLoad || k.isStore || k.isAtomic
  | 1 => k.isStore || k.isAtomic
  | 2 => k.isLoad || k.isAtomic
  | _ => k.isStore || k.isAtomic

/-- Parts of later accesses that a fence holds back (R94, R104). -/
def fenceAfter (kind scope : Nat) (a : Access) (p : Part) : Bool :=
  match kind with
  | 0 => if scope = 3 then a.kind.isLoad || a.kind.isStore || a.kind.isAtomic || a.kind.isSend
    else (a.kind.isLoad || a.kind.isStore || a.kind.isAtomic) && !a.cxl p
  | 1 => (a.kind.isStore || a.kind.isAtomic) && !a.cxl p
  | 2 => a.kind.isLoad || a.kind.isAtomic
  | _ => a.kind.isSend || a.cxl p

/-- Part p goes to the package that part q's packet is on its way to: the flow delivers them in order (R345). -/
def Part.follows (p q : Part) : Bool := match q.phase, p.place with
  | .sent d _, .remote e .. => d = e
  | _, _ => false

/-- An earlier access b holds back part p of access a. -/
def holdsBack (a : Access) (p : Part) (b : Access) : Bool :=
  decide (b.seq < a.seq) && match b.kind with
  | .fence kind scope => fenceAfter kind scope a p
  | .accrd _ h _ _ _ => (match a.kind with
    | .accrd _ g _ _ _ => h % 32 = g % 32 && !b.finished
    | _ => false)
  | .command => false
  | .record => false
  | _ => (match a.kind with
    | .accrd .. => false
    | _ => true) && b.parts.any fun q => !q.phase.final && !p.follows q && q.together p

/-- The tile slot a command writes, if it writes one. -/
def LatOp.slot : LatOp → Option Nat
  | .mma h .. => some (h % 32)
  | .zero h => some (h % 32)
  | .write h .. => some (h % 32)
  | _ => none

/-- Commands of a tile not yet performed that were issued before stamp x, by any source of the block (R319). -/
def State.tileBusy (s : State) (core blk handle x : Nat) : Bool :=
  (s.core core).latq.any fun c => c.blk = blk && decide (c.uid < x) && c.op.slot = some (handle % 32)

/-- A part may be performed: the thread is not stopped with its context (R410), no earlier access holds it back, its tile is free of work
(R331), and its place answers. -/
def State.partEnabled (s : State) (t : Thread) (a : Access) (p : Part) : Bool :=
  !p.phase.final && decide (t.life ≠ .stopped) && t.out.all (fun b => !holdsBack a p b) &&
    (match a.kind with
      | .accrd _ h _ _ _ => !s.tileBusy t.core t.blk h p.x
      | .command => false
      | .fence .. => false
      | _ => true) &&
    (match p.place, p.phase with
      | .remote d .., .idle => s.canSend d 1
      | .remote .., .sent .. => false
      | pl, _ => s.placeReady t.core t.uid pl p.n)

/-! ### Windows and operation codes (R348, R349) -/

/-- The window of a context that holds a virtual address, with its operation code (R349). -/
def State.windowOf (s : State) (ctx va : Nat) : Option (Nat × Nat) :=
  ((s.ctx ctx).windows.find? fun (p : Nat × Nat × Nat × Nat × Nat) => decide (p.2.1 ≤ va) && decide (va < p.2.1 + p.2.2.1)).map
    fun (p : Nat × Nat × Nat × Nat × Nat) => (p.1, p.2.2.2.2)

/-- The operation codes of R348. -/
def rredCode : AtomOp → Nat → Nat
  | .add, 8 => 6
  | .add, _ => 0
  | .min, _ => 1
  | .max, _ => 2
  | .minu, _ => 3
  | .maxu, _ => 4
  | .fadd, _ => 5
  | .or, _ => 7
  | _, _ => 8

/-! ### Transactions (R238) -/

/-- Bytes of a word as a lane sees them: its buffered bytes over the word's. -/
def overlay (L : TxLane) (w : Nat) (v : W32) : W32 :=
  BitVec.ofNat 32 (leNat ((List.range 4).map fun i => L.writes.getD (4 * w + i) (BitVec.ofNat 8 (v.toNat / 2 ^ (8 * i)))))

def linesOf (ws : List Nat) : Nat := ((ws.map (· / 16)).eraseDups).length

/-- The capacity count of the open, unaborted lanes is within 64 and 32 lines. -/
def Tx.fits (t : Tx) : Bool :=
  let ls := t.lanes.vals.filter (·.aborted = 0)
  decide ((ls.map fun l => linesOf l.reads.keys).sum ≤ 64) && decide ((ls.map fun l => linesOf (l.writes.keys.map (· / 4))).sum ≤ 32)

/-- The lane is open and not aborted. -/
def Thread.txLane (t : Thread) (j : Nat) : Option TxLane :=
  if t.tx.isOpen then (t.tx.lanes.get? j).bind fun l => if l.aborted = 0 then some l else none else none

def Thread.setTxLane (t : Thread) (j : Nat) (l : TxLane) : Thread := { t with tx := { t.tx with lanes := t.tx.lanes.set j l } }

def subWord (v : W32) (off n : Nat) : Nat := v.toNat / 2 ^ (8 * off) % 2 ^ (8 * n)

/-- The address that names a place in a lane's sets: the physical address (R368). -/
def Place.pa : Place → Nat
  | .mem pa _ => pa
  | .host i a => (2 + i) * 2 ^ 45 + a
  | .remote g o _ => 2 ^ 51 + g * 2 ^ 38 + o
  | .loc o => o
  | .seed o => o

def Place.region : Place → Nat
  | .mem _ r => r
  | .remote _ _ r => r
  | _ => 0

/-! ### Copies of words of other packages (R83, R84, R91, R97, R100) -/

/-- The copy of a word of another package that the core's L1 holds: a load of any policy but llc hits it (R84, R100, R368). -/
def State.farCopy (s : State) (core : Nat) (pl : Place) (pol : Policy) : Option L1Word :=
  if pol = .llc then none else (s.l1 core (pl.pa / 4)).filter fun e => !e.bad

/-- An access of the core writes a word at its home in another package: the core's L1 holds it no longer, and no fill that is on its way
leaves it there (R91, R97). -/
def State.dropFar (s : State) (core : Nat) (pl : Place) : State :=
  (s.modCore core fun c => { c with l1 := c.l1.erase (pl.pa / 4) }).noFills core fun p => p.place.pa / 4 = pl.pa / 4

/-- An l1 load's word of another package becomes Valid in the L1, if the L1 does not hold it and no acquire or write has overtaken the fill
(R83, R84, R97, R100). -/
def State.fillFar (s : State) (core uid : Nat) (p : Part) (v : W32) : State :=
  if p.x = 1 || (s.l1 core (p.place.pa / 4)).isSome then s
  else s.l1Put core uid (p.place.pa / 4) ⟨false, v, 0, 0, p.place.region, false⟩

/-! ### What a lane's loads and stores do -/

/-- A lane has read word w with value v: the word enters its read set, at its first read (R238; DESIGN CHOICE, log 72), and it
receives n bytes at pa; also where that read exceeds the capacity and so aborts the lane (DESIGN CHOICE, log 72). -/
def State.txRead (s : State) (u j : Nat) (L : TxLane) (pa n : Nat) (v : W32) : State × Phase :=
  let w := pa / 4
  let t := (s.thread u).setTxLane j { L with reads := if L.reads.has w then L.reads else L.reads.set w v.toNat }
  (s.setThread (if t.tx.fits then t else (s.thread u).abortAll 2), .got (subWord (overlay L w v) (pa % 4) n))

/-- A transactional load of a lane at its package (R238): its own bytes, or an l1 load whose word enters the read set. A word that is
registered too narrowly aborts the lane with reason conflict. -/
def State.txLoad (s : State) (u j : Nat) (L : TxLane) (pl : Place) (n : Nat) : State × Phase :=
  let t := s.thread u
  let pa := pl.pa
  let w := pa / 4
  match pl with
  | .mem _ region =>
    let p := s.who t
    let held := match s.l1 p.core w with
      | some e => !e.registered
      | none => false
    if !held && (s.raceCheck p.owner w).isSome then (s.setThread (t.abortTx 1 (· = j)), .done)
    else match s.loadWord p u .l1 w region with
      | (s, .ok v) => s.txRead u j L pa n v
      | (s, _) => (s, .poisoned)
  | .host i a => (s.touchDie t.ctx i).txRead u j L pa n (BitVec.ofNat 32 (s.hostGet i (a / 4 * 4) 4))
  | _ => (s, .done)

/-- The reply to a transactional load from another package: the word, which is Valid in the L1 as an l1 load leaves it, or a refusal that
aborts the lane (R238). -/
def State.txReply (s : State) (u : Nat) (p : Part) (r : Reply) : State × Phase :=
  let t := s.thread u
  let s := match r with
    | .value v => s.fillFar t.core u p (BitVec.ofNat 32 v)
    | _ => s
  match t.txLane p.lane, r with
  | some L, .value v => s.txRead u p.lane L p.place.pa p.n (BitVec.ofNat 32 v)
  | some _, .race .. => (s.setThread (t.abortTx 1 (· = p.lane)), .done)
  | none, .value v => (s, .got (subWord (BitVec.ofNat 32 v) (p.place.pa % 4) p.n))
  | _, .race a b o => (s, .nak a b o)
  | _, .poison => (s, .poisoned)
  | _, _ => (s, .refused)

/-- A transactional store of a lane: buffered in its write set. -/
def State.txStore (s : State) (u : Nat) (a : Access) (p : Part) (L : TxLane) : State × Phase :=
  let pa := p.place.pa
  let L' := { L with
    writes := (List.range p.n).foldl (fun m i => m.set (pa + i) (BitVec.ofNat 8 (p.x / 2 ^ (8 * i)))) L.writes
    regions := L.regions.set (pa / 4) p.place.region
    stores := L.stores.set (pa / 4) (a.seq, a.k, a.pc, p.va) }
  let t' := (s.thread u).setTxLane p.lane L'
  (s.setThread (if t'.tx.fits then t' else (s.thread u).abortAll 2), .done)

/-- The bytes of a lane's load stand in its own write set. -/
def TxLane.holds (L : TxLane) (pa n : Nat) : Bool := (List.range n).all fun i => L.writes.has (pa + i)

/-- Global and private places, which transactions cover (R238). -/
def Place.isTx : Place → Bool
  | .mem .. => true
  | .host .. => true
  | .remote .. => true
  | _ => false

/-! ### One part performed -/

def resPhase : WordRes → Nat → Nat → Phase
  | .ok v, off, n => .got (subWord v off n)
  | .nak a b o, _, _ => .nak a b o
  | .bad, _, _ => .poisoned

def resStore : WordRes → Phase
  | .ok _ => .done
  | .nak a b o => .nak a b o
  | .bad => .poisoned

/-- An L1 hit that needs no read of the home. -/
def State.hitsL1 (s : State) (core w : Nat) (pol : Policy) : Bool := pol ≠ .llc && (s.l1 core w).isSome

/-- The home line an access reads is checked for errors (R391, R394, R395). -/
def State.checkLine (s : State) (core pa : Nat) (pol : Policy) : State :=
  if s.hitsL1 core (pa / 4) pol then s else s.readLine (pa / 4)

/-- A load's part outside a transaction (R84, R90, R100, R222). A word of another package is read whole, but for an llc load; l1 and st loads
of it use the L1 as R84 says of words of this package (DESIGN CHOICE, log 76). -/
def State.plainLoad (s : State) (u : Nat) (a : Access) (p : Part) : State × Phase :=
  let t := s.thread u
  match p.place with
  | .mem pa region =>
    let pol := if a.tx && (t.tx.lanes.get? p.lane).isSome then .l1 else a.policy
    match s.loadWord (s.who t) u pol (pa / 4) region with
    | (s, r) => (s, resPhase r (pa % 4) p.n)
  | .loc o =>
    let s := s.readLocal t.blk o p.n
    if (s.block t.blk).lsBad o p.n then (s, .poisoned) else (s, .got ((s.block t.blk).lsRead o p.n))
  | .seed o =>
    if s.seedBad o then (s, .poisoned) else (s.touchDie t.ctx (o / 2 ^ 26), .got (s.seedRead o p.n))
  | .host i h => (s.touchDie t.ctx i, .got (s.hostGet i h p.n))
  | .remote d o _ =>
    let pol := if a.tx then .l1 else a.policy
    match s.farCopy t.core p.place pol with
    | some e => (s, .got (subWord e.data (o % 4) p.n))
    | none =>
      let s := s.modCore t.core fun c => { c with l1 := if pol = .llc then c.l1 else c.l1.erase (p.place.pa / 4) }
      let ask := if (if a.tx then t.txLane p.lane else none).isSome then (o / 4 * 4, Req.eval false 4)
        else if pol = .llc || 4 < p.n then (o, .load p.n) else (o / 4 * 4, .load 4)
      match s.sendPacket d t.ctx (s.ownerOf t) a.pc ask.1 ask.2 none a.ph with
      | (s, q) => (s, .sent d q)

/-- A load's part: in a transaction, as R238 states. -/
def State.loadPart (s : State) (u : Nat) (a : Access) (p : Part) : State × Phase :=
  match (if a.tx && p.place.isTx then (s.thread u).txLane p.lane else none) with
  | some L =>
    if L.holds p.place.pa p.n then (s, .got (subWord (overlay L (p.place.pa / 4) 0) (p.place.pa % 4) p.n))
    else if p.place.pkg.isSome then match s.farCopy (s.thread u).core p.place .l1 with
      | some e => s.txRead u p.lane L p.place.pa p.n e.data
      | none => s.plainLoad u a p
    else s.txLoad u p.lane L p.place p.n
  | none => s.plainLoad u a p

/-- Parts of a vector store or atomic that meet in a part's word and are still to be performed: to another package they travel in one
packet (R92, R228). -/
def Access.mates (a : Access) (p : Part) : List Part := a.parts.filter fun q => q.phase = .idle && q.sameWord p

/-- Bytes of a word that the lanes of a store write, in ascending lane order. -/
def scatterBytes (ps : List Part) : List (Nat × Byte) :=
  ps.flatMap fun q => (List.range q.n).map fun i => (q.place.pa % 4 + i, BitVec.ofNat 8 (q.x / 2 ^ (8 * i)))

/-- A store's part outside a transaction (R78, R84, R222, R392). A word of another package is written at its home under every policy
(DESIGN CHOICE, log 76). -/
def State.plainStore (s : State) (u : Nat) (a : Access) (p : Part) : State × Phase :=
  let t := s.thread u
  match p.place with
  | .mem pa region =>
    match s.storeWord (s.who t) u a.policy (pa / 4) region (pa % 4) p.n p.x with
    | (s, r) => (s, resStore r)
  | .loc o =>
    let s := (s.coverLocal t.blk o p.n).readLocal t.blk o (if p.n < 4 then p.n else 0)
    if p.n < 4 && (s.block t.blk).lsBad o p.n then (s, .poisoned)
    else (s.modBlock t.blk fun b => b.lsWrite o p.n p.x, .done)
  | .seed o =>
    if p.n < 8 && s.seedBad o then (s, .poisoned) else ((s.seedWrite o p.n p.x).touchDie t.ctx (o / 2 ^ 26), .done)
  | .host i h => (s.hostSet t.ctx i h p.n p.x, .done)
  | .remote d o _ =>
    let ms := a.mates p
    let s := s.dropFar t.core p.place
    match (if ms.length ≤ 1 then s.sendPacket d t.ctx (s.ownerOf t) a.pc o (.store (leBytes p.n p.x)) none a.ph
      else s.sendPacket d t.ctx (s.ownerOf t) a.pc (o / 4 * 4) (.scatter (scatterBytes ms)) none a.ph) with
    | (s, q) => (s, .sent d q)

/-- A store's part: an open lane's is buffered, an aborted lane's is discarded (R238). -/
def State.storePart (s : State) (u : Nat) (a : Access) (p : Part) : State × Phase :=
  if a.tx && p.place.isTx && ((s.thread u).tx.lanes.get? p.lane).isSome then
    match (s.thread u).txLane p.lane with
    | some L => s.txStore u a p L
    | none => (s, .done)
  else s.plainStore u a p

/-- A read-modify-write part (R91, R230, R231, R340, R348); ret: the old value comes back. -/
def State.atomPart (s : State) (u : Nat) (a : Access) (p : Part) (op : AtomOp) (ret force : Bool) : State × Phase :=
  let t := s.thread u
  let f := fun w => atomNew op p.n w p.x p.y
  match p.place with
  | .mem pa _ =>
    match s.atomicHome (s.who t) force pa p.n f with
    | (s, .ok _, old) => (s, .got old)
    | (s, .nak x y o, _) => (s, .nak x y o)
    | (s, .bad, _) => (s, .poisoned)
  | .loc o =>
    let s := s.readLocal t.blk o p.n
    let b := s.block t.blk
    if b.lsBad o p.n then (s, .poisoned)
    else (s.modBlock t.blk fun b => b.lsWrite o p.n (f (b.lsRead o p.n)), .got (b.lsRead o p.n))
  | .seed o =>
    if s.seedBad o then (s, .poisoned)
    else ((s.seedWrite o p.n (f (s.seedRead o p.n))).touchDie t.ctx (o / 2 ^ 26), .got (s.seedRead o p.n))
  | .host i h =>
    let old := s.hostGet i h p.n
    (s.hostSet t.ctx i h p.n (f old), .got old)
  | .remote d o _ =>
    let s := s.dropFar t.core p.place
    let win := if force then (s.windowOf t.ctx p.va).bind fun (x : Nat × Nat) => if x.2 = rredCode op p.n then some x.1 else none else none
    let ms := a.mates p
    match (if ms.length ≤ 1 then s.sendPacket d t.ctx (s.ownerOf t) a.pc o (.atomic op p.n p.x p.y ret force) win a.ph
      else s.sendPacket d t.ctx (s.ownerOf t) a.pc o (.combined op (ms.map fun q => (q.x, q.y))) none a.ph) with
    | (s, q) => (s, if force then .done else .sent d q)

/-! ### Tiles as accrd reads them (R308, R316, R331) -/

def tileZero : W32 := 0

def poisonValue (int32 : Bool) : W32 := if int32 then 0x80000000 else 0x7FC00000

/-- The tile a handle names, unless the handle is stale. -/
def Block.tile (b : Block) (h : Nat) : Option Tile :=
  match b.tiles.get? (h % 32) with
  | some t => if t.used && t.gen = h / 2 ^ 8 % 256 then some t else none
  | none => none

def Tile.bands (t : Tile) : Nat := t.banks.length

def Tile.elem (t : Tile) (r c : Nat) : W32 := if t.poison then poisonValue t.int32 else t.elems.getD (64 * r + c) 0

def Block.setTile (b : Block) (slot : Nat) (t : Tile) : Block := { b with tiles := b.tiles.set slot t }

/-- One lane of accrd (R331): the value, and the tile's element cleared where it asks; stale: the handle was stale at issue. -/
def State.accrdPart (s : State) (u h band col : Nat) (clear : Bool) (j : Nat) (stale : Bool) : State × Phase :=
  let t := s.thread u
  let b := s.block t.blk
  let r := j % 32
  let c := col + j / 32
  match (if stale then none else b.tile h) with
  | none => (s.setThread { t with mstat := t.mstat ||| 1 }, .got 0)
  | some x =>
    if x.bands ≤ band then (s.setThread { t with mstat := t.mstat ||| 1 }, .got 0)
    else if 64 ≤ c then (s, .got 0)
    else if x.bad.has (64 * (32 * band + r) + c) then (s, .poisoned)
    else
      let v := x.elem (32 * band + r) c
      let s := if clear && !x.poison then
          s.modBlock t.blk fun b => b.setTile (h % 32) { x with elems := x.elems.erase (64 * (32 * band + r) + c) }
        else s
      (s, .got v.toNat)

/-- What an enabled part does: its new phase. A granted registration that is still held is written, one that has been revoked is
requested again (R97, R100); a value already read is kept. -/
def State.performNow (s : State) (u : Nat) (a : Access) (p : Part) : State × Phase :=
  let t := s.thread u
  match p.phase, p.place with
  | .granted, .mem pa _ =>
    if !s.holdsReg (s.who t) (pa / 4) then s.storePart u a { p with phase := .idle }
    else match s.writeReg (s.who t) (pa / 4) (pa % 4) p.n p.x with
      | (s, r) => (s, resStore r)
  | .got v, _ => (s, .got v)
  | _, _ =>
    match a.kind with
    | .loadS .. => s.loadPart u a p
    | .loadV .. => s.loadPart u a p
    | .store _ => s.storePart u a p
    | .atomS d op _ => s.atomPart u a p op d.isSome false
    | .atomV _ op => s.atomPart u a p op true false
    | .sbRed op => s.atomPart u a p op false false
    | .sbUpd op => s.atomPart u a p op false false
    | .rred op _ => s.atomPart u a p op false true
    | .record => s.loadPart u a { p with n := 8 }
    | .accrd _ h band col clear => s.accrdPart u h band col clear p.lane (p.y = 1)
    | .command => (s, p.phase)
    | .fence .. => (s, p.phase)

/-- The line an access reaches at its home is read first. An error found there may end the thread's context, and the access with it
(R394, R410). -/
def State.lineFirst (s : State) (u : Nat) (a : Access) (p : Part) : State := match p.place with
  | .mem pa _ =>
    let t := s.thread u
    if a.kind.isLoad || a.kind.isStore then s.checkLine t.core pa (if a.tx && (t.tx.lanes.get? p.lane).isSome then .l1 else a.policy)
    else s.readLine (pa / 4)
  | _ => s

/-- One part is performed: its new phase. -/
def State.performPart (s : State) (u : Nat) (a : Access) (p : Part) : State × Phase :=
  let s := s.lineFirst u a p
  if (s.thread u).life = .stopped then (s, p.phase) else s.performNow u a p

/-! ### Delivery (R173, R189, R198, R223 to R232) -/

/-- A load's value as its scalar destination receives it. -/
def extend (n : Nat) (sx : Bool) (v : Nat) : Word := if sx then BitVec.ofInt 64 (sextNat v (8 * n)) else BitVec.ofNat 64 v

/-- The scalar value of an access whose parts are all read. -/
def Access.value (a : Access) : Nat := (a.parts.map fun p => match p.phase with
  | .got v => v * 2 ^ (8 * p.off)
  | _ => 0).sum

def Access.allGot (a : Access) : Bool := a.parts.all fun p => match p.phase with
  | .got _ => true
  | _ => false

def Thread.writeScalar (t : Thread) (trap : Bool) (d : Nat) (v : Word) : Thread :=
  if d = 0 then t
  else if trap then { t with treg := t.treg.set d v }
  else { t with sreg := t.sreg.set d v, sPoison := t.sPoison.erase d }

/-- Parts that hold a value are delivered: a scalar destination when all parts have one, a vector destination lane by
lane. Delivered parts are done. -/
def Thread.deliverAccess (t : Thread) (a : Access) : Thread × Access :=
  let closed := { a with parts := a.parts.map fun p => match p.phase with
    | .got _ => { p with phase := .done }
    | _ => p }
  match a.kind with
  | .loadS d n sx =>
    if a.allGot then (if a.dest = [] then t else t.writeScalar a.inTrap d.toNat (extend n sx a.value), closed)
    else if a.parts.any (fun p => !p.phase.final && (match p.phase with
      | .got _ => false
      | _ => true)) then (t, a) else (t, closed)
  | .atomS (some d) _ n => if a.allGot then (if a.dest = [] then t else t.writeScalar a.inTrap d.toNat (extend n (n = 4) a.value), closed) else (t, closed)
  | .loadV v _ => (if a.dest = [] then t else deliverLanes t v a.parts, closed)
  | .atomV v _ => (if a.dest = [] then t else deliverLanes t v a.parts, closed)
  | .accrd v _ _ _ _ => (if a.dest = [] then t else deliverLanes t v a.parts, closed)
  | .record => (t, a)
  | _ => (t, closed)
where
  deliverLanes (t : Thread) (v : Nat) (ps : List Part) : Thread :=
    let vals : Map W32 := ps.foldl (fun m p => match p.phase with
      | .got x => m.set p.lane (BitVec.ofNat 32 x)
      | _ => m) []
    if vals = [] then t else
    let old := t.vreadA v
    { t with
      vreg := t.vreg.set v (lanes.map fun j => vals.getD j (lane old j))
      vPoison := t.vPoison.filter fun p => !(decide (p.1 / 96 = v) && vals.has (p.1 % 96)) }

/-! ### Deferred traps of a finished access (R88, R369, R392) -/

/-- The lowest part with a property. -/
def lowestPart (ps : List Part) (f : Part → Bool) : Option Part := ps.foldl (fun best p =>
  if f p then (match best with
    | none => some p
    | some b => if p.lane < b.lane then some p else some b) else best) none

def raceCause : AccKind → Nat
  | .store _ => 7
  | .loadS .. => 6
  | .loadV .. => 6
  | _ => 8

/-- A part whose access was refused as a race (R88). -/
def Part.nak (p : Part) : Bool := match p.phase with
  | .nak .. => true
  | _ => false

/-- The pending traps an access leaves when every part is decided: a race, a consumed error, a remote refusal. -/
def Access.traps (a : Access) : List Pending :=
  let mk (cause : Nat) (p : Part) (info : Word) : Pending :=
    ⟨a.seq, a.ctr, a.k, cause, a.pc, BitVec.ofNat 64 (p.va - p.off), info, none, false, a.inTrap⟩
  let race := match lowestPart a.parts Part.nak with
    | some p => match p.phase with
      | .nak need found o => [mk (raceCause a.kind) p (BitVec.ofNat 64 (p.lane % 128 + need * 2 ^ 8 + found * 2 ^ 11 + o.toNat * 2 ^ 32))]
      | _ => []
    | none => []
  let ue := match lowestPart a.parts fun p => p.phase = .poisoned with
    | some p => [mk cUeConsumed p 0]
    | none => []
  let kind := if a.kind.isStore then AccessKind.store else if a.kind.isLoad then AccessKind.load else AccessKind.atomic
  let ref := match lowestPart a.parts fun p => p.phase = .refused with
    | some p => [mk cAccessFault p (faultInfo kind p.lane 18)]
    | none => []
  race ++ ue ++ ref

/-! ### Retirement in order (R190, R235) -/

/-- Whether an access at the head of what is left is over. -/
def retires (earlier : List Access) (a : Access) : Bool :=
  match a.kind with
  | .fence kind _ => earlier.all fun b => b.finished || !(fenceBefore kind b.kind)
  | .record => false
  | _ => a.finished && earlier.all fun b => b.ctr ≠ a.ctr || b.inTrap != a.inTrap

/-- The accesses that stay outstanding. -/
def stillOut : List Access → List Access → List Access
  | kept, [] => kept
  | kept, a :: rest => if retires kept a then stillOut kept rest else stillOut (kept ++ [a]) rest

/-- The entries a dual pair's leader hands over as its loads retire (R398). -/
def retiredLoads (before after : List Access) : List Access := before.filter fun a => a.ctr = .ld && !after.any (fun b => b.seq = a.seq && b.ctr = .ld)

def lvqOf (t : Thread) (a : Access) : LvqEntry :=
  let regs := if a.inTrap then t.treg else t.sreg
  let done := (a.parts.filter fun p => p.phase = .done).map (·.lane)
  let sc (d : Reg) : LvqEntry := ⟨a.seq, if a.dest = [] || done.length < a.parts.length then [] else [(d.toNat, regs.getD d.toNat 0)], [], done⟩
  let ve (v : Nat) : LvqEntry := ⟨a.seq, [], if a.dest = [] then [] else [(v, t.vreadA v)], done⟩
  match a.kind with
  | .loadS d _ _ => sc d
  | .atomS (some d) _ _ => sc d
  | .loadV v _ => ve v
  | .atomV v _ => ve v
  | .accrd v _ _ _ _ => ve v
  | _ => ⟨a.seq, [], [], done⟩

/-- Retire what is complete; a pair's shadow receives the loads' results. -/
def State.retire (s : State) (u : Nat) : State :=
  let t := s.thread u
  let out := stillOut [] t.out
  let gone := retiredLoads t.out out
  let s := s.setThread { t with out := out }
  match t.partner with
  | some v => if t.shadow || gone = [] then s else s.modThread v fun x => { x with lvq := x.lvq ++ gone.map (lvqOf t) }
  | none => s

/-- Put an access back with new parts, deliver its values, and note its deferred traps once it is finished. -/
def State.settle (s : State) (u : Nat) (a : Access) : State :=
  let t := s.thread u
  let was := (t.out.find? fun b => b.seq = a.seq && b.ctr = a.ctr).any (·.finished)
  let cur := match t.out.find? fun b => b.seq = a.seq && b.ctr = a.ctr with
    | some b => { a with dest := b.dest }
    | none => a
  let (t, a) := t.deliverAccess cur
  let pend := if a.finished && !was then t.pending ++ a.traps else t.pending
  (s.setThread { t with out := t.out.map fun b => if b.seq = a.seq && b.ctr = a.ctr then a else b, pending := pend }).retire u

/-- A part that stands before another of a vector store or atomic, and has already spoken for it in this turn: both were idle and meet in
one word, and the packet it went with, or the refusal it met, is the other's too (R92, R228). -/
def Access.spokenFor (a : Access) (before : List Part) (p : Part) : Option Phase :=
  if p.phase ≠ .idle || a.kind.isLoad then none
  else (before.find? fun q => q.sameWord p && (q.phase.onWay || q.nak) && (a.mates p).any (fun m => m.lane = q.lane && m.off = q.off)).map (·.phase)

/-- A part is performed when it is chosen and enabled; before: the parts of the access that stand before it. A lane's other word, once
refused, leaves this one to that refusal (R88). -/
def State.tryPart (s : State) (u : Nat) (a : Access) (sel before : List Part) (p : Part) : State × Part :=
  if p.phase = .idle && before.any (fun q => q.lane = p.lane && q.nak) then (s, p)
  else if sel.any (fun x => x.lane = p.lane && x.off = p.off) then
    match a.spokenFor before p with
    | some ph => (s, { p with phase := ph })
    | none => if s.partEnabled (s.thread u) a p then match s.performPart u a p with
        | (s, ph) => (s, { p with phase := ph })
      else (s, p)
  else (s, p)

/-- A racing access is refused once (R88): a word of a lane that is not yet performed shares the refusal of the lane's other word. -/
def shareNaks (ps : List Part) : List Part := ps.map fun p =>
  if p.phase = .idle then match ps.find? fun q => q.lane = p.lane && q.nak with
    | some q => { p with phase := q.phase }
    | none => p
  else p

/-- Perform the chosen parts of an access, in the order they stand (ascending lanes: R92, R228); before: the parts before. -/
def State.performParts (s : State) (u : Nat) (a : Access) (sel : List Part) : List Part → List Part → State × List Part
  | before, [] => (s, shareNaks before)
  | before, p :: rest =>
    let q := s.tryPart u a sel before p
    q.1.performParts u a sel (before ++ [q.2]) rest

/-- Whether a code of an event names a part: lane j, or (128 and more) one word of an 8-byte access of lane j. -/
def Part.named (p : Part) (c : Nat) : Bool := if c < 128 then p.lane = c else p.lane = c % 128 && p.off = 4 * (c / 128 - 1)

/-- The parts an event names, with every other part of the access on the same word (R92, R228); [] names all. -/
def Access.selected (a : Access) (codes : List Nat) : List Part :=
  let sel := if codes = [] then a.parts else a.parts.filter fun p => codes.any p.named
  a.parts.filter fun p => sel.any fun q => (q.lane = p.lane && q.off = p.off) || q.sameWord p

/-- An outstanding access of a thread by program-order number and counter. -/
def Thread.access (t : Thread) (seq : Nat) (c : Ctr) : Option Access := t.out.find? fun a => a.seq = seq && a.ctr = c

/-- LOAD_COMPLETION and STORE_COMPLETION: enabled parts of an outstanding access are performed and delivered. -/
def State.complete (s : State) (u seq : Nat) (c : Ctr) (lns : List Nat) : State :=
  match (s.thread u).access seq c with
  | none => s
  | some a =>
    let r := s.performParts u a (a.selected lns) [] a.parts
    r.1.settle u { a with parts := r.2 }

/-- Perform everything a thread has outstanding in LD and ST, in program order (R193). -/
def State.drain (s : State) (u : Nat) : State :=
  (s.thread u).out.foldl (fun s a => match a.ctr with
    | .ld => s.complete u a.seq .ld []
    | .st => s.complete u a.seq .st []
    | _ => s) s

/-- A reply reaches the part that was sent (R343, R369); ret: it brings a value back; st: it answers a store. A poisoned word
that a no-return atomic met is recorded instead (R392). -/
def replyPhase : Reply → Bool → Bool → Phase
  | .performed, _, _ => .done
  | .value v, _, _ => .got v
  | .values vs, _, _ => .got (vs.headD 0)
  | .refused, ret, _ => if ret then .refused else .done
  | .race a b o, _, _ => .nak a b o
  | .poison, ret, st => if ret || st then .poisoned else .done

/-- A reply reaches a Barrow command that asked for a source element, or (off 1) sent bytes. -/
def BarCmd.answer (c : BarCmd) (dst q : Nat) (r : Reply) : BarCmd :=
  { c with ask := c.ask.map fun p => if p.phase = .sent dst q then { p with phase := replyPhase r (p.off = 0) (p.off = 1) } else p }

/-- A reply reaches a gang member that asked for a word of its launch record (R363). -/
def Prep.answer (m : Prep) (dst q : Nat) (r : Reply) : Prep :=
  { m with words := m.words.map fun x => if x.2 = .sent dst q then (x.1, replyPhase r true false) else x }

/-- A reply reaches a walk that asked for a table entry: any answer but a value is asked for again (R371). -/
def answerAsks (l : List (Nat × Nat × Phase)) (dst q : Nat) (r : Reply) : List (Nat × Nat × Phase) := l.filterMap fun x =>
  if x.2.2 = .sent dst q then (match r with
    | .value v => some (x.1, x.2.1, .got v)
    | _ => none) else some x

/-- A reply reaches what the runtime asked for, or sent, on behalf of a fault record (R379). -/
def FaultRec.answer (x : FaultRec) (dst q : Nat) (r : Reply) : FaultRec :=
  { x with
    words := x.words.map fun y => if y.2 = .sent dst q then (y.1, replyPhase r true false) else y
    acks := x.acks.filter (· ≠ (dst, q)) }

/-- A reply reaches a collective: a word of its send buffer, or the acknowledgement of a write (R359). -/
def Coll.answer (c : Coll) (dst q : Nat) (r : Reply) : Coll :=
  { c with
    words := c.words.map fun x => if x.2 = .sent dst q then (x.1, replyPhase r true false) else x
    acks := c.acks.filter (· ≠ (dst, q)) }

/-- A load's reply: an llc load's own bytes; of any other policy the word, which `l1` leaves Valid in the L1 (R84). -/
def State.loadReply (s : State) (u : Nat) (a : Access) (p : Part) (r : Reply) : State × Phase :=
  match r with
  | .value v =>
    if a.policy = .llc || 4 < p.n then (s, .got v)
    else
      let s := if a.policy = .l1 then s.fillFar (s.thread u).core u p (BitVec.ofNat 32 v) else s
      (s, .got (subWord (BitVec.ofNat 32 v) (p.place.pa % 4) p.n))
  | r => (s, replyPhase r true false)

/-- The parts of an access that a packet carried take its reply: the old values of a combined atomic go to its lanes in order
(R92), a transactional load enters its lane's read set (R238). -/
def State.replyParts (s : State) (u : Nat) (a : Access) (dst q : Nat) (r : Reply) : Nat → List Part → State × List Part
  | _, [] => (s, [])
  | k, p :: rest =>
    if p.phase = .sent dst q then
      let one := if a.tx && a.kind.isLoad then s.txReply u p r
        else if a.kind.isLoad then s.loadReply u a p r
        else (s, match r with
          | .values vs => .got (vs.getD k 0)
          | r => replyPhase r (a.kind.isLoad || a.ctr = .ld || a.kind = .record) a.kind.isStore)
      let r := one.1.replyParts u a dst q r (k + 1) rest
      (r.1, { p with phase := one.2 } :: r.2)
    else
      let r := s.replyParts u a dst q r k rest
      (r.1, p :: r.2)

/-- The acknowledgement of packet seq of the flow to dst settles what waits for it. -/
def State.replyTo (s : State) (dst q : Nat) (r : Reply) : State :=
  let s : State := { s with
    preps := s.preps.map fun (p : Nat × Prep) => (p.1, p.2.answer dst q r)
    asks := answerAsks s.asks dst q r
    colls := s.colls.map fun c => c.answer dst q r
    ctxs := s.ctxs.map fun (p : Nat × Ctx) => (p.1, { p.2 with faults := p.2.faults.map fun x => x.answer dst q r })
    cores := s.cores.map fun (p : Nat × Core) => (p.1, { p.2 with
      barrow := p.2.barrow.map (·.answer dst q r)
      fetching := p.2.fetching.map fun l => { l with parts := l.parts.map fun x => if x.phase = .sent dst q then { x with phase := replyPhase r true false } else x } }) }
  s.allThreads.foldl (fun (s : State) (t : Thread) => match t.out.find? fun a => a.parts.any fun p => p.phase = .sent dst q with
    | some a => match s.replyParts t.uid a dst q r 0 a.parts with
      | (s, ps) =>
        let a' := { a with parts := ps }
        if a.kind = .record then s.modThread t.uid fun t => { t with out := t.out.map fun b => if b.seq = a.seq && b.kind = .record && b.parts = a.parts then a' else b }
        else s.settle t.uid a'
    | none => s) s

/-! ### Records read by uncounted instructions (R257, R369, R392) -/

/-- What a record read found. -/
inductive RecordRes where
  | bytes (b : List Byte)
  | stop (r : Trap) (kind : Nat)
  | wait
  deriving DecidableEq, Repr

/-- A read an instruction makes at issue comes after its thread's earlier accesses to the same words, after every earlier
local-store access where it reads local store, and after earlier fences (R71, R97, R104). -/
def Thread.readsNow (t : Thread) (va n : Nat) (pl : Place) : Bool :=
  let p : Part := ⟨127, va, pl, n, 0, 0, 0, .idle⟩
  let a : Access := ⟨t.seq, .ld, 0, t.pc, .loadS 0 n false, .llc, [p], [], false, t.trapMode, false, 0⟩
  t.out.all fun b => !holdsBack a p b

/-- A remote page of a record: the packet's reply stands in an access of kind record, by address (R369). -/
def State.recordReply (s : State) (va : Nat) : Option Phase :=
  (s.th.out.find? fun a => a.kind = .record && a.seq = s.th.seq && a.parts.any (fun p => p.va = va && p.n = 8)).bind fun a =>
    (a.parts.find? fun p => p.va = va).map (·.phase)

/-- A trap of a record read at an address. -/
def State.recordStop (s : State) (va cause : Nat) (info : Word) : RecordRes := .stop ⟨cause, false, s.th.pc, BitVec.ofNat 64 va, info, none⟩ 6

/-- A race that a record read meets. -/
def State.recordRace (s : State) (va need found : Nat) (o : BitVec 32) : RecordRes :=
  s.recordStop va 6 (BitVec.ofNat 64 (127 + need * 2 ^ 8 + found * 2 ^ 11 + o.toNat * 2 ^ 32))

/-- What the reply to a record read from another package comes to (R369, R373): it was made under the translation it held. -/
def State.recordAnswer (s : State) (va : Nat) : Phase → RecordRes
  | .got v => .bytes (leBytes 8 v)
  | .refused => s.recordStop va 5 (faultInfo .record 127 18)
  | .nak need found o => s.recordRace va need found o
  | .poisoned => s.recordStop va cUeConsumed 0
  | _ => .wait

/-- Read 8 bytes of a record as an llc load of the running thread (R257, R278). -/
def State.recordWord (s : State) (va : Nat) : State × RecordRes :=
  match s.recordReply va with
  | some ph => (s, s.recordAnswer va ph)
  | none => match s.reach s.th .record none va 8 with
  | (s, .error .stall) => (s, .wait)
  | (s, .error (.trap c code)) => (s, s.recordStop va c (if c = 4 || c = 5 then faultInfo .record 127 code else 0))
  | (s, .ok pl) => if !s.th.readsNow va 8 pl || !s.placeReady s.th.core s.th.uid pl 8 then (s, .wait) else match pl with
    | .mem pa _ =>
      let s := s.readLine (pa / 4)
      if s.th.life = .stopped then (s, .wait)
      else match s.loadHome (s.who s.th) (pa / 4) with
      | (s, .ok lo) => match s.loadHome (s.who s.th) (pa / 4 + 1) with
        | (s, .ok hi) => (s, .bytes (leBytes 4 lo.toNat ++ leBytes 4 hi.toNat))
        | (s, .nak need found o) => (s, s.recordRace va need found o)
        | (s, .bad) => (s, s.recordStop va cUeConsumed 0)
      | (s, .nak need found o) => (s, s.recordRace va need found o)
      | (s, .bad) => (s, s.recordStop va cUeConsumed 0)
    | .loc o =>
      let s := s.readLocal s.th.blk o 8
      if s.blk.lsBad o 8 then (s, s.recordStop va cUeConsumed 0) else (s, .bytes (s.blk.lsSlice o 8))
    | .seed o => if s.seedBad o then (s, s.recordStop va cUeConsumed 0) else (s.touchDie s.th.ctx (o / 2 ^ 26), .bytes (leBytes 8 (s.seedRead o 8)))
    | .host i a => (s.touchDie s.th.ctx i, .bytes (s.hostBytes i a 8))
    | .remote pkg o _ =>
      if !s.canSend pkg 1 then (s, .wait) else
      let ph := (s.ctx s.th.ctx).phase
      match s.sendPacket pkg s.th.ctx (s.ownerOf s.th) s.th.pc o (.load 8) none ph with
      | (s, q) =>
        let a : Access := ⟨s.th.seq, .fence, 0, s.th.pc, .record, .llc, [⟨127, va, pl, 8, 0, 0, 0, .sent pkg q⟩], [], false, s.th.trapMode, ph, s.countAt s.th.core⟩
        ({ s with th := { s.th with out := s.th.out ++ [a] } }, .wait)

/-- Read `n` 8-byte pieces of a record in order. -/
def State.recordWords (s : State) (va : Nat) : Nat → State × RecordRes
  | 0 => (s, .bytes [])
  | n + 1 => match s.recordWord va with
    | (s, .bytes b) => match s.recordWords (va + 8) n with
      | (s, .bytes c) => (s, .bytes (b ++ c))
      | r => r
    | r => r

/-- The record accesses of the running instruction are over. -/
def State.dropRecords (s : State) : State := { s with th := { s.th with out := s.th.out.filter fun a => a.kind ≠ .record } }

/-- Read a record and go on with its bytes (R257); args: what the instruction read at issue (R173). -/
def State.withRecord (s : State) (va n : Nat) (args : List Word) (k : State → List Byte → Res) : Res :=
  match s.recordWords va n with
  | (s, .bytes b) => k s b
  | (s, .stop x kind) => s.dropRecords.faulted x kind false []
  | (s, .wait) => .next (s.waitWith .memory args)

/-! ### What the service runtime reads in a context (R363, R379, R380) -/

/-- What a read of the runtime comes to. -/
inductive MemberRead where
  | bytes (b : List Byte)
  /-- A fault, a refusal by an export window, a race or a poisoned word. -/
  | bad
  /-- A word on a page of another package that has not been asked for. -/
  | ask (va pkg off : Nat)
  | wait
  deriving DecidableEq, Repr

/-- The agent that reads: a thread of the service runtime (log 52). -/
def State.memberWho (s : State) (ctx : Nat) : Who := ⟨mkOwner 2 s.pkg 0 0 0, 512, ctx⟩

/-- 8 bytes read as an llc load; got: the words of other packages' pages asked for so far. -/
def State.memberWord (s : State) (ctx va : Nat) (got : List (Nat × Phase)) : State × MemberRead :=
  match got.lookup va with
  | some (.got v) => (s, .bytes (leBytes 8 v))
  | some (.sent ..) => (s, .wait)
  | some _ => (s, .bad)
  | none =>
    if va / 2 ^ 56 ≠ 0 then (s, .bad)
    else match s.translate 512 ctx va .record with
      | (s, .error .stall) => (s, .wait)
      | (s, .error _) => (s, .bad)
      | (s, .ok x) =>
        let pl := placeOf (x.addr va) x.region
        if !s.placeReady runtime runtime pl 8 then (s, .wait) else match pl with
        | .mem pa _ => match (s.readLine (pa / 4)).loadHome (s.memberWho ctx) (pa / 4) with
          | (s, .ok lo) => match s.loadHome (s.memberWho ctx) (pa / 4 + 1) with
            | (s, .ok hi) => (s, .bytes (leBytes 4 lo.toNat ++ leBytes 4 hi.toNat))
            | (s, _) => (s, .bad)
          | (s, _) => (s, .bad)
        | .host i a => (s.touchDie ctx i, .bytes (s.hostBytes i a 8))
        | .remote pkg o _ => (s, .ask va pkg o)
        | _ => (s, .bad)

/-- n words of 8 bytes. -/
def State.memberRead (s : State) (ctx va : Nat) (got : List (Nat × Phase)) : Nat → State × MemberRead
  | 0 => (s, .bytes [])
  | n + 1 => match s.memberWord ctx va got with
    | (s, .bytes a) => match s.memberRead ctx (va + 8) got n with
      | (s, .bytes b) => (s, .bytes (a ++ b))
      | r => r
    | r => r

/-- A word on a page of another package is asked for (R369); none: its packet finds no room yet. -/
def State.memberAsk (s : State) (ctx pkg o : Nat) : Option (State × Phase) :=
  if !s.canSend pkg 1 then none
  else match s.sendPacket pkg ctx (s.memberWho ctx).owner 0 o (.load 8) none (s.ctx ctx).phase with
  | (s, q) => some (s, .sent pkg q)

/-- Change the fault record at an address of a context. -/
def State.modFault (s : State) (ctx addr : Nat) (f : FaultRec → FaultRec) : State :=
  s.modCtx ctx fun c => { c with faults := c.faults.map fun r => if r.addr = addr then f r else r }

/-- The runtime reads n words on behalf of a fault record; where it must wait, what it has to ask of another package is asked. -/
def State.faultRead (s : State) (ctx va n : Nat) (r : FaultRec) : State × MemberRead :=
  match s.memberRead ctx va r.words n with
  | (s, .ask va pkg o) => match s.memberAsk ctx pkg o with
    | some (s, ph) => (s.modFault ctx r.addr fun r => { r with words := (va, ph) :: r.words }, .wait)
    | none => (s, .wait)
  | x => x

end Sys2Proof.Machine
end

