-- ==== Sys2Proof/Machine/Fabric.lean ====
section
/-! DEFINITION. The Mladestuz fabric: packets at their home, acknowledgement and replay, failed elements and routes, merging in
switches, reduction windows and quiescence (R342 to R355, R365, R369). -/

namespace Sys2Proof.Machine

open Sys2Proof

/-! ### A packet performed at its home (R345, R348, R369) -/

/-- The core number under which a requester of another package appears: it has no L1 here. -/
def farCore : Nat := 2 ^ 20

/-- The local physical address of an export-window offset; none: the access is refused (R369). -/
def State.exportAddr (s : State) (off n : Nat) : Option Nat :=
  let pa := s.fxBase * 2 ^ 38 + off
  if s.fxEn && decide (pa / 2 ^ 45 < 64) && s.spaceOk pa n then some pa else none

/-- Read n bytes at the home for a requester (R84, R90). -/
def State.farLoad (s : State) (p : Who) (pa n : Nat) : State × Reply :=
  match placeOf pa 0 with
  | .mem pa _ =>
    let s := s.readLine (pa / 4)
    match s.loadHome p (pa / 4) with
    | (s, .nak need found o) => (s, .race need found o)
    | (s, .bad) => (s, .poison)
    | (s, .ok lo) =>
      if n = 8 then
        match s.loadHome p (pa / 4 + 1) with
        | (s, .nak need found o) => (s, .race need found o)
        | (s, .bad) => (s, .poison)
        | (s, .ok hi) => (s, .value (lo.toNat + 2 ^ 32 * hi.toNat))
      else (s, .value (subWord lo (pa % 4) n))
  | .host i a => (s.touchDie p.ctx i, .value (s.hostGet i a n))
  | _ => (s, .refused)

def wordReply : WordRes → Reply
  | .ok _ => .performed
  | .nak need found o => .race need found o
  | .bad => .poison

/-- Write the bytes of a store at the home (R78, R90). A store of policy l1 or st arrives as one of llc does and registers nothing
(DESIGN CHOICE, log 76). -/
def State.farStore (s : State) (p : Who) (pa : Nat) (bs : List Byte) : State × Reply :=
  let n := bs.length
  let x := leNat bs
  match placeOf pa 0 with
  | .mem pa _ =>
    let s := s.readLine (pa / 4)
    if n = 8 then
      match s.storeWord p 0 .llc (pa / 4) 0 0 4 x with
      | (s, .ok _) => match s.storeWord p 0 .llc (pa / 4 + 1) 0 0 4 (x / 2 ^ 32) with
        | (s, r) => (s, wordReply r)
      | (s, r) => ((s.storeWord p 0 .llc (pa / 4 + 1) 0 0 4 (x / 2 ^ 32)).1, wordReply r)
    else match s.storeWord p 0 .llc (pa / 4) 0 (pa % 4) n x with
      | (s, r) => (s, wordReply r)
  | .host i a => (s.hostPut p.ctx i a bs, .performed)
  | _ => (s, .refused)

/-- A read-modify-write at the home (R91, R348). -/
def State.farAtomic (s : State) (p : Who) (op : AtomOp) (pa n x y : Nat) (ret red : Bool) : State × Reply :=
  let f := fun w => atomNew op n w x y
  match placeOf pa 0 with
  | .mem pa _ => match (s.readLine (pa / 4)).atomicHome p red pa n f with
    | (s, .ok _, old) => (s, if ret then .value old else .performed)
    | (s, .nak need found o, _) => (s, .race need found o)
    | (s, .bad, _) => (s, .poison)
  | .host i a =>
    let old := s.hostGet i a n
    (s.hostSet p.ctx i a n (f old), if ret then .value old else .performed)
  | _ => (s, .refused)

/-- Words written at their home as the runtime writes them: registrations are revoked, and it is never a race (R41, R359). -/
def State.farWrite (s : State) (ctx pa : Nat) : List Byte → State
  | b0 :: b1 :: b2 :: b3 :: rest =>
    (match placeOf pa 0 with
      | .mem a _ => (s.touchDie ctx (homeDie a)).forceWord (a / 4) (BitVec.ofNat 32 (leNat [b0, b1, b2, b3])) ctx
      | .host i a => s.hostPut ctx i a [b0, b1, b2, b3]
      | _ => s).farWrite ctx (pa + 4) rest
  | _ => s

/-- A word that is registered too narrowly for a read by an agent, if one is. -/
def State.tooNarrow (s : State) (entry final : Bool) (p : Who) (ws : List Nat) : Option (Nat × Nat × BitVec 32) :=
  if final then none
  else if entry then (ws.find? s.shortScope).map fun w => (3, match s.home.get? w with
    | some (.registered o) => (s.ownerScope o w, o)
    | _ => (0, 0))
  else (s.atomCheck p ws).map (·.2)

/-- A read that is never a race: an evaluation, a transactional load, a table entry, which needs package scope alone (R238, R243, R371). -/
def State.farEval (s : State) (p : Who) (pa n : Nat) (final entry : Bool) : State × Reply :=
  match placeOf pa 0 with
  | .mem pa _ =>
    let s := s.homeLine p.ctx (pa / 4)
    let ws := wordsOf pa n
    match s.tooNarrow entry final p ws with
    | some (need, found, o) => (s, .race need found o)
    | none => if ws.any s.wordBad then (s, .poison) else (s, .value (ws.foldr (fun w acc => (s.homeVal w).toNat + 2 ^ 32 * acc) 0))
  | .host i a => (s.touchDie p.ctx i, .value (s.hostGet i a n))
  | _ => (s, .refused)

/-- What a `lock` finds of one word: its value, 2^32 where the word is refused, 2^32 + 1 where it lies under an error (R105, R240). -/
def State.lockWord (s : State) (p : Who) (off : Nat) : State × Nat :=
  match s.exportAddr off 4 with
  | none => (s, 2 ^ 32)
  | some pa => match placeOf pa 0 with
    | .mem pa _ =>
      let s := s.homeLine p.ctx (pa / 4)
      (s, if (s.raceCheck p.owner (pa / 4)).isSome then 2 ^ 32 else if s.wordBad (pa / 4) then 2 ^ 32 + 1 else (s.homeVal (pa / 4)).toNat)
    | .host i a => (s.touchDie p.ctx i, s.hostGet i a 4)
    | _ => (s, 2 ^ 32)

/-- A commit of another package asks for its words: each is looked at, and all are held until the commit comes (R105). -/
def State.farLock (s : State) (p : Who) (src uid : Nat) (offs : List Nat) : State × Reply :=
  let r := offs.foldl (fun (r : State × List Nat) o => match r.1.lockWord p o with
    | (s, v) => (s, r.2 ++ [v])) (s, [])
  let mine := offs.filterMap fun o => (s.exportAddr o 4).map fun pa => (src, uid, pa / 4)
  ({ r.1 with locks := r.1.locks.filter (fun x => !(x.1 = src && x.2.1 = uid)) ++ mine }, .values r.2)

/-- A commit of another package: its bytes are written at their homes, and the words are held no longer (R105, R240). -/
def State.farCommit (s : State) (p : Who) (src uid : Nat) (ws : List (Nat × List (Nat × Byte))) : State :=
  let s := ws.foldl (fun (s : State) (x : Nat × List (Nat × Byte)) => match s.exportAddr x.1 4 with
    | none => s
    | some pa => match placeOf pa 0 with
      | .mem pa _ =>
        let w := pa / 4
        let v := x.2.foldl (fun v (b : Nat × Byte) => mergeWord v b.1 1 b.2.toNat) (s.homeVal w)
        ((s.homeLine p.ctx w).giveUp w).writeHome w v p.ctx
      | .host i a => x.2.foldl (fun s (b : Nat × Byte) => s.hostSet p.ctx i (a + b.1) 1 b.2.toNat) s
      | _ => s) s
  { s with locks := s.locks.filter fun x => !(x.1 = src && x.2.1 = uid) }

/-- The bytes of several lanes written into one word as a single write (R228). -/
def State.farScatter (s : State) (p : Who) (pa : Nat) (bs : List (Nat × Byte)) : State × Reply :=
  match placeOf pa 0 with
  | .mem pa _ =>
    let s := s.readLine (pa / 4)
    let w := pa / 4
    if (List.range 4).any (fun i => !bs.any (·.1 = i)) && (s.raceCheck p.owner w).isNone && s.wordBad w then (s, .poison)
    else
      let v := bs.foldl (fun v b => mergeWord v b.1 1 b.2.toNat) (s.homeVal w)
      match s.storeWord p 0 .llc w 0 0 4 v.toNat with
      | (s, r) => (s, wordReply r)
  | .host i a => (bs.foldl (fun s (b : Nat × Byte) => s.hostSet p.ctx i (a + b.1) 1 b.2.toNat) s, .performed)
  | _ => (s, .refused)

/-- The old value each lane of a combined atomic finds, and the value it leaves (R92). -/
def combine (op : AtomOp) : List (Nat × Nat) → Nat → List Nat × Nat
  | [], w => ([], w)
  | (x, y) :: rest, w => let r := combine op rest (atomNew op 4 w x y)
    (w :: r.1, r.2)

/-- The lanes of one vector atomic on one word, with no other access between (R92). -/
def State.farCombined (s : State) (p : Who) (op : AtomOp) (pa : Nat) (xs : List (Nat × Nat)) : State × Reply :=
  match placeOf pa 0 with
  | .mem pa _ => match (s.readLine (pa / 4)).atomicHome p false pa 4 fun w => (combine op xs w).2 with
    | (s, .ok _, old) => (s, .values (combine op xs old).1)
    | (s, .nak need found o, _) => (s, .race need found o)
    | (s, .bad, _) => (s, .poison)
  | .host i a =>
    let r := combine op xs (s.hostGet i a 4)
    (s.hostSet p.ctx i a 4 r.2, .values r.1)
  | _ => (s, .refused)

def reqSize : Req → Nat
  | .load n => n
  | .fetch => 4
  | .eval _ n => n
  | .entry => 8
  | .lock .. => 4
  | .commit .. => 4
  | .scatter _ => 4
  | .combined .. => 4
  | .store bs => bs.length
  | .atomic _ n .. => n
  | .write bs => bs.length

/-- The request brings a value back. -/
def reqFetches : Req → Bool
  | .load _ => true
  | .fetch => true
  | .eval .. => true
  | .entry => true
  | .lock .. => true
  | .combined .. => true
  | .atomic _ _ _ _ ret _ => ret
  | _ => false

/-- A request to an address of the package: it is performed there (R345, R348). -/
def State.performAt (s : State) (p : Packet) (w : Who) (pa : Nat) : State × Reply := match p.req with
  | .load n => s.farLoad w pa n
  | .fetch => s.farEval w pa 4 false false
  | .eval final n => s.farEval w pa n final false
  | .entry => s.farEval w pa 8 false true
  | .lock uid offs => s.farLock w p.src uid offs
  | .commit uid ws => (s.farCommit w p.src uid ws, .performed)
  | .scatter bs => s.farScatter w pa bs
  | .combined op xs => s.farCombined w op pa xs
  | .store bs => s.farStore w pa bs
  | .atomic op n x y ret red => s.farAtomic w op pa n x y ret red
  | .write bs => (s.farWrite p.ctx pa bs, .performed)

/-- The addresses a packet leads to, with the bytes at each. -/
def State.packetAddrs (s : State) (p : Packet) : List (Nat × Nat) := match p.req with
  | .lock _ offs => offs.filterMap fun o => (s.exportAddr o 4).map fun pa => (pa, 4)
  | .commit .. => []
  | r => ((s.exportAddr p.off (reqSize r)).map fun pa => (pa, reqSize r)).toList

/-- A packet waits at its home: a word of it is held for another commit (R105), its die is lost (R400), or the link of its host port is
down (R411). -/
def State.packetWaits (s : State) (p : Packet) : Bool :=
  (s.packetAddrs p).any fun x => match placeOf x.1 0 with
    | .mem pa _ => !s.dieAnswers pa || !(match p.req with
      | .lock uid _ => s.unlocked p.src uid pa x.2
      | _ => s.unlocked p.src (2 ^ 40) pa x.2)
    | .host i _ => !s.hostUp i
    | _ => false

/-- A packet is performed at its home, or refused by the export window (R369): a refused no-return request is recorded. The words of a
commit are each looked at for themselves. -/
def State.performPacket (s : State) (p : Packet) : State × Reply :=
  let w : Who := ⟨p.owner, farCore, p.ctx⟩
  match p.req with
  | .lock .. => s.performAt p w 0
  | .commit .. => s.performAt p w 0
  | _ => match s.exportAddr p.off (reqSize p.req) with
  | none => (if reqFetches p.req then s else s.logPkg 0x08 (p.off % 2 ^ 38 + p.src * 2 ^ 38) 0xFFFF, .refused)
  | some pa => s.performAt p w pa

/-! ### A receiving flow (R343, R345, R346) -/

def seqBefore (a b : Nat) : Bool := decide (2 ^ 31 ≤ (a + 2 ^ 32 - b % 2 ^ 32) % 2 ^ 32)

def State.rxFlow (s : State) (src : Nat) : RxFlow := s.rx.getD src RxFlow.reset

def State.modRx (s : State) (src : Nat) (f : RxFlow → RxFlow) : State := { s with rx := s.rx.set src (f (s.rxFlow src)) }

/-- A number has been delivered already. -/
def RxFlow.delivered (r : RxFlow) (q : Nat) : Bool := seqBefore q r.next || r.settled.contains q

/-- The reply of a delivered number is kept for its duplicates, until the number is used again (R343; log 23). -/
def RxFlow.keep (r : RxFlow) (q : Nat) (x : Reply) : RxFlow :=
  { r with kept := if x = .performed then r.kept.erase q else r.kept.set q x }

/-- The acknowledgement of a number that has been delivered goes back, with the reply that is kept (R343, R365). -/
def State.ackBack (s : State) (src q : Nat) : State :=
  if src = s.pkg then s else s.post (.ack src q ((s.rxFlow src).kept.getD q .performed))

/-- One packet in its turn: it is performed, its reply is kept and sent back, and the next number is expected. -/
def State.deliverNext (s : State) (p : Packet) : State :=
  match s.performPacket p with
  | (s, r) => (s.modRx p.src fun x => { x.keep p.seq r with
      next := (p.seq + 1) % 2 ^ 32, early := x.early.filter fun q => q.seq ≠ p.seq }).ackBack p.src p.seq

/-- What waits behind the number just delivered: settled numbers are passed, early packets are delivered, up to one that waits at its
home. -/
def State.drainRx (s : State) (src : Nat) : Nat → State
  | 0 => s
  | n + 1 =>
    let r := s.rxFlow src
    if r.settled.contains r.next then
      (s.modRx src fun x => { x with next := (x.next + 1) % 2 ^ 32, settled := x.settled.filter (· ≠ x.next) }).drainRx src n
    else match r.early.find? fun p => p.seq = r.next with
      | some p => if s.packetWaits p then s else (s.deliverNext p).drainRx src n
      | none => s

def RxFlow.fuel (r : RxFlow) : Nat := r.early.length + r.settled.length

/-- Numbers below a resynchronisation mark are settled (R346). -/
def RxFlow.resyncTo (r : RxFlow) (q : Nat) : RxFlow :=
  if seqBefore r.next q then
    { r with next := q, early := r.early.filter fun p => !seqBefore p.seq q, settled := r.settled.filter fun x => !seqBefore x q }
  else r

/-- A port held DOWN sends nothing and discards what arrives (R347). -/
def State.portDown (s : State) (port : Nat) : Bool := decide (port < 32) && s.down.getLsbD port

/-- PACKET_DELIVERY (R345) at a port: once, in sequence order; an early arrival is held; a duplicate is discarded, and acknowledged
again with the reply that was kept (R343, R365). A packet that must wait at its home is delivered later; after a resynchronisation what
commits of its source held is free. -/
def State.receive (s : State) (port : Nat) (p : Packet) : State :=
  if p.dst ≠ s.pkg || s.portDown port then s
  else
    let s := if p.resync then { s.modRx p.src (·.resyncTo p.seq) with locks := s.locks.filter fun x => x.1 ≠ p.src } else s
    let r := s.rxFlow p.src
    if r.delivered p.seq then s.ackBack p.src p.seq
    else if s.packetWaits p then s
    else if p.seq = r.next then (s.deliverNext p).drainRx p.src r.fuel
    else if r.early.any (fun q => q.seq = p.seq) then s
    else s.modRx p.src fun x => { x with early := x.early ++ [p] }

/-! ### Quiescence (R354, R355) -/

/-- An access that is to send a reduction or an atomic to another package, and has not. -/
def Access.unsent (a : Access) : Bool := (a.kind.isSend || a.kind.isAtomic) && a.parts.any fun p => p.place.pkg.isSome && p.phase = .idle

/-- The package is quiet for a phase of a context: its PH differs, and it holds no such packet unacknowledged or still to be sent, nor
a collective of the phase (R354, R355). -/
def State.pkgQuiet (s : State) (ctx : Nat) (ph : Bool) : Bool :=
  ((s.ctx ctx).phase != ph) && s.flows.all (fun (f : Nat × Flow) => f.2.unacked.all fun (x : Packet × Nat) => x.1.ctx ≠ ctx || x.1.phase != ph) &&
    s.allThreads.all (fun t => t.ctx ≠ ctx || t.out.all fun a => a.ph != ph || !a.unsent) &&
    s.colls.all fun c => c.ctx ≠ ctx || c.ph != ph

def Ctx.quiet (c : Ctx) (ph : Bool) : List Nat := if ph then c.quiet1 else c.quiet0

/-- The switches of the partition report as one unit (log 41). -/
def switchUnit : Nat := 2 ^ 13

/-- The switches hold no packet or entry of the phase: their report stands, and no entry listed here is of it. -/
def State.switchesQuiet (s : State) (ctx : Nat) (ph : Bool) : Bool :=
  (s.ctx ctx).packages.all (· = s.pkg) ||
    ((s.ctx ctx).quiet ph).contains switchUnit && s.merges.all fun m => m.packet.ctx ≠ ctx || m.packet.phase != ph

/-- Every package of the context and every switch is quiet for the phase (R355). -/
def State.allQuiet (s : State) (ctx : Nat) (ph : Bool) : Bool :=
  s.pkgQuiet ctx ph && s.switchesQuiet ctx ph &&
    (s.ctx ctx).packages.all fun u => u = s.pkg || ((s.ctx ctx).quiet ph).contains u

/-- Waves that wait in `cquiet` on a phase that is quiet everywhere go on (R246, R355). -/
def State.quietWake (s : State) (ctx : Nat) : State :=
  [false, true].foldl (fun s ph =>
    if s.allQuiet ctx ph then
      (s.allThreads.filter fun t => t.ctx = ctx).foldl (fun s t => s.modThread t.uid (·.mapWait fun w =>
        if w.kind = .quiet ph && w.result.isNone then { w with result := some 0 } else w)) s
    else s) s

/-- PHASE_QUIET_REPORT (R354): a report of this package stands only while it is quiet; another unit's is taken as it comes. -/
def State.quietReport (s : State) (ctx : Nat) (ph : Bool) (u : Nat) : State :=
  if u = s.pkg && !s.pkgQuiet ctx ph then s
  else
    (s.modCtx ctx fun c => if ph then { c with quiet1 := u :: c.quiet1.filter (· ≠ u) } else { c with quiet0 := u :: c.quiet0.filter (· ≠ u) }).quietWake ctx

/-- The phase bit flips from P: later packets carry the other phase, and reports of the other phase are void (R355). -/
def Ctx.flip (c : Ctx) (ph : Bool) : Ctx :=
  if ph then { c with phase := false, quiet0 := [] } else { c with phase := true, quiet1 := [] }

/-! ### Acknowledgement and replay (R343, R344, R346, R347, R352) -/

def State.flow (s : State) (dst : Nat) : Flow := s.flows.getD dst Flow.reset

def State.modFlow (s : State) (dst : Nat) (f : Flow → Flow) : State := { s with flows := s.flows.set dst (f (s.flow dst)) }

/-- Contexts with packets on a flow. -/
def Flow.ctxs (f : Flow) : List Nat := (f.unacked.map fun (x : Packet × Nat) => x.1.ctx).eraseDups

/-- A no-return atomic met a poisoned word at its home: record 0x10 in the issuing context's log (R392). -/
def State.logPoison (s : State) (p : Packet) (r : Reply) : State :=
  match r, p.req with
  | .poison, .atomic _ _ _ _ false _ => s.logCtx p.ctx 0x10 p.pc.toNat p.owner.toNat
  | _, _ => s

/-- An element takes part in routes: not failed, and no port held down (R344, R347). -/
def State.elemUp (s : State) (elem : Nat) : Bool := !s.failed.has elem && !s.portDown elem

/-- ACKNOWLEDGEMENT (R343): it travels on the reverse of the flow's route, and is lost where that has none or an element of it is down
(R365). The entry is freed, and what waits for its reply receives it. -/
def State.acknowledge (s : State) (dst q : Nat) (r : Reply) : State :=
  if !(s.flow dst).routed || !(s.flow dst).route.all s.elemUp then s
  else match (s.flow dst).unacked.find? fun (x : Packet × Nat) => x.1.seq = q with
  | none => s
  | some x => (((s.logPoison x.1 r).modFlow dst fun f => { f with unacked := f.unacked.filter fun (x : Packet × Nat) => x.1.seq ≠ q }).replyTo dst q r).quietWake x.1.ctx

/-- An element is declared failed: it leaves every route, and the flows through it have none (R344). -/
def State.declareFailed (s : State) (elem : Nat) : State :=
  { s with
    failed := s.failed.set elem s.now
    flows := s.flows.map fun (p : Nat × Flow) =>
      if p.2.routed && p.2.route.contains elem then (p.1, { p.2 with routed := false, failedAt := s.now, sentBy := p.2.port, route := [] }) else p }

/-- A packet of the flow has gone 8 µs without acknowledgement (R344). -/
def State.overdue (s : State) (dst : Nat) : Bool :=
  (s.flow dst).routed && (s.flow dst).unacked.any fun (x : Packet × Nat) => decide (8000 ≤ s.now - x.2)

/-- Packets named by `sel` are sent again (R344, R347, R352). -/
def State.resend (s : State) (dst : Nat) (sel : Packet → Bool) (f : Packet → Packet) : State :=
  let n := ((s.flow dst).unacked.filter fun (x : Packet × Nat) => sel x.1).length
  { s.modFlow dst fun fl => { fl with unacked := fl.unacked.map fun (x : Packet × Nat) => if sel x.1 then (f x.1, s.now) else x } with
    replayed := s.replayed + BitVec.ofNat 32 n }

/-- FLOW_REROUTE (R344): a flow without a route gets one and sends every unacknowledged packet again; each context with such
packets receives record 0x02. -/
def State.rerouteFlow (s : State) (dst : Nat) (route : List Nat) : State :=
  let f := s.flow dst
  if f.routed || !route.all s.elemUp then s
  else
    let n := f.unacked.length
    let s := (s.modFlow dst fun f => { f with route := route, routed := true }).resend dst (fun _ => true) id
    let s := { s with reroute := s.reroute + 1 }
    f.ctxs.foldl (fun s c => s.logCtx c 0x02 (s.pkg + dst * 2 ^ 16 + n * 2 ^ 32) 0) s

/-- LINK_RETRAIN (R344, R347): a declared element rejoins routes unless a DOWN bit holds it out, or it is a port of a lost die (R400). -/
def State.retrain (s : State) (elem : Nat) : State :=
  if decide (elem < 32) && (s.down.getLsbD elem || s.dieGone (elem / 8)) then s else { s with failed := s.failed.erase elem }

/-- A part whose packet was discarded completes without a result (R346). -/
def discardPart (dst : Nat) (p : Part) : Part := match p.phase with
  | .sent d _ => if d = dst then { p with phase := .done } else p
  | _ => p

/-- What the runtime does for a fault record goes on without the packets that were discarded (R346, R379). -/
def FaultRec.discard (dst : Nat) (r : FaultRec) : FaultRec :=
  { r with
    acks := r.acks.filter (·.1 ≠ dst)
    words := r.words.map fun (x : Nat × Phase) => match x.2 with
      | .sent d _ => if d = dst then (x.1, .done) else x
      | _ => x }

/-- The accesses of a thread lose the packets they wait for. -/
def State.discardFor (s : State) (dst u : Nat) : State :=
  let sent (a : Access) : Bool := a.parts.any fun p => match p.phase with
    | .sent d _ => d = dst
    | _ => false
  let s := s.modThread u fun t => { t with out := t.out.filter fun a => !(a.kind = .record && sent a) }
  ((s.thread u).out.filter sent).foldl (fun s a => s.settle u { a with parts := a.parts.map (discardPart dst) }) s

/-- FLOW_UNREACHABLE (R346): 2 ms without a route; a flow that is lost already and has sent nothing since stays as it is. -/
def State.flowLost (s : State) (dst : Nat) : State :=
  let f := s.flow dst
  if f.routed || s.now - f.failedAt < 2000000 || (f.resync && f.unacked = []) then s
  else
    let low := ((f.unacked.map fun (x : Packet × Nat) => x.1.seq).head?).getD f.next
    let cs := f.ctxs
    let s := s.modFlow dst fun f => { f with unacked := [], resync := true }
    let s : State := { s with
      unreach := s.unreach + 1
      preps := s.preps.map fun (p : Nat × Prep) => (p.1, { p.2 with words := p.2.words.map fun (x : Nat × Phase) => match x.2 with
        | .sent d _ => if d = dst then (x.1, .done) else x
        | _ => x })
      asks := s.asks.filter fun x => match x.2.2 with
        | .sent d _ => d ≠ dst
        | _ => true
      colls := s.colls.map fun c => { c with
        acks := c.acks.filter (·.1 ≠ dst)
        words := c.words.map fun (x : Nat × Phase) => match x.2 with
          | .sent d _ => if d = dst then (x.1, .done) else x
          | _ => x }
      ctxs := s.ctxs.map fun (p : Nat × Ctx) => (p.1, { p.2 with faults := p.2.faults.map (·.discard dst) })
      cores := s.cores.map fun (p : Nat × Core) => (p.1, { p.2 with
        barrow := p.2.barrow.map fun (c : BarCmd) => { c with ask := c.ask.map (discardPart dst) }
        fetching := p.2.fetching.filter fun l => !l.parts.any fun x => match x.phase with
          | .sent d _ => d = dst
          | _ => false }) }
    let us := s.allThreads.map (·.uid)
    let s := us.foldl (fun s u => s.discardFor dst u) s
    let s := cs.foldl (fun s c => s.logCtx c 0x03 (dst + low * 2 ^ 32) 0) s
    let s := (us.filter fun u => cs.contains (s.thread u).ctx).foldl (fun s u =>
      s.postAsync u ⟨cUnreachable, 0, BitVec.ofNat 64 dst, none⟩) s
    cs.foldl (fun s c => s.quietWake c) s

/-- REPLAY_UNMERGED (R352): the named packets are sent again with the no-merge bit. -/
def State.replayAlone (s : State) (dst : Nat) (seqs : List Nat) : State :=
  s.resend dst (fun p => seqs.contains p.seq) fun p => { p with noMerge := true }

/-! ### Merging in switches (R351, R352, R365) -/

/-- The operation and size a code of R348 names. -/
def redOp : Nat → AtomOp × Nat
  | 0 => (.add, 4)
  | 1 => (.min, 4)
  | 2 => (.max, 4)
  | 3 => (.minu, 4)
  | 4 => (.maxu, 4)
  | 5 => (.fadd, 4)
  | 6 => (.add, 8)
  | _ => (.or, 4)

/-- What a reduction packet carries: its operation, size and value. -/
def reduction (p : Packet) : Option (AtomOp × Nat × Nat) := match p.req with
  | .atomic op n x _ _ true => some (op, n, x)
  | _ => none

/-- The ranges a packet covers: of a plain packet its own number. -/
def ranges (p : Packet) : List (Nat × Nat × Nat) := if p.cover = [] then [(p.src, p.seq, 1)] else p.cover

/-- Add a range to a coverage list, joining neighbours. -/
def addRange : List (Nat × Nat × Nat) → Nat × Nat × Nat → List (Nat × Nat × Nat)
  | [], r => [r]
  | (a, f, n) :: rest, (b, g, m) =>
    if a = b && f + n = g then (a, f, n + m) :: rest
    else if a = b && g + m = f then (a, g, n + m) :: rest
    else (a, f, n) :: addRange rest (b, g, m)

/-- A coverage list holds some number of a range. -/
def covers (c : List (Nat × Nat × Nat)) (r : Nat × Nat × Nat) : Bool :=
  c.any fun (x : Nat × Nat × Nat) => x.1 = r.1 && decide (x.2.1 < r.2.1 + r.2.2) && decide (r.2.1 < x.2.1 + x.2.2)

/-- The window a packet names, with its home package and operation code (R349). -/
def State.windowFacts (s : State) (ctx w : Nat) : Option (Nat × Nat) :=
  ((s.ctx ctx).windows.get? w).map fun (x : Nat × Nat × Nat × Nat) => (x.2.2.1, x.2.2.2)

/-- A packet may be merged at all (R351). -/
def State.mergeable (s : State) (p : Packet) : Bool :=
  !p.noMerge && match p.window, reduction p with
  | some w, some (op, n, _) => (match s.windowFacts p.ctx w with
    | some (home, code) => home = p.dst && redOp code = (op, n)
    | none => false)
  | _, _ => false

/-- Two packets for one entry (R351, R365). -/
def mayMerge (a b : Packet) : Bool :=
  a.ctx = b.ctx && a.window = b.window && a.off = b.off && a.phase == b.phase && a.dst = b.dst &&
    (ranges b).all (fun r => !covers (ranges a) r) && decide (((ranges b).foldl addRange (ranges a)).length ≤ 16)

/-- The merged packet: the combined value under the window's operation, and both coverages. -/
def mergePackets (a b : Packet) : Packet :=
  let c := (ranges b).foldl addRange (ranges a)
  match a.req, b.req with
  | .atomic op n x _ _ _, .atomic _ _ y _ _ _ => { a with req := .atomic op n (atomNew op n x y 0) 0 false true, cover := c }
  | _, _ => a

/-- Add a packet to the first entry of a switch that takes it. -/
def mergeInto (sw : Nat) (p : Packet) : List Merge → Option (List Merge)
  | [] => none
  | m :: rest =>
    if m.sw = sw && mayMerge m.packet p then some ({ m with packet := mergePackets m.packet p } :: rest)
    else (mergeInto sw p rest).map (m :: ·)

/-- SWITCH_MERGE (R351): a packet joins an entry of the switch or opens one; a packet that an entry covers already, and any other
packet, travels on unmerged (R365). -/
def State.mergeAt (s : State) (sw : Nat) (p : Packet) : State :=
  if !s.mergeable p || s.merges.any (fun m => m.sw = sw && (ranges p).any (covers (ranges m.packet)) && m.packet.dst = p.dst) then s
  else match mergeInto sw p s.merges with
    | some ms => { s with merges := ms }
    | none => { s with merges := s.merges ++ [⟨sw, { p with cover := (ranges p) }, s.now⟩] }

/-- The numbers a coverage list holds. -/
def coverNumbers (c : List (Nat × Nat × Nat)) : List (Nat × Nat) :=
  c.flatMap fun (r : Nat × Nat × Nat) => (List.range r.2.2).map fun i => (r.1, (r.2.1 + i) % 2 ^ 32)

/-- Mark a number delivered with its reply, drop an early copy of it (R345), and deliver what waited for it. -/
def State.settleSeq (s : State) (src q : Nat) (x : Reply) : State :=
  let s := s.modRx src fun r => { r.keep q x with settled := q :: r.settled, early := r.early.filter fun p => p.seq ≠ q }
  s.drainRx src (s.rxFlow src).fuel

/-- Each source of a list of covered numbers that are not delivered is asked to send them again unmerged (R352). -/
def State.askUnmerged (s : State) (ns : List (Nat × Nat)) : State :=
  (ns.map (·.1)).eraseDups.foldl (fun s src =>
    s.post (.replayUnmerged src ((ns.filter fun (x : Nat × Nat) => x.1 = src).map (·.2)))) s

/-- MERGED_PACKET_RECEIPT (R352): performed once if no covered number was delivered before, and every number acknowledged, with what the
value met (R392); otherwise discarded, the delivered numbers acknowledged, and the others asked for again unmerged. -/
def State.receiveMerged (s : State) (p : Packet) : State :=
  if p.dst ≠ s.pkg then s
  else
    let ns := coverNumbers (ranges p)
    let old := ns.filter fun (x : Nat × Nat) => (s.rxFlow x.1).delivered x.2
    let ack (s : State) (l : List (Nat × Nat)) : State := l.foldl (fun s (x : Nat × Nat) => s.ackBack x.1 x.2) s
    if old.isEmpty then
      if s.packetWaits p then s
      else match s.performPacket { p with src := ((ranges p).headD (p.src, 0, 0)).1 } with
      | (s, r) => ack (ns.foldl (fun (s : State) (x : Nat × Nat) => s.settleSeq x.1 x.2 r) s) ns
    else (ack s old).askUnmerged (ns.filter fun (x : Nat × Nat) => !old.contains x)

/-- Every package of a context has reported a phase quiet (R354). -/
def State.phaseQuiet (s : State) (ctx : Nat) (ph : Bool) : Bool :=
  (s.ctx ctx).packages.all fun u => if u = s.pkg then s.pkgQuiet ctx ph else ((s.ctx ctx).quiet ph).contains u

/-- Why a merge entry may leave its switch (R351): its coverage is full, or else it is 2 µs old or its phase is quiet at every input
port. -/
def State.mergeDue (s : State) (m : Merge) (full : Bool) : Bool :=
  if full then decide (16 ≤ (ranges m.packet).length) else decide (2000 ≤ s.now - m.since) || s.phaseQuiet m.packet.ctx m.packet.phase

/-- The ports at which packets from a switch arrive: those whose flows pass it, or any where no route names it. -/
def State.portsFrom (s : State) (sw : Nat) : List Nat :=
  let ps := (s.flows.vals.filter fun f => f.route.contains sw).filterMap Flow.port
  if ps = [] then List.range 32 else ps

/-- MERGE_ENTRY_FORWARD (R351): an entry leaves its switch; toward this package it arrives at once (log 41), unless every port at which it
could is held DOWN and discards it (R347). -/
def State.forwardMerge (s : State) (sw i : Nat) (full : Bool) : State :=
  match (s.merges.filter fun m => m.sw = sw)[i]? with
  | none => s
  | some m =>
    if !s.mergeDue m full || (m.packet.dst = s.pkg && s.packetWaits m.packet) then s
    else
      let s : State := { s with merges := s.merges.erase m }
      (if (s.portsFrom sw).all s.portDown then s else s.receiveMerged m.packet).quietWake m.packet.ctx

/-! ### Reduction windows (R349, R350) -/

/-- Every merge entry of a window is delivered to its home first. -/
def State.flushWindow (s : State) (ctx w : Nat) : State :=
  let mine (m : Merge) : Bool := m.packet.ctx = ctx && m.packet.window = some w
  (s.merges.filter mine).foldl (fun s m => s.receiveMerged m.packet) { s with merges := s.merges.filter fun m => !mine m }

/-- A window ceases to be declared. -/
def State.removeWindow (s : State) (ctx w : Nat) : State :=
  (s.flushWindow ctx w).modCtx ctx fun c => { c with windows := c.windows.erase w }

/-- The first field of a window record outside R349, as an offset. -/
def windowFault (b : List Byte) : Option Nat :=
  if fld b 0 8 % 256 ≠ 0 then some 0
  else if fld b 8 8 % 256 ≠ 0 || fld b 8 8 < 256 || 2 ^ 30 < fld b 8 8 then some 8
  else if 8191 < fld b 16 2 then some 16
  else if 7 < fld b 18 1 then some 18
  else if fld b 19 13 ≠ 0 then some 19
  else none

/-- Another window of the context overlaps a range. -/
def Ctx.overlaps (c : Ctx) (w base len : Nat) : Bool :=
  c.windows.any fun (x : Nat × Nat × Nat × Nat × Nat) => x.1 ≠ w && decide (x.2.1 < base + len) && decide (base < x.2.1 + x.2.2.1)

/-- Declare a window from its record. -/
def State.declareWindow (s : State) (ctx w : Nat) (b : List Byte) : State :=
  (s.removeWindow ctx w).modCtx ctx fun c => { c with windows := c.windows.set w (fld b 0 8, fld b 8 8, fld b 16 2, fld b 18 1) }

/-! ### Instructions -/

/-- cquiet (R355). -/
def execCquiet (a : Reg) (s : State) : Res :=
  s.guarded (encRr 0x7C 2 0 a 0) fun s =>
    let v := s.src 0 a
    let ph := v.getLsbD 0
    let c := s.th.ctx
    match s.waitResult (.quiet ph) with
    | some _ => .next s.adv
    | none =>
      let inside := s.inWait (.quiet ph)
      let s := if !inside && (s.ctx c).phase == ph then s.modCtx c (·.flip ph) else s
      if s.allQuiet c ph then .next s.adv else .next (s.waitWith (.quiet ph) [v])

/-- The units that must hold a window, or hold nothing of it any longer, beside this package: the context's other packages, and the
partition's switches, which answer as one (R350; log 41). -/
def State.windowUnits (s : State) (ctx : Nat) : List Nat :=
  let ps := (s.ctx ctx).packages.filter (· ≠ s.pkg)
  if ps = [] then [] else ps ++ [switchUnit]

/-- The others are told of a window that is declared, with its facts, or removed. -/
def State.tellWindow (s : State) (ctx w : Nat) (facts : Option (Nat × Nat × Nat × Nat)) : State :=
  let us := s.windowUnits ctx
  let s := us.foldl (fun (s : State) u => s.post (.window u ctx w facts)) s
  { s with winAsks := s.winAsks.filter (fun x => !(x.1 = ctx && x.2.1 = w)) ++ us.map fun u => (ctx, w, u) }

/-- Some unit has not answered yet. -/
def State.windowAsked (s : State) (ctx w : Nat) : Bool := s.winAsks.any fun x => x.1 = ctx && x.2.1 = w

/-- `rwin` completes, or waits until every unit has answered (R350). -/
def State.windowWait (s : State) (ctx w : Nat) (args : List Word) : Res :=
  if s.windowAsked ctx w then .next (s.waitWith .window args) else .next s.adv

/-- Another package of the context has declared a window, or removed one: this one does so too, and answers (R350). -/
def State.windowCame (s : State) (src ctx w : Nat) (facts : Option (Nat × Nat × Nat × Nat)) : State :=
  let s := s.removeWindow ctx w
  let s := match facts with
    | some f => s.modCtx ctx fun c => { c with windows := c.windows.set w f }
    | none => s
  s.post (.windowHeld src ctx w)

/-- A unit has answered. -/
def State.windowAnswer (s : State) (ctx w u : Nat) : State := { s with winAsks := s.winAsks.filter (· ≠ (ctx, w, u)) }

/-- rwin (R350). -/
def execRwin (a : Reg) (b : Reg) (s : State) : Res :=
  s.guarded (encRr 0x7C 5 0 a b) fun s =>
    let va := s.src 0 a
    let v := (s.src 1 b).toNat
    let args := [va, s.src 1 b]
    let ctx := if s.th.frailor then bits v 31 16 else s.th.ctx
    let w := v % 64
    if s.inWait .window then s.windowWait ctx w args
    else if s.th.frailor && !(s.ctx ctx).live then s.raise cAccessFault 0 2
    else if bits v 8 8 = 1 then ((s.removeWindow ctx w).tellWindow ctx w none).windowWait ctx w args
    else if va.toNat % 32 ≠ 0 then s.raise cMisaligned va 0
    else s.withRecord va.toNat 4 args fun s bs =>
      let s := s.dropRecords
      match windowFault bs with
      | some off => s.raise cFormat 0 (BitVec.ofNat 64 (0x60 + off))
      | none =>
        if (s.ctx ctx).overlaps w (fld bs 0 8) (fld bs 8 8) then s.raise cFormat 0 0x41
        else
          let s := s.declareWindow ctx w bs
          (s.tellWindow ctx w ((s.ctx ctx).windows.get? w)).windowWait ctx w args

/-! ### Events -/

/-- packet delivery (R345). -/
def execPacketDelivery (p : Arrival) (s : State) : Res :=
  .next (s.receive p.port p.packet)

/-- acknowledgement (R343). -/
def execAcknowledgement (dst : Nat) (seq : Nat) (r : Reply) (s : State) : Res :=
  .next (s.acknowledge dst seq r)

/-- ack timeout (R344). -/
def execAckTimeout (dst : Nat) (elem : Nat) (s : State) : Res :=
  .next (if s.overdue dst && (s.flow dst).route.contains elem then s.declareFailed elem else s)

/-- link crc failure report (R344). -/
def execLinkCrcFailureReport (elem : Nat) (s : State) : Res :=
  .next (s.declareFailed elem)

/-- flow reroute (R344). -/
def execFlowReroute (dst : Nat) (route : List Nat) (s : State) : Res :=
  .next (s.rerouteFlow dst route)

/-- link retrain (R347). -/
def execLinkRetrain (elem : Nat) (s : State) : Res :=
  .next (s.retrain elem)

/-- flow unreachable (R346). -/
def execFlowUnreachable (dst : Nat) (s : State) : Res :=
  .next (s.flowLost dst)

/-- switch merge (R351). -/
def execSwitchMerge (sw : Nat) (p : Packet) (s : State) : Res :=
  .next (s.mergeAt sw p)

/-- merge entry forward (R351). -/
def execMergeEntryForward (sw : Nat) (entry : Nat) (full : Bool) (s : State) : Res :=
  .next (s.forwardMerge sw entry full)

/-- merged packet receipt (R352). -/
def execMergedPacketReceipt (p : Arrival) (s : State) : Res :=
  .next (if s.portDown p.port then s else s.receiveMerged p.packet)

/-- replay unmerged (R352). -/
def execReplayUnmerged (dst : Nat) (seqs : List Nat) (s : State) : Res :=
  .next (s.replayAlone dst seqs)

/-- phase quiet report (R354). -/
def execPhaseQuietReport (ctx : Nat) (ph : Bool) (unit : Nat) (s : State) : Res :=
  .next (s.quietReport ctx ph unit)

end Sys2Proof.Machine
end

