-- ==== Sys2Proof/Machine/HostPort.lean ====
section
/-! DEFINITION. The host side: host reads and writes as a bridge performs them, HSTAT, the links of the host ports, bring-up with
its measurements, attestation, and the package reset (R12, R411 to R414, R417 to R420). -/

namespace Sys2Proof.Machine

open Sys2Proof

/-! ### Host accesses (R411 to R413) -/

/-- The bridge of a host port as an agent. -/
def State.bridge (s : State) (port : Nat) : Who := ⟨mkOwner 3 s.pkg port port 0, farCore, 0xFFFF⟩

/-- A host port with a host and a link that is up. -/
def State.hostPort (s : State) (port : Nat) : Bool :=
  decide (port < 2) && s.host.hostRole.getD port false && s.host.hasHost.getD port false && s.hostUp port

/-- A host offset names memory of the package (R411): not the remote space, not host memory. -/
def State.hostReach (s : State) (pa n : Nat) : Bool := s.host.ready && decide (pa / 2 ^ 45 < 2) && s.spaceOk pa n

/-- Words an access of n bytes covers. -/
def hostWords (pa n : Nat) : List Nat := (List.range ((pa % 4 + n + 3) / 4)).map (pa / 4 + ·)

/-- An access refused by R413. -/
def State.hostRefuse (s : State) (write : Bool) : State :=
  let h := s.host
  { s with host := { h with racecnt := (h.racecnt + 1) % 2 ^ 16, raceWr := h.raceWr || write, raceRd := h.raceRd || !write } }

/-- The words of an access that R413 refuses; each owner's context receives one record, of its first such word (R89). -/
def State.hostRaces (s : State) (p : Who) (cause : Nat) (ws : List Nat) : State × Bool :=
  let r := ws.foldl (fun (r : State × List Nat) w => match r.1.raceCheck p.owner w with
    | some (need, found, y) =>
      if r.2.contains (r.1.ownerCtx y w) then r else (r.1.logRace p.owner w cause need found y, r.1.ownerCtx y w :: r.2)
    | none => r) (s, [])
  (r.1, !r.2.isEmpty)

/-- The words of an access can be performed now: their homes' dies are not lost, and no commit holds them (R105, R400). -/
def State.hostReady (s : State) (ws : List Nat) : Bool := ws.all fun w => s.placeReady runtime runtime (.mem (4 * w) 0) 4

/-- A word as the bridge reads it: an llc load. -/
def State.hostWord (s : State) (p : Who) (w : Nat) : State × Option W32 :=
  match (s.readLine w).loadHome p w with
  | (s, .ok v) => (s, some v)
  | (s, _) => (s, none)

def State.hostRead (s : State) (p : Who) : List Nat → State × Option (List Byte)
  | [] => (s, some [])
  | w :: ws => match s.hostWord p w with
    | (s, some v) => match s.hostRead p ws with
      | (s, some bs) => (s, some (leBytes 4 v.toNat ++ bs))
      | r => r
    | (s, none) => (s, none)

/-- HOST_CXL_MEM_READ: the value goes to the host; none stands for the CXL poison indication, which is all it gets before READY (R417). -/
def State.hostLoad (s : State) (port pa n : Nat) : State :=
  let put (s : State) (r : Option Nat) : State := { s with host := { s.host with reads := s.host.reads ++ [r] } }
  if !s.host.ready && decide (port < 2) then put s none
  else if !s.hostPort port then s
  else
    let ws := hostWords pa n
    if !s.hostReach pa n then put s none
    else if !s.hostReady ws then s
    else match s.hostRaces (s.bridge port) 6 ws with
      | (s, true) => put (s.hostRefuse false) none
      | (s, false) => match s.hostRead (s.bridge port) ws with
        | (s, r) => put s (r.map fun bs => leNat ((bs.drop (pa % 4)).take n))

/-- One word of a host write becomes registered to the bridge, which holds its data (R412); a part of a poisoned word is
discarded (R392). Another bridge that held it writes it back first. -/
def State.hostStoreWord (s : State) (port w off n x : Nat) : State :=
  let p := s.bridge port
  let s := (s.readLine w).touchLine w
  if s.wordBad w && decide (n < 4) then s
  else
    let v := mergeWord (s.homeVal w) off n x
    let s := s.giveUp w
    State.wakeWord (w := w) { s with
      home := s.home.set w (.registered p.owner), memPoison := s.memPoison.erase w
      host := { s.host with bridge := s.host.bridge.set (bridgeKey port w) v } }

/-- The bytes of a write, word by word. -/
def State.hostStoreWords (s : State) (port pa : Nat) (bs : List Byte) : State :=
  (hostWords pa bs.length).foldl (fun s w =>
    let lo := max pa (4 * w)
    let hi := min (pa + bs.length) (4 * w + 4)
    s.hostStoreWord port w (lo % 4) (hi - lo) (leNat ((bs.drop (lo - pa)).take (hi - lo)))) s

/-- HOST_CXL_MEM_WRITE. -/
def State.hostStore (s : State) (port pa : Nat) (bs : List Byte) : State :=
  if !s.hostPort port || !s.hostReach pa bs.length || !s.hostReady (hostWords pa bs.length) then s
  else match s.hostRaces (s.bridge port) 7 (hostWords pa bs.length) with
    | (s, true) => s.hostRefuse true
    | (s, false) => s.hostStoreWords port pa bs

/-- HSTAT bits written as 1 are cleared (R413). -/
def State.clearHstat (s : State) (v : Word) : State :=
  { s with host := { s.host with raceRd := s.host.raceRd && !v.getLsbD 1, raceWr := s.host.raceWr && !v.getLsbD 0 } }

def State.setHostLink (s : State) (port : Nat) (up : Bool) : State :=
  { s with host := { s.host with linkUp := s.host.linkUp.set port up } }

/-- HSTAT and BOOTSTAT as the host reads them in BAR0 (R411, R413, R418). -/
def HostSide.hstat (h : HostSide) : Nat := h.racecnt * 2 ^ 16 + (if h.raceRd then 2 else 0) + (if h.raceWr then 1 else 0)

def HostSide.bootstat (h : HostSide) : Nat := h.detail * 2 ^ 32 + h.code * 2 ^ 8 + h.stage * 2 ^ 4 + (if h.ready then 1 else 0)

/-- The registers of function 0's window, by offset (R411). -/
def HostSide.bar0 (h : HostSide) (off : Nat) : Option Nat := if off = 0 then some h.bootstat else if off = 8 then some h.hstat else none

/-- The host reads 8 bytes of the window of a port it is attached to; an offset that holds no register gives a free value (log 84). -/
def State.bar0Read (s : State) (port off : Nat) : State :=
  if !(s.host.hostRole.getD port false && s.host.hasHost.getD port false && s.host.linkUp.getD port false) then s
  else match s.host.bar0 off with
    | some v => { s with host := { s.host with reads := s.host.reads ++ [some v] } }
    | none => { s with free := s.free + 1, host := { s.host with reads := s.host.reads ++ [some (Config.freeWord s.free).toNat] } }

/-! ### Pins (R420) -/

/-- ALERT_N is low: bring-up has failed, or a record of the package event log is unread. -/
def State.alert (s : State) : Bool := decide (s.host.code ≠ 0) || decide (s.eventsRead < s.events.records.length)

/-- Records of the package event log have been read (log 59). -/
def State.eventsSeen (s : State) (n : Nat) : State := { s with eventsRead := max s.eventsRead (min n s.events.records.length) }

/-- PERST_N of a host port takes a level; the manual gives it no effect (log 59). -/
def State.setPerst (s : State) (port : Nat) (low : Bool) : State := { s with host := { s.host with perst := s.host.perst.set port low } }

/-! ### Reset and bring-up (R12, R417, R418) -/

/-- A package reset: what lies outside the package stays (host memory), and so do the model's own fields (log 43). -/
def State.resetPackage (s : State) : State :=
  { State.reset with host := { HostSide.reset with mem := s.host.mem }, agenda := s.agenda, free := s.free, logCap := s.logCap }

/-- Image i is measured into register i modulo 8, after what that register holds (R417; log 44). -/
def measureAll (m : List (List Byte)) (images : List (List Byte)) : List (List Byte) :=
  (images.mapIdx fun i x => (i, x)).foldl (fun m (x : Nat × List Byte) =>
    m.set (x.1 % 8) (Config.sha512 (m.getD (x.1 % 8) [] ++ Config.sha512 x.2))) m

def packStraps (st : List Nat) : Nat := ((List.range 4).map fun i => st.getD i 0 % 4 * 2 ^ (2 * i)).sum

/-- The four values are distinct. -/
def strapsDistinct (st : List Nat) : Bool := ((List.range 4).map fun i => st.getD i 0 % 4).Nodup

/-- The forward link of the die strapped L reaches the die strapped L + 1 (R12). fwd: the position each position's forward link
reaches. -/
def strapsAgree (st fwd : List Nat) : Bool := (List.range 4).all fun i => st.getD (fwd.getD i 0) 0 % 4 = (st.getD i 0 % 4 + 1) % 4

/-- PWRGOOD: stages 0 to 3. -/
def State.powerUp (s : State) (sigOk : Bool) (images : List (List Byte)) (straps fwd : List Nat) : State :=
  let s := s.resetPackage
  let h := s.host
  if !sigOk then { s with host := { h with stage := 1, code := 1 } }
  else
    let h := { h with measure := measureAll h.measure images, straps := straps.map (· % 4), stage := 3 }
    let d := packStraps straps
    if !strapsDistinct straps then { s with host := { h with code := 2, detail := d } }
    else if !strapsAgree straps fwd then { s with host := { h with code := 2, detail := d + 256 } }
    else { s with host := h }

/-- A stage follows the one before it, unless bring-up has stopped. -/
def State.stageAfter (s : State) (n : Nat) : Bool := s.host.stage = n && s.host.code = 0

/-- UCIE_LINK_TRAINING: stage 4. -/
def State.trainUcie (s : State) (ok : Bool) (images : List (List Byte)) : State :=
  if s.stageAfter 3 then
    { s with host := { s.host with stage := 4, code := if ok then 0 else 3, measure := measureAll s.host.measure images } }
  else s

/-- TIER1_CHANNEL_TRAINING: stage 5. -/
def State.trainTier1 (s : State) (ok : Bool) : State :=
  if s.stageAfter 4 then { s with host := { s.host with stage := 5, code := if ok then 0 else 4 } } else s

/-- A tier-2 port's capacity: whole 256 MiB, at most 1,024 GiB (R411). -/
def portCap (c : Nat) : Nat := min (c / 2 ^ 28 * 2 ^ 28) (2 ^ 40)

/-- The runtime's fabric bring-up: the package's number (R11) and the routes of its flows (R344). -/
def State.joinFabric (s : State) (pkg : Nat) (routes : List (Nat × List Nat)) : State :=
  routes.foldl (fun s x => s.modFlow x.1 fun f => { f with route := x.2 }) { s with pkg := pkg % 8192 }

/-- CXL_PORT_TRAINING: stage 6, after which the runtime comes up. -/
def State.trainCxl (s : State) (sel hosts : List Bool) (up : PortsUp) : State :=
  if s.stageAfter 5 then
    let role := [sel.getD 0 false, sel.getD 1 false]
    let has := [role.getD 0 false && hosts.getD 0 false, role.getD 1 false && hosts.getD 1 false]
    { s with
      agenda := .runtimeUp up.pkg up.routes :: s.agenda
      host := { s.host with
        stage := 6, hostRole := role, hasHost := has, linkUp := has, pcie := [up.pcie.getD 0 false, up.pcie.getD 1 false]
        caps := (up.caps.take 16).map portCap } }
  else s

/-- SERVICE_RUNTIME_READY: stage 7; the runtime brings up the fabric, and READY is set. -/
def State.runtimeUp (s : State) (pkg : Nat) (routes : List (Nat × List Nat)) : State :=
  if s.stageAfter 6 then
    let s := s.joinFabric pkg routes
    { s with host := { s.host with stage := 7, ready := true } }
  else s

/-! ### Attestation (R419; the code numbers are SPDM's, log 45) -/

/-- A host port answers over DOE in either of its modes (R411). -/
def State.answer (s : State) (port : Nat) (bs : List Byte) : State :=
  if decide (port < 2) && s.host.hostRole.getD port false && s.host.hasHost.getD port false && s.host.linkUp.getD port false then { s with host := { s.host with doe := s.host.doe ++ [bs] } } else s

def spdmError : List Byte := [0x12, 0x7F]

/-- CAPABILITIES (log 45): certificates, CHALLENGE, and signed measurements; nothing else. -/
def spdmCapabilities : List Byte := [0x12, 0x61] ++ leBytes 4 0x16

/-- ALGORITHMS (R419; log 45): of what the host offers, RSASSA-PSS with a 4096-bit key and SHA-512 alone are selected. -/
def spdmAlgorithms (asym hash : Nat) : List Byte := [0x12, 0x63] ++ leBytes 4 (if asym / 2 ^ 6 % 2 = 1 then 2 ^ 6 else 0) ++ leBytes 4 (if hash / 2 ^ 2 % 2 = 1 then 2 ^ 2 else 0)

def certDigest : List Byte := Config.sha512 Config.certChain

/-- The part of slot 0's chain that a GET_CERTIFICATE asks for. -/
def certPart (slot off len : Nat) : List Byte :=
  if slot = 0 then [0x12, 0x02] ++ (Config.certChain.drop off).take len else spdmError

/-- A signed report: its content and the identity key's signature. -/
def signedReport (code : Byte) (content nonce : List Byte) : List Byte := [0x12, code] ++ content ++ nonce ++ Config.sign (content ++ nonce)

/-- Measurement blocks 1 to 8 are the stage-2 registers; 255 names all, 0 their number. -/
def HostSide.measurement (h : HostSide) (index : Nat) : Option (List Byte) :=
  if index = 0 then some [8]
  else if index = 255 then some h.measure.flatten
  else if index ≤ 8 then some (h.measure.getD (index - 1) [])
  else none

/-! ### Events -/

/-- pwrgood (R417). -/
def execPwrgood (sigOk : Bool) (images : List (List Byte)) (straps : List Nat) (fwd : List Nat) (s : State) : Res :=
  .next (s.powerUp sigOk images straps fwd)

/-- ucie link training (R417). -/
def execUcieLinkTraining (ok : Bool) (images : List (List Byte)) (s : State) : Res :=
  .next (s.trainUcie ok images)

/-- tier1 channel training (R417). -/
def execTier1ChannelTraining (ok : Bool) (s : State) : Res :=
  .next (s.trainTier1 ok)

/-- cxl port training (R411). -/
def execCxlPortTraining (hostsel : List Bool) (hosts : List Bool) (up : PortsUp) (s : State) : Res :=
  .next (s.trainCxl hostsel hosts up)

/-- host cxl mem read (R412). -/
def execHostCxlMemRead (port : Nat) (pa : Nat) (n : Nat) (s : State) : Res :=
  .next (s.hostLoad port pa n)

/-- host cxl mem write (R412). -/
def execHostCxlMemWrite (port : Nat) (pa : Nat) (bytes : List Byte) (s : State) : Res :=
  .next (s.hostStore port pa bytes)

/-- hstat clear (R413). -/
def execHstatClear (v : Word) (s : State) : Res :=
  .next (s.clearHstat v)

/-- get version (R419). -/
def execGetVersion (port : Nat) (s : State) : Res :=
  .next (s.answer port [0x12, 0x04, 0x12])

/-- get capabilities (R419). -/
def execGetCapabilities (port : Nat) (s : State) : Res :=
  .next (s.answer port spdmCapabilities)

/-- negotiate algorithms (R419). -/
def execNegotiateAlgorithms (o : AlgOffer) (s : State) : Res :=
  .next (s.answer o.port (spdmAlgorithms o.asym o.hash))

/-- get digests (R419). -/
def execGetDigests (port : Nat) (s : State) : Res :=
  .next (s.answer port ([0x12, 0x01] ++ certDigest))

/-- get certificate (R419). -/
def execGetCertificate (port : Nat) (slot : Nat) (off : Nat) (len : Nat) (s : State) : Res :=
  .next (s.answer port (certPart slot off len))

/-- challenge (R419). -/
def execChallenge (port : Nat) (nonce : List Byte) (s : State) : Res :=
  .next (s.answer port (signedReport 0x03 certDigest nonce))

/-- get measurements (R419). -/
def execGetMeasurements (port : Nat) (index : Nat) (nonce : List Byte) (s : State) : Res :=
  .next (match s.host.measurement index with
    | some m => s.answer port (signedReport 0x60 m nonce)
    | none => s.answer port spdmError)

/-- package reset (R417). -/
def execPackageReset (s : State) : Res :=
  .next s.resetPackage

/-- host port link down (R411). -/
def execHostPortLinkDown (port : Nat) (s : State) : Res :=
  .next (if port < 2 then s.setHostLink port false else s)

/-- host port link retrain (R411). -/
def execHostPortLinkRetrain (port : Nat) (s : State) : Res :=
  .next (if decide (port < 2) && s.host.hasHost.getD port false && !s.dieGone port then s.setHostLink port true else s)

end Sys2Proof.Machine
end

