-- ==== Sys2Proof/Machine/Sync.lean ====
section
/-! DEFINITION. Acquire, release, fences and ifence, lane transactions and wsleep: majors 0x60 to 0x65, with the events of a
sleeping wave (R81 to R83, R94, R102 to R105, R233 to R244). -/

namespace Sys2Proof.Machine

open Sys2Proof

/-! ### Acquire, release, fences (R82, R83, R104, R233 to R236) -/

/-- Go on once the thread's earlier loads, stores and atomics are done; args: what the instruction read at issue (R173). -/
def State.whenQuiet (s : State) (args : List Word) (k : State → Res) : Res :=
  if s.th.quiet then k s else .next (s.waitWith .memory args)

/-- What `rel` delivers: every pending race, a consumed error of a counted access, and a refusal met by a copy
(R88, R234, R369, R392). -/
def relCovers (p : Pending) : Bool := p.isRace || (p.cause = cUeConsumed && decide (p.ctr ≠ .mx) && p.bar.isNone) || (p.cause = cAccessFault && p.ctr = .fence)

/-- A fence takes its place among the outstanding accesses; it ends when its earlier accesses are performed (R104, R235). -/
def State.fenceAt (s : State) (w : W32) (kind : Nat) (sc : Scope) : Res :=
  s.guarded w fun s =>
    let a : Access := ⟨s.th.seq, .fence, 0, s.th.pc, .fence kind sc.code, .llc, [], [], false, s.th.trapMode, (s.ctx s.th.ctx).phase, s.countAt s.th.core⟩
    .next (({ s with th := { s.th with out := s.th.out ++ [a] } }).retire s.th.uid).adv

/-! ### Transactions (R237 to R241) -/

/-- Transactional accesses of the thread that are not yet performed. -/
def Thread.txPending (t : Thread) : Bool := t.out.any fun a => a.tx && !a.finished

def newTxLane : TxLane := ⟨[], [], [], [], 0⟩

/-- The open lanes that have not aborted, in ascending order. -/
def Tx.survivors (t : Tx) : List (Nat × TxLane) := t.lanes.filter fun p => p.2.aborted = 0

/-- Words of a lane's write set. -/
def TxLane.written (l : TxLane) : List Nat := (l.writes.keys.map (· / 4)).eraseDups

/-- Words of both sets. -/
def TxLane.touched (l : TxLane) : List Nat := l.reads.keys ++ l.written

/-- Step 1 of txe (R240): in ascending order, a lane that meets a lower surviving lane's write set aborts. Answers the
aborted lanes. -/
def txCollide : List Nat → List (Nat × TxLane) → List Nat
  | _, [] => []
  | ws, (j, l) :: rest => if l.touched.any ws.contains then j :: txCollide ws rest else txCollide (ws ++ l.written) rest

/-- A word that lies on another package: package, offset (R368). -/
def remoteWord (w : Nat) : Option (Nat × Nat) := match placeOf (4 * w) 0 with
  | .remote g o _ => some (g, o)
  | _ => none

/-- What a `lock` has answered of a word on another package, in an access of kind record of the running `txe` (R105): its value, or that the
word is refused or lies under an error. -/
def Thread.txAnswer (t : Thread) (w : Nat) : Option Phase :=
  (t.out.find? fun a => a.kind = .record && a.parts.any fun p => p.va = 4 * w).bind fun a => (a.parts.find? fun p => p.va = 4 * w).map (·.phase)

/-- The answer is in: a value that a word can have, an error, or a refusal. -/
def txAnswered : Option Phase → Bool
  | some ph => !ph.onWay
  | none => false

/-- The value of a word at its home at commit, if no other agent holds it with too narrow a scope and it is not under an error
(R99, R105). -/
def State.txWord (s : State) (t : Thread) (w : Nat) : Option Nat :=
  match placeOf (4 * w) 0 with
  | .host i a => some (s.hostGet i a 4)
  | .remote .. => match t.txAnswer w with
    | some (.got v) => if v < 2 ^ 32 then some v else none
    | _ => none
  | _ => if (s.raceCheck (s.ownerOf t) w).isSome || s.wordBad w then none else some (s.homeVal w).toNat

/-- A word that is only written: no other agent holds it with too narrow a scope. -/
def State.txFree (s : State) (t : Thread) (w : Nat) : Bool :=
  match placeOf (4 * w) 0 with
  | .host .. => true
  | .remote .. => (match t.txAnswer w with
    | some (.got v) => decide (v ≠ 2 ^ 32)
    | _ => false)
  | _ => (s.raceCheck (s.ownerOf t) w).isNone

/-- Step 2's test of one lane at the homes (R240). -/
def State.txValid (s : State) (t : Thread) (l : TxLane) : Bool :=
  l.reads.all (fun p => s.txWord t p.1 = some p.2) && l.written.all (s.txFree t)

/-- Bytes of a word that a lane has written, by byte of the word. -/
def TxLane.bytesOf (l : TxLane) (w : Nat) : List (Nat × Byte) :=
  (List.range 4).filterMap fun i => (l.writes.get? (4 * w + i)).map fun b => (i, b)

/-- A deferred UE_CONSUMED of the store that wrote part of a poisoned word (R392). -/
def Thread.txPoisoned (t : Thread) (l : TxLane) (w : Nat) : Thread :=
  match l.stores.get? w with
  | some (seq, k, pc, va) => { t with pending := t.pending ++ [⟨seq, .st, k, cUeConsumed, pc, BitVec.ofNat 64 va, 0, none, false, t.trapMode⟩] }
  | none => t

/-- Write one word of a committing lane: registered to the block, RSCOPE 4 (R105, R240); a part of a poisoned word is not written
(R392); a word of host memory is written there, and one of another package goes with the commit's packet. -/
def State.txWrite (s : State) (u : Nat) (l : TxLane) (w : Nat) : State :=
  let t := s.thread u
  let bs := l.bytesOf w
  match placeOf (4 * w) 0 with
  | .host i a => bs.foldl (fun s x => s.hostSet t.ctx i (a + x.1) 1 x.2.toNat) s
  | .remote g o r =>
    if bs.length < 4 && t.txAnswer w = some (.got (2 ^ 32 + 1)) then s.modThread u (·.txPoisoned l w)
    else s.dropFar t.core (.remote g o r)
  | _ =>
    if bs.length < 4 && s.wordBad w then s.modThread u (·.txPoisoned l w)
    else
      let p := s.who t
      match s.regReq p u w (l.regions.getD w 0) with
      | (s, .ok old) => s.modCore p.core fun c => { c with l1 := c.l1.adjust w fun e => { e with data := overlay l w old, rscope := 4, bad := false } }
      | (s, _) => s

/-- Step 2 of txe for one surviving lane. -/
def State.txCommitLane (s : State) (u : Nat) (j : Nat) (l : TxLane) : State :=
  let s := (l.touched.filter fun w => (remoteWord w).isNone && decide (w < 2 ^ 44)).foldl (fun s w => s.homeLine (s.thread u).ctx w) s
  let t := s.thread u
  if s.txValid t l then
    let s := l.written.foldl (fun s w => s.txWrite u l w) s
    s.modThread u fun t => { t with tx := { t.tx with committed := t.tx.committed ++ [j] } }
  else s.setThread (t.abortTx 1 (· = j))

/-- The words of both sets of every surviving lane. -/
def Tx.words (t : Tx) : List Nat := (t.survivors.flatMap fun p => p.2.touched).eraseDups

/-- The commit must wait: an access of the thread to a word of the sets is still to be performed (R97), or a fence that orders loads or
stores is open (R104). -/
def Thread.txHeld (t : Thread) : Bool := t.out.any fun a => match a.kind with
  | .fence k _ => decide (k < 3)
  | .record => false
  | _ => a.parts.any fun p => !p.phase.final && p.place.isTx &&
      t.tx.words.any fun w => decide (p.place.pa / 4 ≤ w) && decide (w ≤ (p.place.pa + p.n - 1) / 4)

/-- The words of other packages in the sets, with their packages and offsets. -/
def Tx.remotes (t : Tx) : List (Nat × Nat × Nat) := t.words.filterMap fun w => (remoteWord w).map fun x => (w, x)

/-- The words of the sets at this package's homes. -/
def Tx.locals (t : Tx) : List Nat := t.words.filter fun w => decide (w < 2 ^ 44)

/-- The packages whose words a commit holds, in the order in which it takes them: a lower number first, so that no two commits wait for
each other. One whose words lie in its own package takes effect in one step, and holds nothing. -/
def State.txPackages (s : State) : List Nat :=
  let gs := (s.th.tx.remotes.map (·.2.1)).eraseDups
  if gs = [] then [] else ((if s.th.tx.locals = [] then gs else s.pkg :: gs).eraseDups) |> sortBy fun a b => decide (a ≤ b)

/-- No other commit holds a word of the sets at this package's homes. -/
def State.txLocalFree (s : State) : Bool := s.th.tx.locals.all fun w => s.unlocked s.pkg s.th.uid (4 * w) 4

/-- The words of a package are held for the commit, and what they hold is known. -/
def State.txHolds (s : State) (g : Nat) : Bool :=
  s.th.locking.contains g && s.th.tx.remotes.all fun x => x.2.1 ≠ g || txAnswered (s.th.txAnswer x.1)

/-- The next package's words are asked for, or taken where they are the executing package's own, as far as they can be now (R105, R342). -/
def State.txAsk (s : State) : State :=
  match s.txPackages.find? fun g => !s.txHolds g with
  | none => s
  | some g =>
    if s.th.locking.contains g then s
    else if g = s.pkg then
      if !s.txLocalFree then s
      else { s with
        locks := s.locks ++ s.th.tx.locals.map fun w => (s.pkg, s.th.uid, w)
        th := { s.th with locking := s.th.locking ++ [g] } }
    else if !s.canSend g 1 then s
    else
      let xs := s.th.tx.remotes.filter fun x => x.2.1 = g
      let ph := (s.ctx s.th.ctx).phase
      match s.sendPacket g s.th.ctx (s.ownerOf s.th) s.th.pc 0 (.lock s.th.uid (xs.map (·.2.2))) none ph with
      | (s, q) =>
        let a : Access := ⟨s.th.seq, .fence, 0, s.th.pc, .record, .llc, xs.map fun x => ⟨127, 4 * x.1, .remote g x.2.2 0, 4, 0, 0, 0, .sent g q⟩, [], false, s.th.trapMode, ph, s.countAt s.th.core⟩
        { s with th := { s.th with out := s.th.out ++ [a], locking := s.th.locking ++ [g] } }

/-- Every word of the sets is the commit's alone, and the flows take its packets. -/
def State.txReady (s : State) : Bool :=
  s.txLocalFree && s.txPackages.all fun g => s.txHolds g && (g = s.pkg || s.canSend g 1)

/-- The bytes that the committed lanes write in another package's words, in ascending lane order. -/
def Thread.txBytes (t : Thread) (g : Nat) : List (Nat × List (Nat × Byte)) :=
  (t.tx.lanes.filter fun p => t.tx.committed.contains p.1).flatMap fun p => p.2.written.filterMap fun w => match remoteWord w with
    | some (h, o) =>
      let bs := p.2.bytesOf w
      if h = g && !(decide (bs.length < 4) && t.txAnswer w = some (.got (2 ^ 32 + 1))) then some (o, bs) else none
    | none => none

/-- The packets of a commit: to each package that holds words for it, its bytes, and the words are held no longer (R105). -/
def State.txSend (s : State) (u : Nat) : State :=
  let t := s.thread u
  let s := (t.locking.filter (· ≠ s.pkg)).foldl (fun (s : State) g =>
    (s.sendPacket g t.ctx (s.ownerOf t) t.pc 0 (.commit u (t.txBytes g)) none (s.ctx t.ctx).phase).1) s
  if t.locking = [] then s
  else ({ s with locks := s.locks.filter fun x => !(x.1 = s.pkg && x.2.1 = u) }).modThread u fun t => { t with locking := [] }

/-- txe on an open transaction (R240). -/
def State.txCommit (s : State) (u : Nat) : State :=
  let t := s.thread u
  let hit := txCollide [] t.tx.survivors
  let s := s.setThread { (t.abortTx 1 hit.contains) with tx := { (t.abortTx 1 hit.contains).tx with committed := [] } }
  let s := (s.thread u).tx.survivors.foldl (fun s p => s.txCommitLane u p.1 p.2) s
  (s.txSend u).modThread u fun t => { t with tx := { t.tx with isOpen := false, ncommit := t.tx.committed.length, lanes := [] } }

/-! ### wsleep (R242 to R244) -/

/-- What one evaluation found. -/
inductive Eval where
  | value (v : Nat)
  /-- Refused by R243: the registration is too narrow, or the place cannot be reached now. -/
  | refused
  /-- Still to be performed: an earlier access of the wave to the word comes first (R97), or a reply is on its way. -/
  | later
  | bad
  /-- The Seedbank it names has gone offline, or is lost: ACCESS_FAULT code 16 (R402). -/
  | offline
  deriving DecidableEq, Repr

/-- A remote word is read by a packet; its reply stands in an access of kind record. -/
def State.sleepRemote (s : State) (u va pkg o region : Nat) (final : Bool) : State × Eval :=
  let t := s.thread u
  match (t.out.find? fun a => a.kind = .record && a.parts.any fun p => p.va = va).bind fun a => (a.parts.find? fun p => p.va = va).map (·.phase) with
  | some ph =>
    let gone := s.setThread { t with out := t.out.filter fun a => a.kind ≠ .record }
    match ph with
    | .got v => (gone, .value v)
    | .poisoned => (gone, .bad)
    | .sent .. => (s, .later)
    | _ => (gone, .refused)
  | none =>
    if !s.canSend pkg 1 then (s, .later) else
    let ph := (s.ctx t.ctx).phase
    match s.sendPacket pkg t.ctx (s.ownerOf t) t.pc o (.eval final 8) none ph with
    | (s, q) =>
      let a : Access := ⟨t.seq, .fence, 0, t.pc, .record, .llc, [⟨127, va, .remote pkg o region, 8, 0, 0, 0, .sent pkg q⟩], [], false, t.trapMode, ph, s.countAt t.core⟩
      (s.setThread { t with out := t.out ++ [a] }, .later)

/-- One evaluation of the 8-byte word at its performing place (R243); final: without the scope check. -/
def State.sleepRead (s : State) (u va : Nat) (final : Bool) : State × Eval :=
  let t := s.thread u
  match s.reach t .load none va 8 with
  | (s, .error f) => (s, if f = .trap 5 16 then .offline else .refused)
  | (s, .ok pl) => if !t.readsNow va 8 pl || !s.placeReady t.core u pl 8 then (s, .later) else match pl with
    | .mem pa _ =>
      let w := pa / 4
      let s := s.homeLine t.ctx w
      if (s.thread u).life = .stopped then (s, .later) else
      let o := s.ownerOf t
      if !final && ((s.raceCheck o w).isSome || (s.raceCheck o (w + 1)).isSome) then (s, .refused)
      else if s.wordBad w || s.wordBad (w + 1) then (s, .bad)
      else (s, .value ((s.homeVal w).toNat + 2 ^ 32 * (s.homeVal (w + 1)).toNat))
    | .loc o =>
      let s := s.readLocal t.blk o 8
      if (s.block t.blk).lsBad o 8 then (s, .bad) else (s, .value ((s.block t.blk).lsRead o 8))
    | .seed o => if s.seedBad o then (s, .bad) else (s.touchDie t.ctx (o / 2 ^ 26), .value (s.seedRead o 8))
    | .host i a => (s.touchDie t.ctx i, .value (s.hostGet i a 8))
    | .remote pkg o r => s.sleepRemote u va pkg o r final

/-- The conditions of wsleep (R242). -/
def sleepCond (cc v : Nat) (cmp : Word) : Bool :=
  let x := BitVec.ofNat 64 v
  match cc with
  | 0 => x = cmp
  | 1 => x ≠ cmp
  | 2 => cmp.sle x
  | _ => cmp.ule x

/-- Whether the word stands at a home LLC or on another package; a Seedbank, local-store or host word is read as it is each time. -/
def State.sleepsHome (s : State) (t : Thread) (va : Nat) : Bool := match (s.reach t .load none va 8).2 with
  | .ok (.mem ..) => true
  | .ok (.remote ..) => true
  | .ok _ => false
  | .error _ => true

/-- An evaluation is due: the first; at a wake event, which a write at the place is; after 1 µs where R243 repeats it; or a reply
has been asked for (R242, R243). -/
def State.sleepDue (s : State) (t : Thread) (w : Wait) (va : Nat) : Bool :=
  (w.last.isNone && w.again.isNone) || s.woken.contains t.uid || w.again.any (fun a => decide (a + 1000 ≤ s.now)) ||
    t.out.any (fun a => a.kind = .record) || !s.sleepsHome t va

/-- The watch-table entry of a word: its die, and the number of the 8-byte word, Seedbank words after the others (R243). -/
def State.watchPlace (s : State) (va : Nat) (t : Thread) : Option (Nat × Nat) :=
  match (s.reach t .load none va 8).2 with
  | .ok (.mem pa _) => some (homeDie pa, pa / 8)
  | .ok (.seed o) => some (o / 2 ^ 26, 2 ^ 49 + o / 8)
  | _ => none

/-- Take a watch-table entry, in place of any other, where the table of 4096 has room (R16, R243). -/
def State.watchEnter (s : State) (u va : Nat) : State :=
  let s := s.watchLeave u
  match s.watchPlace va (s.thread u) with
  | some (d, n) => if (s.watch.filter fun x => x.2.1 = d).length < 4096 then { s with watch := (u, d, n) :: s.watch } else s
  | none => s

/-- The thread holds the entry of the word, or needs none. -/
def State.watches (s : State) (u va : Nat) : Bool := match s.watchPlace va (s.thread u) with
  | some (d, n) => s.watch.contains (u, d, n)
  | none => false

/-- What an evaluation of a word leaves: the wake is used up, and without a table entry, or refused, it is made again
after 1 µs. -/
def State.sleepSeen (s : State) (u va : Nat) (refused : Bool) (f : Wait → Wait) : State :=
  let again := if refused || !s.watches u va then some s.now else none
  let s : State := { s with woken := s.woken.filter (· ≠ u) }
  s.modThread u fun t => { t with wait := t.wait.map fun w => f { w with again := again } }

/-- What a wait holds of ACCESS_FAULT with code 16 (R377, R402). -/
def sleepOffline : Nat := 2 ^ 40 * cAccessFault + (faultInfo .load 127 16).toNat

/-- An evaluation for a sleeping thread, where one is due: a value is kept, and the wait ends where the condition holds (R242). -/
def State.sleepEval (s : State) (u : Nat) : State :=
  match (s.thread u).wait with
  | some w => match w.kind with
    | .sleep cc va cmp =>
      if w.result.isSome || w.fail.isSome || !s.sleepDue (s.thread u) w va then s
      else match s.sleepRead u va false with
        | (s, .value v) => s.sleepSeen u va false fun w => { w with last := some v, result := if sleepCond cc v cmp then some v else none }
        | (s, .refused) => s.sleepSeen u va true id
        | (s, .later) => s
        | (s, .bad) => s.sleepSeen u va false fun w => { w with fail := some (2 ^ 40 * cUeConsumed) }
        | (s, .offline) => s.sleepSeen u va false fun w => { w with fail := some sleepOffline }
    | _ => s
  | none => s

/-- The timeout of a sleeping thread (R242, R243): the last value read, or a final read without the scope check. -/
def State.sleepTimeout (s : State) (u : Nat) : State :=
  let t := s.thread u
  match t.wait with
  | some w => match w.kind with
    | .sleep _ va _ =>
      if w.result.isSome || w.fail.isSome || t.wtimeout.toNat = 0 || decide (s.timeOf t - w.since < t.wtimeout.toNat) then s
      else match w.last with
        | some v => s.modThread u fun t => { t with wait := t.wait.map fun w => { w with result := some v } }
        | none => match s.sleepRead u va true with
          | (s, .value v) => s.modThread u fun t => { t with wait := t.wait.map fun w => { w with result := some v } }
          | (s, .refused) => s
          | (s, .later) => s
          | (s, .bad) => s.modThread u fun t => { t with wait := t.wait.map fun w => { w with fail := some (2 ^ 40 * cUeConsumed) } }
          | (s, .offline) => s.modThread u fun t => { t with wait := t.wait.map fun w => { w with fail := some sleepOffline } }
    | _ => s
  | none => s

/-- A wave that resumes in its sleep takes an entry again and evaluates (R243). -/
def State.sleepResume (s : State) (u : Nat) : State := match (s.thread u).wait with
  | some w => (match w.kind with
    | .sleep _ va _ => { s.watchEnter u va with woken := u :: s.woken }
    | _ => s)
  | none => s

/-- The sleep ends with a value (R242). -/
def State.sleepEnd (s : State) (d : Reg) (v : Nat) : Res :=
  let s := (s.watchLeave s.th.uid).dropRecords
  .next ({ s with th := { s.th with emulated := none } }.sset d (BitVec.ofNat 64 v)).adv

/-- The trap a wait has found (R44, R56, R245, R392). -/
def State.waitTrap (s : State) (f : Nat) : Res :=
  if f / 2 ^ 40 = 0 then s.raise cIllegalWait 0 (BitVec.ofNat 64 f) else s.raise (f / 2 ^ 40) 0 (BitVec.ofNat 64 (f % 2 ^ 40))

/-- The trap an evaluation has found: ACCESS_FAULT names the address (R376, R402). -/
def State.sleepTrap (s : State) (va : Nat) (f : Nat) : Res :=
  if f / 2 ^ 40 = cAccessFault then s.raise cAccessFault (BitVec.ofNat 64 va) (BitVec.ofNat 64 (f % 2 ^ 40)) else s.waitTrap f

/-- After an evaluation: the wave goes on, traps, or sleeps. -/
def State.sleepGo (s : State) (d : Reg) (va : Nat) (k : WaitKind) : Res :=
  let s := (s.sleepEval s.th.uid).sleepTimeout s.th.uid
  match s.waitResult k, s.waitFail with
  | some v, _ => s.sleepEnd d v
  | none, some f => ((s.watchLeave s.th.uid).dropRecords).sleepTrap va f
  | none, none => .next s

/-- wsleep under condition cc (R242). -/
def State.wsleep (s : State) (w : W32) (cc : Nat) (d a b : Reg) : Res :=
  s.guarded w fun s =>
    let va := (s.src 0 a).toNat
    let k : WaitKind := .sleep cc va (s.src 1 b)
    if s.emulates 127 then s.sleepEnd d (match s.th.emulated with
      | some (_, data) => data
      | none => 0)
    else if s.th.wait.any fun x => x.kind = k then s.sleepGo d va k
    else match s.reach s.th .load none va 8 with
      | (s, .error f) => s.flawed .load 127 va f false []
      | (s, .ok _) => ((s.waitWith k [s.src 0 a, s.src 1 b]).watchEnter s.th.uid va).sleepGo d va k

/-! ### Instructions -/

/-- acq (R83). -/
def execAcq (a : Reg) (sc : Scope) (s : State) : Res :=
  s.guarded (encRr 0x60 sc.code 0 a 0) fun s =>
    let m := s.src 0 a
    s.whenQuiet [m] fun s => .next (if sc = .blk then s else s.selfInvalidate s.th.core m).adv

/-- rel (R82). -/
def execRel (sc : Scope) (s : State) : Res :=
  s.guarded (encRr 0x61 sc.code 0 0 0) fun s =>
    if s.th.quietHere then s.trapPoint relCovers fun s => .next (s.raiseScope (s.ownerOf s.th) (sc.code + 1)).adv
    else .next (s.waitAt .memory)

/-- fence (R104). -/
def execFence (sc : Scope) (s : State) : Res :=
  s.fenceAt (encRr 0x62 (sc.code + 0) 0 0 0) 0 sc

/-- fence_ss (R104). -/
def execFenceSs (sc : Scope) (s : State) : Res :=
  s.fenceAt (encRr 0x62 (sc.code + 4) 0 0 0) 1 sc

/-- fence_ll (R104). -/
def execFenceLl (sc : Scope) (s : State) : Res :=
  s.fenceAt (encRr 0x62 (sc.code + 8) 0 0 0) 2 sc

/-- fence_io (R104). -/
def execFenceIo (sc : Scope) (s : State) : Res :=
  s.fenceAt (encRr 0x62 (sc.code + 12) 0 0 0) 3 sc

/-- ifence (R236). -/
def execIfence (s : State) : Res :=
  s.guarded (encRr 0x63 0 0 0 0) fun s =>
    .next (s.modCore s.th.core fun c => { c with ibuf := [], unfilled := [], fetching := [] }).adv

/-- txb (R237). -/
def execTxb (s : State) : Res :=
  s.guarded (encRr 0x64 0 0 0 0) fun s =>
    if s.th.txPending then .next (s.waitAt .memory)
    else .next { s with th := { s.th with tx := ⟨true, 0, 0, 127, 0, false, s.activeLanes.map fun j => (j, newTxLane), []⟩ } }.adv

/-- txe (R240). -/
def execTxe (s : State) : Res :=
  s.guarded (encRr 0x64 1 0 0 0) fun s =>
    if s.th.txPending || (s.th.tx.isOpen && s.th.txHeld) then .next (s.waitAt .memory)
    else if s.th.tx.isOpen then
      let s := s.txAsk
      if s.txReady then .next ((s.txCommit s.th.uid).dropRecords).adv else .next (s.waitAt .memory)
    else .next { s with th := { s.th with tx := { s.th.tx with committed := [], ncommit := 0 } } }.adv

/-- txa (R237). -/
def execTxa (s : State) : Res :=
  s.guarded (encRr 0x64 2 0 0 0) fun s => .next { s with th := s.th.abortTx 3 s.active }.adv

/-- txs (R237). -/
def execTxs (d : Reg) (s : State) : Res :=
  s.guarded (encRr 0x64 3 d 0 0) fun s => .next (s.tset d s.th.tx.committed.contains).adv

/-- wsleep_eq (R242). -/
def execWsleepEq (d : Reg) (a : Reg) (b : Reg) (s : State) : Res :=
  s.wsleep (encRr 0x65 0 d a b) 0 d a b

/-- wsleep_ne (R242). -/
def execWsleepNe (d : Reg) (a : Reg) (b : Reg) (s : State) : Res :=
  s.wsleep (encRr 0x65 1 d a b) 1 d a b

/-- wsleep_ge (R242). -/
def execWsleepGe (d : Reg) (a : Reg) (b : Reg) (s : State) : Res :=
  s.wsleep (encRr 0x65 2 d a b) 2 d a b

/-- wsleep_geu (R242). -/
def execWsleepGeu (d : Reg) (a : Reg) (b : Reg) (s : State) : Res :=
  s.wsleep (encRr 0x65 3 d a b) 3 d a b

/-! ### Events of a sleeping wave (R242, R243) -/

/-- wsleep_wake_event (R243). -/
def execWsleepWakeEvent (uid : Nat) (s : State) : Res :=
  .next (s.sleepEval uid)

/-- wsleep_reevaluation (R243). -/
def execWsleepReevaluation (uid : Nat) (s : State) : Res :=
  .next (s.sleepEval uid)

/-- wsleep_timeout (R242). -/
def execWsleepTimeout (uid : Nat) (s : State) : Res :=
  .next (s.sleepTimeout uid)

end Sys2Proof.Machine
end

