-- ==== Sys2Proof/Machine/Waits.lean ====
section
/-! DEFINITION. waitc, barriers, the Trellis, launch, exit and successors, yield, stage queues, quotas, fork and rendez: majors
0x2C and 0x66 to 0x6F (R44, R54, R55, R60 to R64, R191, R245 to R265). -/

namespace Sys2Proof.Machine

open Sys2Proof

/-! ### waitc (R191) -/

/-- The field of waitc for one counter is met. -/
def Thread.within (t : Thread) (c : Ctr) (f : Reg) : Bool := f = 127 || decide (t.count c ≤ f.toNat)

/-- A waitc covers an instruction when its field is below the number issued from that instruction onward (R191). -/
def Thread.waitCovers (t : Thread) (l st m : Reg) (p : Pending) : Bool :=
  let f := match p.ctr with
    | .ld => l
    | .st => st
    | _ => m
  p.bar.isNone && f ≠ 127 && decide (f.toNat + p.k < t.issued p.ctr)

/-! ### Barriers (R248 to R254) -/

/-- The barrier an operand names (R249). -/
def State.withBar (s : State) (v : Word) (k : Nat → Res) : Res :=
  let n := v.toNat % 1024
  if s.blk.barCount ≤ n then s.raise cLocalBounds 0 1 else k n

/-- Record a value for every wave of the running block that waits at `bar`. -/
def State.releaseBar (s : State) (blk : Nat) : State :=
  let s := s.modBlock blk fun b => { b with atBar := [], barDone := b.barDone + 1 }
  (s.block blk).waves.foldl (fun s u => s.modThread u (·.mapWait fun w =>
    if w.kind = .bar && w.result.isNone then { w with result := some 0 } else w)) s

/-- The wave arrives at `bar`: the last one releases all (R248). -/
def State.arriveBar (s : State) : Res :=
  let s := s.modBlock s.th.blk fun b => { b with atBar := s.th.wib :: b.atBar }
  if s.blk.waves.all fun u => s.blk.atBar.contains (s.thread u).wib then .next (s.releaseBar s.th.blk).adv
  else .next (s.waitAt .bar)

/-- The trap of a wait of R44: the check is made when the wait begins, and again where a target exits or the wave resumes, which mark
the wait (R44, R245, R246). -/
def State.waitFault (s : State) (k : WaitKind) : Option Nat := if s.inWait k then s.waitFail else s.waitFails s.blk k

/-- A check that failed while the instruction waited, or a deadlock found, comes before whatever has ended the wait since (R56, R245). -/
def State.unlessFailed (s : State) (k : WaitKind) (go : Res) : Res := match (if s.inWait k then s.waitFail else none) with
  | some f => s.waitTrap f
  | none => go

/-- What is left of a `copym` follow-on's trap is taken at the next nbwait or nbtest on its barrier (R295). -/
def barCovers (n : Nat) (p : Pending) : Bool := p.bar = some n

/-- The wait of nbwait (R253): a status ends it unchecked; then R44 is checked, and the phase waited for. An arrival-mode wait ends with
an acquire at block scope. -/
def State.nbWait (s : State) (d : Reg) (v : Word) (n : Nat) : Res :=
  let x := s.blk.bar n
  let p := v.getLsbD 16
  let k : WaitKind := .nb n p
  let done (s : State) (v' : Nat) : Res :=
    if x.sector || s.th.quiet then .next (s.sset d (BitVec.ofNat 64 v')).adv else .next (s.waitDone k [v] v')
  s.unlessFailed k <| match s.waitResult k with
  | some r => done s r
  | none =>
    if x.status ≠ 0 then .next (s.sset d (BitVec.ofNat 64 x.value)).adv
    else match s.waitFault k with
      | some f => s.waitTrap f
      | none => if x.phase != p then done s (x.comp.getD x.value) else .next (s.waitWith k [v])

/-! ### The Trellis (R255, R256) -/

/-- The identifier, if it is bound to the thread's context (R255). -/
def State.withTrellis (s : State) (v : Word) (k : State → Nat → Trellis → Res) : Res :=
  let id := v.toNat % 64
  let s := s.trellisDue id
  match s.trellis.get? id with
  | some t => if t.ctx = s.th.ctx && t.n ≠ 0 then k s id t else s.raise cAccessFault 0 4
  | none => s.raise cAccessFault 0 4

/-- One arrival: the N-th is released 48 ns later, and later arrivals count toward the next generation. -/
def State.trellisArrive (s : State) (id : Nat) : State :=
  { s with trellis := s.trellis.adjust id fun t =>
      if t.n ≤ t.count + 1 then { t with count := 0, due := t.due ++ [s.now + 48] } else { t with count := t.count + 1 } }

/-- The wait of tbwait and tbar for generation g, after its check; v: the operand. -/
def State.trellisWait (s : State) (d : Reg) (v : Word) (id : Nat) (g : Bool) : Res :=
  let s := s.trellisDue id
  s.unlessFailed (.trellis id g) <| match s.waitResult (.trellis id g), s.trellis.get? id with
  | some r, _ => .next (s.sset d (BitVec.ofNat 64 r)).adv
  | none, some t =>
    if t.gen != g || decide (t.status ≠ 0) then .next (s.sset d (BitVec.ofNat 64 t.value)).adv
    else .next (s.waitWith (.trellis id g) [v])
  | none, none => s.raise cAccessFault 0 4

/-- The generation a running wait on the identifier waits for. -/
def State.trellisWaiting (s : State) (id : Nat) : Option Bool :=
  match s.th.wait with
  | some w => match w.kind with
    | .trellis i g => if i = id then some g else none
    | _ => none
  | none => none

/-! ### Launch and successors (R36 to R41, R61 to R64, R257, R258) -/

/-- The words of a launch record that a wait keeps while the role table is still read: the record is read once (R257). -/
def State.keptRecord (s : State) : Option (List Byte) := match s.th.wait with
  | some w => if w.kind = .memory && w.args.length = 9 then some ((w.args.drop 1).flatMap fun x => leBytes 8 x.toNat) else none
  | none => none

/-- The 8-byte words a record's bytes make. -/
def recordArgs (b : List Byte) : List Word := (List.range 8).map fun i => BitVec.ofNat 64 (fld b (8 * i) 8)

/-- The launch record at an address, with its role table, both read before anything is validated (R38, R257): of a table at an address
that is no multiple of 8, the words that hold its bytes (log 28). -/
def State.readLaunch (s : State) (va : Word) (k : State → List Byte → List Byte → Res) : Res :=
  let table (s : State) (b : List Byte) : Res :=
    let n := fld b 29 1
    let p := fld b 32 8
    if n = 0 then k s.dropRecords b []
    else s.withRecord (p / 8 * 8) (if p % 8 = 0 then 4 * n else 4 * n + 1) (va :: recordArgs b) fun s tb => k s.dropRecords b tb
  if va.toNat % 64 ≠ 0 then s.raise cMisaligned va 0
  else match s.keptRecord with
    | some b => table s b
    | none => s.withRecord va.toNat 8 [va] table

/-- The launcher's die, none for a Frailor core (R49). -/
def Thread.die (t : Thread) : Option Nat := if t.frailor then none else some (dieOf t.core)

/-- Validate and accept (R36, R37): the status and the task's number. -/
def State.launchRecord (s : State) (va : Word) (b tb : List Byte) : State × Nat × Nat :=
  match s.parseRecord b tb va.toNat s.th.ctx s.th.privileged false with
  | none => (s, 2, 0)
  | some r => s.accept r s.th.die (if s.th.frailor then none else some s.blk.task) none 0 false

/-- The word of an ended task, after an acquire of every region, which earlier accesses come before (R257). -/
def State.launchEnd (s : State) (d : Reg) (v : Nat) : Res :=
  if s.th.quiet then .next ((s.selfInvalidate s.th.core (BitVec.allOnes 64)).sset d (BitVec.ofNat 64 v)).adv else .next s

/-- The task a running `launch.wait` waits for. -/
def State.taskWaited (s : State) : Option Nat := match s.th.wait with
  | some w => (match w.kind with
    | .task u => some u
    | _ => none)
  | none => none

/-- Commands of a wave's own copies that Barrow still runs (R61). -/
def State.copying (s : State) (u : Nat) : Bool := (s.core s.th.core).barrow.any fun c => c.thr = u

/-- Join the lists named (R264, R265): wait for their ends, then take their traps precisely, the Lattice list's first where both hold one
(DESIGN CHOICE, log 79); args: what the instruction read. -/
def State.join (s : State) (lat bar : Bool) (args : List Word) (k : State → Res) : Res :=
  let core := s.core s.th.core
  let u := s.th.uid
  let busy (l : Option EList) : Bool := l.any fun x => !x.ended && x.trap.isNone
  if (lat && (busy s.th.latList || core.latq.any fun c => c.thr = u && c.list = some .lattice)) ||
      (bar && (busy s.th.barList || core.barrow.any fun c => c.thr = u && c.fromList)) then .next (s.waitWith .engine args)
  else match (if lat then s.th.latList.bind (·.trap) else none) with
    | some (c, a, i) => ({ s with th := { s.th with latList := none } }).raise c (BitVec.ofNat 64 a) (BitVec.ofNat 64 i)
    | none =>
      let s := if lat then { s with th := { s.th with latList := none } } else s
      match (if bar then s.th.barList.bind (·.trap) else none) with
      | some (c, a, i) => ({ s with th := { s.th with barList := none } }).raise c (BitVec.ofNat 64 a) (BitVec.ofNat 64 i)
      | none => k (if bar then { s with th := { s.th with barList := none } } else s)

/-- What exit and exit.succ complete before the wave leaves (R258). -/
def State.finish (s : State) (args : List Word) (k : State → Res) : Res :=
  if s.th.out.any (fun a => a.kind ≠ .record) || s.copying s.th.uid then .next (s.waitWith .exiting args)
  else s.join true true args fun s => s.trapPoint (fun _ => true) k

/-- Every other wave of the block has left. -/
def State.lastWave (s : State) : Bool := s.blk.waves.all fun u => u = s.th.uid || (s.thread u).gone

/-- R63: the successor asks for no more than the block holds; waves and quotas count a dual block's shadows on either side (DESIGN
CHOICE, log 63). -/
def Record.fitsIn (r : Record) (b : Block) : Bool :=
  decide (r.waves ≤ b.nwaves) && decide (r.lsBytes ≤ b.lsBytes) && decide (r.accBanks ≤ b.accBanks) &&
    decide (r.regs ≤ b.regs) && decide (r.slots ≤ b.slots)

/-- The successor block on the parent's core (R62): it keeps local store, barriers and tiles. -/
def succBlock (p : Block) (u : Nat) (t : Task) (now : Nat) : Block :=
  let r := t.record
  let b := mkBlock u 0 t true
  { b with
    core := p.core, resident := true, slot := p.slot, pages := p.pages.take (r.lsBytes / 4096)
    ls := p.ls.filter fun x => decide (x.1 < r.lsBytes)
    lsPoison := p.lsPoison.filter fun x => decide (4 * x.1 < r.lsBytes)
    tags := p.tags.filter fun x => decide (4096 * x.1 < r.lsBytes)
    bars := p.bars.filter fun x => decide (x.1 < r.lsBytes / 1024)
    tiles := p.tiles, accBanks := max r.accBanks ((p.tiles.vals.map (·.bands)).sum), residentSince := now }

/-- The last wave leaves by exit.succ: its block ends and the successor starts (R62). The successor's estimate is neither tested nor charged
(DESIGN CHOICE, log 69). -/
def State.succeed (s : State) (r : Record) : State :=
  let t := s.th
  let s := { s with th := { t with life := .exited, wait := none, vreg := [], bound := [] } }
  let s := match t.partner with
    | some v => s.modThread v fun x => { x with life := .exited, wait := none, vreg := [], bound := [] }
    | none => s
  let s := s.modBlock t.blk fun b => { b with
    exits := b.exits + 1, tiles := b.tiles.map fun p => (p.1, { p.2 with claims := p.2.claims.filter (·.2 ≠ t.wib) }) }
  let s := s.recheck t.blk
  let p := s.block t.blk
  let slot := (s.tasks.get? p.task).bind (·.slot)
  let die := ((s.tasks.get? p.task).map (·.die)).getD 0
  let s := s.releaseBlock t.blk false
  let s := s.modTask p.task fun k => { k with
    ended := k.ended + 1, counted := k.counted + (if p.halts = 0 then 1 else 0)
    status := if p.halts = 0 then k.status else max k.status 1 }
  let s := match s.tasks.get? p.task with
    | some k => if k.record.blocks ≤ k.ended then s.taskEnd p.task else s
    | none => s
  let k : Task := { s.newTask r (some die) (some p.task) none 0 false with die := die, slot := slot, placed := 1 }
  let b := succBlock p (s.nextUid + 1) k s.now
  let s := { s with nextUid := s.nextUid + 128, tasks := s.tasks.set k.uid k }
  let s := s.modCtx r.ctx fun c => { c with spillFree := c.spillFree - r.areas }
  (s.startBlock b r).trellisAbandon

/-- The successor's record as R36 reads it, with one block. -/
def State.succRecord (s : State) (va : Word) (b tb : List Byte) : Option Record :=
  let b1 := b.take 16 ++ [1, 0, 0, 0] ++ b.drop 20
  match s.parseRecord b1 tb va.toNat s.th.ctx false false with
  | some r => if r.fitsIn s.blk && !s.overBudget r then some r else none
  | none => none

/-! ### Stage queues (R54, R55, R260) -/

/-- The declared queue an operand names (R260). -/
def State.withQueue (s : State) (v : Word) (k : Nat → Queue → Res) : Res :=
  let q := v.toNat % 16
  match s.blk.queues.get? q with
  | some x => k q x
  | none => s.raise cLocalBounds 0 3

def Queue.slot (q : Queue) : Nat := 32 * 2 ^ q.code

/-- Where slot n stands in the block's window while the base segment holds it: its slots are taken round after the header (R39; DEDUCED,
log 80). -/
def Queue.at (q : Queue) (n : Nat) : Nat := q.base + 64 + q.slot * (n % max q.depth 1)

/-- The head slot stands in local store. -/
def Queue.headLocal (q : Queue) : Bool := (q.segs.find? fun x => x.2 ≠ []).any (·.1)

/-- A slot of local store is written whole: a planted error in it is cleared, and no word of it lies under an error (R392, R423). -/
def State.coverSlot (s : State) (blk o n : Nat) : State :=
  (s.coverLocal blk o n).modBlock blk fun b => { b with lsPoison := b.lsPoison.filter fun p => !(decide (o ≤ 4 * p.1) && decide (4 * p.1 < o + n)) }

/-- The checks of a slot-sized local-store range (R260). -/
def State.withSlot (s : State) (v : Word) (q : Queue) (k : Nat → Res) : Res :=
  let o := v.toNat
  if o % 32 ≠ 0 then s.raise cMisaligned (BitVec.ofNat 64 o) 0
  else if s.blk.usable < o + q.slot then s.raise cLocalBounds (BitVec.ofNat 64 o) 0
  else k o

/-- A slot written at the tail (R55): into the newest segment, or into a base segment that was drained. -/
def Queue.push (q : Queue) (x : List Byte) : Queue :=
  match q.segs.reverse with
  | (m, l) :: rest =>
    if l.length < q.depth then { q with segs := (((m, l ++ [x]) :: rest)).reverse } else { q with segs := q.segs ++ [(true, [x])] }
  | [] => { q with segs := [(true, [x])] }

/-- The segments without the head slot, and its bytes; whether an extension was drained and returns to the pool (R55). -/
def popSegs : List (Bool × List (List Byte)) → Option (List Byte × List (Bool × List (List Byte)) × Bool)
  | (m, x :: l) :: rest =>
    if l = [] && !(rest = [] && m) then some (x, if rest = [] then [(true, [])] else rest, !m)
    else some (x, (m, l) :: rest, false)
  | (true, []) :: (m, x :: l) :: rest => some (x, (m, l) :: rest, false)
  | _ => none

/-- The head slot, and the queue without it; whether an extension was drained. -/
def Queue.pop (q : Queue) : Option (List Byte × Queue × Bool) :=
  (popSegs q.segs).map fun r => (r.1, { q with segs := r.2.1, head := q.head + 1, bad := q.bad.filter (· ≠ q.head) }, r.2.2)

/-! ### Quotas (R58, R60, R261) -/

/-- Set a wave's quota: past it, the least recently used registers are spilled. -/
def Thread.setQuota (t : Thread) (q : Nat) : Thread := { t with quota := q, bound := t.bound.take q }

/-- The quota of a wave and of its shadow. -/
def State.setQuota (s : State) (u q : Nat) (fixq : Bool) : State :=
  let s := s.modThread u fun t => { t.setQuota q with fixq := fixq }
  match (s.thread u).partner with
  | some v => s.modThread v fun t => { t.setQuota q with fixq := fixq }
  | none => s

/-- The status and effect of qset (R261). -/
def State.quotaSet (s : State) (role q : Nat) (fixq : Bool) : State × Nat :=
  let b := s.blk
  let others := (b.waves.filter fun u => (s.thread u).role ≠ role).map fun u => (s.thread u).quota
  let mine := s.roleWaves b role
  if s.th.role ≠ 0 then (s, 2)
  else if q < 8 || 512 < q || b.roles.length ≤ role then (s, 3)
  else if b.quotaTotal < others.sum + mine.length * q then (s, 1)
  else (mine.foldl (fun s u => s.setQuota u q fixq) s, 0)

/-! ### Instructions -/

/-- waitc (R191). -/
def execWaitc (l : Reg) (sc : Reg) (m : Reg) (s : State) : Res :=
  s.guarded (encRr 0x2C 0 l sc m) fun s =>
    if s.th.within .ld l && s.th.within .st sc && s.th.within .mx m then
      s.trapPoint (s.th.waitCovers l sc m) fun s => .next s.adv
    else .next (s.waitAt .waitc)

/-- bar (R248). -/
def execBar (s : State) : Res :=
  s.guarded (encRr 0x66 0 0 0 0) fun s =>
    s.unlessFailed .bar <| match s.waitResult .bar with
    | some _ => .next s.adv
    | none => match s.waitFault .bar with
      | some f => s.waitTrap f
      | none => if s.th.wait.any fun x => x.kind = .bar then .next s
        else s.whenQuiet [] fun s => (s.raiseScope (s.ownerOf s.th) 1).arriveBar

/-- nbinit (R253). -/
def execNbinit (a : Reg) (b : Reg) (s : State) : Res :=
  s.guarded (encRr 0x67 0 0 a b) fun s => s.withBar (s.sget a) fun n =>
    let v := (s.sget b).toNat
    let x : Barrier := { Barrier.reset with sector := hasBit v 31, expected := v % 2 ^ 24 }
    let s := s.blk.waves.foldl (fun s u => s.modThread u (·.mapWait fun w => match w.kind with
      | .nb m _ => if m = n && w.result.isNone then { w with result := some { x with status := 1 }.value } else w
      | _ => w)) s
    .next (s.modBlock s.th.blk fun b => { b with bars := b.bars.set n x }).adv

/-- nbexp (R253). -/
def execNbexp (a : Reg) (b : Reg) (s : State) : Res :=
  s.guarded (encRr 0x67 1 0 a b) fun s => s.withBar (s.sget a) fun n =>
    let x := s.blk.bar n
    let e := x.expected + (s.sget b).toNat % 2 ^ 24
    if 2 ^ 24 ≤ e then s.raise cLocalBounds 0 2 else .next (s.setBar s.th.blk n { x with expected := e }.test).adv

/-- nbarr (R253). -/
def execNbarr (a : Reg) (s : State) : Res :=
  s.guarded (encRr 0x67 2 0 a 0) fun s => s.withBar (s.src 0 a) fun n => s.whenQuiet [s.src 0 a] fun s =>
    let s := s.raiseScope (s.ownerOf s.th) 1
    let x := s.blk.bar n
    let y := { x with
      arrived := (x.arrived + 1) % 2 ^ 24
      amask := if x.sector || x.amask.contains s.th.wib then x.amask else s.th.wib :: x.amask }
    .next (s.setBar s.th.blk n y.test).adv

/-- nbwait (R253). -/
def execNbwait (d : Reg) (a : Reg) (s : State) : Res :=
  s.guarded (encRr 0x67 3 d a 0) fun s => s.withBar (s.src 0 a) fun n => s.trapPoint (barCovers n) fun s => s.nbWait d (s.src 0 a) n

/-- nbtest (R253). -/
def execNbtest (d : Reg) (a : Reg) (s : State) : Res :=
  s.guarded (encRr 0x67 4 d a 0) fun s => s.withBar (s.sget a) fun n => s.trapPoint (barCovers n) fun s =>
    .next (s.sset d (BitVec.ofNat 64 (s.blk.bar n).value)).adv

/-- tbarr (R256). -/
def execTbarr (a : Reg) (s : State) : Res :=
  s.guarded (encRr 0x68 0 0 a 0) fun s => s.withTrellis (s.sget a) fun s id _ => .next (s.trellisArrive id).adv

/-- tbwait (R256). -/
def execTbwait (d : Reg) (a : Reg) (s : State) : Res :=
  s.guarded (encRr 0x68 1 d a 0) fun s =>
    let v := s.src 0 a
    s.withTrellis v fun s id t =>
      match s.trellisWaiting id, s.trellisFails id t with
      | none, some f => s.waitTrap f
      | _, _ => s.trellisWait d v id (v.getLsbD 8)

/-- tbar (R256). -/
def execTbar (d : Reg) (a : Reg) (s : State) : Res :=
  s.guarded (encRr 0x68 2 d a 0) fun s =>
    let v := s.src 0 a
    s.withTrellis v fun s id t =>
      match s.trellisWaiting id, s.trellisFails id t with
      | some g, _ => s.trellisWait d v id g
      | none, some f => s.waitTrap f
      | none, none => (s.trellisArrive id).trellisWait d v id t.gen

/-- launch (R257). -/
def execLaunch (d : Reg) (a : Reg) (s : State) : Res :=
  s.guarded (encRr 0x69 0 d a 0) fun s =>
    let va := s.src 0 a
    s.readLaunch va fun s b tb => match s.launchRecord va b tb with
      | (s, st, _) => .next (s.sset d (BitVec.ofNat 64 st)).adv

/-- launch_wait (R257). -/
def execLaunchWait (d : Reg) (a : Reg) (s : State) : Res :=
  s.guarded (encRr 0x69 1 d a 0) fun s =>
    match s.taskWaited with
    | some u => (match (s.tasks.get? u).bind (·.word) with
      | some v => s.launchEnd d v
      | none => .next s)
    | none =>
      let va := s.src 0 a
      s.readLaunch va fun s b tb =>
        if fld b 21 1 ≠ 0 then s.waitTrap (waitInfo 4 0)
        else match s.launchRecord va b tb with
          | (s, 0, u) => .next (s.waitWith (.task u) [va])
          | (s, st, _) => .next (s.sset d (BitVec.ofNat 64 st)).adv

/-- exit (R258). -/
def execExit (s : State) : Res :=
  s.guarded (encRr 0x6A 0 0 0 0) fun s => s.finish [] fun s => .next (s.leave s.th.uid .exited)

/-- The completion word of a refused successor (R64): none where the record's address is not aligned to 8, and record 0x07 where it
cannot be written (DESIGN CHOICE, log 64). -/
def State.refuseSucc (s : State) (b : List Byte) : State :=
  s.writeDone s.th.ctx (if fld b 48 8 % 8 = 0 then fld b 48 8 else 0) (completionWord 4 0)

/-- exit_succ (R258): the last wave to leave reads the record; engine commands of the block's halted waves complete first (R389). -/
def execExitSucc (a : Reg) (s : State) : Res :=
  s.guarded (encRr 0x6A 1 0 a 0) fun s =>
    let va := s.src 0 a
    s.finish [va] fun s =>
      if !s.lastWave then .next (s.leave s.th.uid .exited)
      else if s.engineBusy s.th.blk then .next (s.waitWith .exiting [va])
      else s.readLaunch va fun s b tb => match s.succRecord va b tb with
        | some r => .next (s.succeed r)
        | none => .next ((s.leave s.th.uid .exited).refuseSucc b)

/-- yield (R259). -/
def execYield (s : State) : Res :=
  s.guarded (encRr 0x6B 0 0 0 0) fun s => .next s.adv

/-- qpush (R260). -/
def execQpush (a : Reg) (b : Reg) (s : State) : Res :=
  s.guarded (encRr 0x6C 0 0 a b) fun s =>
    let args := [s.src 0 a, s.src 1 b]
    s.withQueue (s.src 0 a) fun q x => s.withSlot (s.src 1 b) x fun o =>
      s.unlessFailed (.queuePush q) <| if x.full then
        match s.waitFault (.queuePush q) with
        | some f => s.waitTrap f
        | none => .next (s.waitWith (.queuePush q) args)
      else s.whenQuiet args fun s =>
        let s := (s.raiseScope (s.ownerOf s.th) 1).readLocal s.th.blk o x.slot
        if s.blk.lsBad o x.slot then s.raise cUeConsumed (BitVec.ofNat 64 o) 0
        else
          let y := x.push (s.blk.lsSlice o x.slot)
          let s := if y.segs.getLast?.any (·.1) then s.coverSlot s.th.blk (x.at (x.head + x.count)) x.slot else s
          .next (s.modBlock s.th.blk fun b => { b with queues := b.queues.set q y }).adv

/-- qpop (R260): a slot under an uncorrectable error is consumed precisely, with no other effect (R392). -/
def execQpop (a : Reg) (b : Reg) (s : State) : Res :=
  s.guarded (encRr 0x6C 1 0 a b) fun s =>
    let args := [s.src 0 a, s.src 1 b]
    s.withQueue (s.src 0 a) fun q x => s.withSlot (s.src 1 b) x fun o =>
      s.unlessFailed (.queuePop q) <| match x.pop with
      | none => (match s.waitFault (.queuePop q) with
        | some f => s.waitTrap f
        | none => .next (s.waitWith (.queuePop q) args))
      | some (v, y, drained) => s.whenQuiet args fun s =>
        let s := if x.headLocal then s.readLocal s.th.blk (x.at x.head) x.slot else s
        if x.bad.contains x.head || (x.headLocal && s.blk.lsBad (x.at x.head) x.slot) then s.raise cUeConsumed (BitVec.ofNat 64 o) 0
        else
          let s := s.coverLocal s.th.blk o x.slot
          let s := s.modBlock s.th.blk fun b => { b.lsWrite o x.slot (leNat v) with queues := b.queues.set q y }
          .next (if drained then s.modCtx s.th.ctx fun c => { c with overFree := c.overFree + x.segBytes } else s).adv

/-- qstat (R260). -/
def execQstat (d : Reg) (a : Reg) (s : State) : Res :=
  s.guarded (encRr 0x6C 2 d a 0) fun s => s.withQueue (s.sget a) fun _ x =>
    .next (s.sset d (BitVec.ofNat 64 (x.exts % 2 ^ 16 * 2 ^ 48 + x.depth * 2 ^ 40 + x.code * 2 ^ 32 + x.count))).adv

/-- qset (R261). -/
def execQset (d : Reg) (a : Reg) (b : Reg) (s : State) : Res :=
  s.guarded (encRr 0x6D 0 d a b) fun s =>
    match s.quotaSet ((s.sget a).toNat % 4) ((s.sget b).toNat % 2 ^ 10) ((s.sget b).getLsbD 16) with
    | (s, st) => .next (s.sset d (BitVec.ofNat 64 st)).adv

/-- fork (R264). -/
def execFork (a : Reg) (b : Reg) (s : State) : Res :=
  s.guarded (encRr 0x6E 0 0 a b) fun s =>
    let x := s.src 0 a
    let y := s.src 1 b
    let some' (v : Word) : Bool := v ≠ 0xFFFFFFFF
    if some' x && decide (x.toNat % 16 ≠ 0) then s.raise cMisaligned x 0
    else if some' y && decide (y.toNat % 16 ≠ 0) then s.raise cMisaligned y 0
    else s.join (some' x) (some' y) [x, y] fun s =>
      let new (v : Word) : Option EList := some ⟨v.toNat, v.toNat, none, 0, 0, false, none, s.th.pc, s.th.seq⟩
      .next { s with th := { s.th with
        latList := if some' x then new x else s.th.latList
        barList := if some' y then new y else s.th.barList } }.adv

/-- rendez_l (R265). -/
def execRendezL (s : State) : Res :=
  s.guarded (encRr 0x6F 1 0 0 0) fun s => s.join true false [] fun s => .next s.adv

/-- rendez_b (R265). -/
def execRendezB (s : State) : Res :=
  s.guarded (encRr 0x6F 2 0 0 0) fun s => s.join false true [] fun s => .next s.adv

/-- rendez_lb (R265). -/
def execRendezLb (s : State) : Res :=
  s.guarded (encRr 0x6F 3 0 0 0) fun s => s.join true true [] fun s => .next s.adv

end Sys2Proof.Machine
end

