-- ==== Sys2Proof/Machine/Gangs.lean ====
section
/-! DEFINITION. Collectives and gangs: coll, glaunch and gstat of major 0x7C, the gang's messages and the completion of a
collective's parts (R356 to R364, R366). -/

namespace Sys2Proof.Machine

open Sys2Proof

/-! ### Groups (R356) -/

/-- Owners of a group are task numbers; a gang stands as this plus its key (log 42). -/
def gangOwner : Nat := 2 ^ 62

/-- The task belongs to the owner of a group. -/
def Task.ownedBy (t : Task) (owner : Nat) : Bool :=
  if owner < gangOwner then t.uid = owner else t.gangKey = some (owner - gangOwner)

/-- Rank of a block index in a group: its place in ascending order. -/
def rankOf (blocks : List Nat) (i : Nat) : Nat := (blocks.filter (· < i)).length

/-- The group, if it is bound and the block is in it (R358, check 4). -/
def State.groupOf (s : State) (b : Block) (g : Nat) : Option (Nat × List Nat) :=
  match (s.ctx b.ctx).groups.get? g, s.tasks.get? b.task with
  | some (owner, blocks), some t => if t.ownedBy owner && blocks.contains b.idx then some (owner, blocks) else none
  | _, _ => none

/-! ### Collective records (R357) -/

def collE (r : List Byte) : Nat := fld r 16 4
def collGroup (r : List Byte) : Nat := fld r 20 2
def collKind (r : List Byte) : Nat := fld r 22 1
def collOp (r : List Byte) : Nat := fld r 23 1
def collSize (r : List Byte) : Nat := fld r 24 1
def collRoot (r : List Byte) : Nat := fld r 26 2

/-- The first field outside R357, as an offset; P is the size of the group, if it is bound. -/
def collFault (r : List Byte) (p : Option Nat) : Option Nat :=
  let s := collSize r
  let ok (off : Nat) (b : Bool) : Option Nat := if b then none else some off
  let al (off : Nat) : Bool := (s ≠ 4 && s ≠ 8) || fld r off 8 % s = 0
  [ok 0 (al 0), ok 8 (al 8), ok 16 (decide (1 ≤ collE r) && decide (collE r ≤ 2 ^ 26)), ok 22 (decide (collKind r ≤ 3)),
    ok 23 (decide (2 ≤ collKind r) || (decide (collOp r ≤ 7) && ((collOp r = 6) == (s = 8)))), ok 24 (s = 4 || s = 8), ok 25 (fld r 25 1 = 0),
    ok 26 (if collKind r = 3 then p.all fun n => decide (collRoot r < n) else collRoot r = 0), ok 28 (leNat (r.drop 28) = 0)].findSome? id

/-- Bytes of the send and receive buffers of a rank among P participants (R357). -/
def collSendLen (kind e s p root rank : Nat) : Nat :=
  if kind = 1 then e * s * p else if kind = 3 && rank ≠ root then 0 else e * s

def collRecvLen (kind e s p : Nat) : Nat := if kind = 2 then e * s * p else e * s

/-- The participants' check of R44 over the blocks known here: the reason, if one fails (R358, check 6). -/
def State.collWaitFails (s : State) (ctx owner : Nat) (blocks : List Nat) : Option Nat :=
  let ts := s.tasks.vals.filter fun t => t.record.ctx = ctx && t.ownedBy owner
  if ts.any fun t => t.record.cls = 2 then some 1
  else if ts.any fun t => t.record.cls = 1 && blocks.any fun i => decide (t.idxBase ≤ i) && decide (i < t.idxBase + t.record.blocks) &&
      !(s.blocks.vals.any fun b => b.task = t.uid && b.idx = i && b.started) then some 2
  else none

/-- Every page of a buffer translated (R358, check 7): the translations by 64 KiB page, or the first flaw with its address. -/
def State.bufferPages (s : State) (k : AccessKind) (va n : Nat) : State × Except (Flaw × Nat) (Map Xlat) :=
  if n = 0 then (s, .ok [])
  else
    let pages := (List.range ((va + n - 1) / 2 ^ 16 - va / 2 ^ 16 + 1)).map fun i => if i = 0 then va else (va / 2 ^ 16 + i) * 2 ^ 16
    pages.foldl (fun (r : State × Except (Flaw × Nat) (Map Xlat)) a => match r.2 with
      | .error _ => r
      | .ok pins =>
        if a / 2 ^ 56 ≠ 0 then (r.1, .error (.trap cAccessFault 14, a))
        else match r.1.translate r.1.th.core r.1.th.ctx a k with
          | (s, .ok x) => (s, .ok (pins.set (a / 2 ^ 16) x))
          | (s, .error f) => (s, .error (f, a))) (s, .ok [])

/-- The collective joins (R358), with the phase of its issue (R354) and its pages pinned. -/
def State.joinColl (s : State) (r : List Byte) (blocks : List Nat) (bar : Nat) (key : Option Nat) (pins : Map Xlat) : State :=
  let b := s.blk
  let g := collGroup r
  let k := b.collCount.getD g 0
  let c : Coll := ⟨s.th.uid, s.th.seq, b.ctx, g, k, rankOf blocks b.idx, b.uid, b.core, bar, fld r 0 8, fld r 8 8, collE r, collKind r, collOp r, collSize r,
    collRoot r, key, s.th.pc, (s.ctx b.ctx).phase, pins, [], 0, []⟩
  { s.modBlock b.uid fun b => { b with collCount := b.collCount.set g (k + 1), collOut := b.collOut + 1 } with colls := s.colls ++ [c] }

/-- The gang of a block, and whether it is abandoned (R358, check 5). -/
def State.gangOf (s : State) (b : Block) : Option Nat := (s.tasks.get? b.task).bind (·.gangKey)

def State.gangLost (s : State) (key : Option Nat) : Bool := key.any fun k => (s.members.get? k).any (·.abandoned)

/-- A page of a buffer cannot be reached: the trap, or a wait until its walk can end. -/
def State.bufferFlaw (s : State) (k : AccessKind) (args : List Word) : Flaw × Nat → Res
  | (.stall, _) => .next (s.waitWith .memory args)
  | (f, a) => s.dropRecords.flawed k 127 a f false []

/-- Checks 2 to 7 of `coll` after its record is read (R358); args: its sources, read at issue. -/
def State.collChecked (s : State) (r : List Byte) (args : List Word) : Res :=
  let b := s.blk
  let bar := (args.getD 1 0).toNat % 1024
  let d := s.dropRecords
  let bound := (s.ctx b.ctx).groups.get? (collGroup r)
  match collFault r (bound.map fun (x : Nat × List Nat) => x.2.length) with
  | some off => d.raise cFormat 0 (BitVec.ofNat 64 (0x50 + off))
  | none =>
    if b.barCount ≤ bar then d.raise cLocalBounds 0 1
    else match s.groupOf b (collGroup r) with
      | none => d.raise cAccessFault 0 8
      | some (owner, blocks) =>
        let key := s.gangOf b
        if s.gangLost key then d.raise cGangAbandoned 0 0
        else match s.collWaitFails b.ctx owner blocks with
          | some reason => d.raise cIllegalWait 0 (BitVec.ofNat 64 (waitInfo reason 0))
          | none =>
            let p := blocks.length
            match s.bufferPages .load (fld r 0 8) (collSendLen (collKind r) (collE r) (collSize r) p (collRoot r) (rankOf blocks b.idx)) with
            | (s, .error x) => s.bufferFlaw .load args x
            | (s, .ok sends) => match s.bufferPages .store (fld r 8 8) (collRecvLen (collKind r) (collE r) (collSize r) p) with
              | (s, .error x) => s.bufferFlaw .store args x
              | (s, .ok recvs) =>
                .next (s.dropRecords.joinColl r blocks bar key (recvs.foldl (fun m x => m.set x.1 x.2) sends)).adv

/-! ### The completion of a part (R359 to R361) -/

/-- Where an address of a buffer lies, under the translation pinned at issue (R358). -/
def Coll.place (c : Coll) (va : Nat) : Option Place := (c.pins.get? (va / 2 ^ 16)).map fun x => placeOf (x.addr va) x.region

/-- A participant's block as an agent (R359). -/
def State.collWho (s : State) (c : Coll) : Who :=
  let b := s.block c.blk
  ⟨mkOwner 0 s.pkg (dieOf b.core) (b.core % 128) b.slot, b.core, c.ctx⟩

def State.setColl (s : State) (c : Coll) : State :=
  { s with colls := s.colls.map fun x => if x.ctx = c.ctx && x.group = c.group && x.k = c.k && x.rank = c.rank then c else x }

/-- Words of a participant's send buffer that lie on pages of other packages: address, package, offset. -/
def Coll.farWords (c : Coll) (n : Nat) : List (Nat × Nat × Nat) := (List.range n).filterMap fun i => match c.place (c.send + 4 * i) with
  | some (.remote pkg o _) => some (c.send + 4 * i, pkg, o)
  | _ => none

/-- Ask for the words of a send buffer on pages of other packages, as far as packets can be sent. -/
def State.askSends (s : State) (c : Coll) (n : Nat) : State :=
  (c.farWords n).foldl (fun s x =>
    let c := (s.colls.find? fun y => y.ctx = c.ctx && y.group = c.group && y.k = c.k && y.rank = c.rank).getD c
    if (c.words.lookup x.1).isSome || !s.canSend x.2.1 1 then s
    else match s.sendPacket x.2.1 c.ctx (s.collWho c).owner c.pc x.2.2 (.load 4) none c.ph with
      | (s, q) => s.setColl { c with words := (x.1, .sent x.2.1 q) :: c.words }) s

/-- Every word of a send buffer can be read now: those of other packages have come, and the homes of the others answer. -/
def State.sendReady (s : State) (c : Coll) (n : Nat) : Bool := (List.range n).all fun i => match c.place (c.send + 4 * i) with
  | some (.remote ..) => (c.words.lookup (c.send + 4 * i)).any fun p => !(match p with
    | .sent .. => true
    | _ => false)
  | some pl => s.placeReady runtime runtime pl 4
  | none => true

/-- A fresh free value. -/
def State.freshWord (s : State) : State × List Byte := ({ s with free := s.free + 1 }, leBytes 4 (Config.freeWord s.free).toNat)

/-- A collective's read met a registration of another agent (R86, R359): the wave that issued it has a RACE_RW pending, for its next `rel` or
its exit (R88; log 42). -/
def State.collRace (s : State) (c : Coll) (va need found : Nat) (o : BitVec 32) : State :=
  s.modThread c.thr fun t => { t with pending := t.pending ++
    [⟨c.seq, .fence, 2 ^ 64, raceCause (.loadS 0 4 false), c.pc, BitVec.ofNat 64 va, BitVec.ofNat 64 (127 + need * 2 ^ 8 + found * 2 ^ 11 + o.toNat * 2 ^ 32), none, false, false⟩] }

/-- One 4-byte word of a send buffer, read as an llc load by the participant's block (R359), with whether it is poisoned. A word
refused by a race, or by its home, gives a free value (log 42). -/
def State.collWord (s : State) (c : Coll) (va : Nat) : State × List Byte × Bool :=
  match c.place va with
  | some (.mem pa _) => match (s.readLine (pa / 4)).loadHome (s.collWho c) (pa / 4) with
    | (s, .ok v) => (s, leBytes 4 v.toNat, false)
    | (s, .bad) => (s, leBytes 4 (s.homeVal (pa / 4)).toNat, true)
    | (s, .nak need found o) => ((s.collRace c va need found o).freshWord.1, s.freshWord.2, false)
  | some (.host i a) => (s.touchDie c.ctx i, s.hostBytes i a 4, false)
  | some (.remote ..) => match c.words.lookup va with
    | some (.got v) => (s, leBytes 4 v, false)
    | some .poisoned => (s, leBytes 4 0, true)
    | some (.nak need found o) => ((s.collRace c va need found o).freshWord.1, s.freshWord.2, false)
    | _ => (s.freshWord.1, s.freshWord.2, false)
  | _ => (s.freshWord.1, s.freshWord.2, false)

/-- n words of a send buffer. -/
def State.collRead (s : State) (c : Coll) (va : Nat) : Nat → State × List Byte × Bool
  | 0 => (s, [], false)
  | n + 1 => match s.collWord c va with
    | (s, b, bad) => match s.collRead c (va + 4) n with
      | (s, bs, bad') => (s, b ++ bs, bad || bad')

/-- Write a receive buffer word by word at the words' homes (R359), from its i-th word on, as far as packets can be sent: the
words written and the packets to be acknowledged. -/
def State.collWrite (s : State) (c : Coll) (i : Nat) (acks : List (Nat × Nat)) : List Byte → State × Nat × List (Nat × Nat)
  | b0 :: b1 :: b2 :: b3 :: rest =>
    let v := [b0, b1, b2, b3]
    match c.place (c.recv + 4 * i) with
    | some (.mem pa r) =>
      if !s.placeReady runtime runtime (.mem pa r) 4 then (s, i, acks)
      else ((s.forceWord (pa / 4) (BitVec.ofNat 32 (leNat v)) c.ctx).touchDie c.ctx (homeDie pa)).collWrite c (i + 1) acks rest
    | some (.host p a) =>
      if !s.hostUp p then (s, i, acks)
      else (s.hostPut c.ctx p a v).collWrite c (i + 1) acks rest
    | some (.remote pkg o _) =>
      if !s.canSend pkg 1 then (s, i, acks)
      else match s.sendPacket pkg c.ctx (s.collWho c).owner c.pc o (.write v) none c.ph with
        | (s, q) => s.collWrite c (i + 1) ((pkg, q) :: acks) rest
    | _ => s.collWrite c (i + 1) acks rest
  | _ => (s, i, acks)

/-- The home words of n bytes of a buffer. -/
def Coll.homeWords (c : Coll) (va n : Nat) : List Nat := (List.range (n / 4)).filterMap fun i => (c.place (va + 4 * i)).map fun p => p.pa / 4

/-- A registered word under a release at system scope (R93). -/
def L1Word.released (e : L1Word) : L1Word := if e.registered then { e with rscope := max e.rscope 4 } else e

/-- A participant's send buffer is released at system scope (R93, R359): the words its block holds Registered. -/
def State.releaseSend (s : State) (c : Coll) (n : Nat) : State :=
  let x := s.collWho c
  let ws := (c.homeWords c.send n).filter fun w => s.home.get? w = some (.registered x.owner)
  s.modCore x.core fun k => { k with l1 := k.l1.map fun e => if ws.contains e.1 then (e.1, e.2.released) else e }

/-- Valid, unregistered copies of a receive buffer leave the participant's L1 (R359). -/
def State.dropRecv (s : State) (c : Coll) (n : Nat) : State :=
  let ws := c.homeWords c.recv n
  s.modCore (s.block c.blk).core fun k => { k with l1 := k.l1.filter fun e => e.2.registered || !ws.contains e.1 }

/-- The order of a reduction as the event gives it: a number below P puts that rank's value on a stack, any other adds the two
on top (R352, R360). -/
def evalOrder (f : Nat → Nat → Nat) (vals : List Nat) : List Nat → List Nat → List Nat
  | st, [] => st
  | st, i :: rest =>
    if i < vals.length then evalOrder f vals (vals.getD i 0 :: st) rest
    else match st with
      | a :: b :: st => evalOrder f vals (f b a :: st) rest
      | st => evalOrder f vals st rest

/-- Ascending ranks. -/
def plainOrder (p : Nat) : List Nat := (List.range p).flatMap fun i => if i = 0 then [0] else [i, p]

/-- An order reads every rank once and leaves one value. -/
def goodOrder (p : Nat) (order : List Nat) : Bool :=
  let rs := order.filter (· < p)
  rs.Nodup && rs.length = p && (evalOrder (fun _ _ => 0) (List.replicate p 0) [] order).length = 1

/-- Element i of a buffer. -/
def elemOf (bs : List Byte) (s i : Nat) : Nat := leNat ((bs.drop (s * i)).take s)

/-- The reduction of n elements over all ranks' buffers. -/
def reduceAll (code s n : Nat) (bufs : List (List Byte)) (order : List Nat) : List Byte :=
  let op := (redOp code).1
  let order := if goodOrder bufs.length order then order else plainOrder bufs.length
  (List.range n).flatMap fun i =>
    leBytes s ((evalOrder (fun a b => atomNew op s a b 0) (bufs.map fun b => elemOf b s i) [] order).headD 0)

/-- What a rank's receive buffer gets (R357); whole is the reduction over all ranks. -/
def collResult (kind e s rank root : Nat) (bufs : List (List Byte)) (whole : List Byte) : List Byte :=
  match kind with
  | 0 => whole
  | 1 => (whole.drop (rank * e * s)).take (e * s)
  | 2 => bufs.flatten
  | _ => bufs.getD root []

def Coll.same (a b : Coll) : Bool :=
  a.kind = b.kind && a.op = b.op && a.size = b.size && a.count = b.count && a.root = b.root

def Coll.with' (c : Coll) (ctx g k : Nat) : Bool := c.ctx = ctx && c.group = g && c.k = k

/-- The part is over: it leaves the list and its block has one collective fewer outstanding. -/
def State.dropColl (s : State) (c : Coll) : State :=
  let s := { s with colls := s.colls.erase c }
  let s := s.modBlock c.blk fun b => { b with collOut := b.collOut - 1 }
  let s := s.quietWake c.ctx
  if s.colls.any (·.with' c.ctx c.group c.k) then s
  else { s with collSent := s.collSent.filter fun (x : Nat × Nat × Nat × CollPart) => !(x.1 = c.ctx && x.2.1 = c.group && x.2.2.1 = c.k) }

/-- A participant's barrier takes a STATUS and its part is over (R252, R361, R363). -/
def State.failColl (s : State) (c : Coll) (status : Nat) : State :=
  let b := (s.block c.blk).bar c.bar
  (s.setBar c.blk c.bar { b with status := if b.status = 0 then status else b.status }).dropColl c

/-- The receive buffer holds free values (R361, R7). -/
def State.freeBuffer (s : State) (c : Coll) (n : Nat) : State :=
  let r := (List.range (n / 4)).foldl (fun (r : State × List Byte) _ => (r.1.freshWord.1, r.2 ++ r.1.freshWord.2)) (s, [])
  (r.1.collWrite c c.wrote c.acks r.2).1

/-- The stored part of a rank in a collective whose buffers have been read; rank 2^32: the reduction. -/
def State.sentPart (s : State) (c : Coll) (rank : Nat) : Option (List Byte) :=
  (s.collSent.find? fun (x : Nat × Nat × Nat × CollPart) => x.1 = c.ctx && x.2.1 = c.group && x.2.2.1 = c.k && x.2.2.2.rank = rank).map (·.2.2.2.bytes)

/-- Bytes of a participant's send buffer (R357). -/
def Coll.sendLen (c : Coll) (p : Nat) : Nat := collSendLen c.kind c.count c.size p c.root c.rank

/-- The participants here of one collective. -/
def State.collPeers (s : State) (c : Coll) : List Coll := s.colls.filter (·.with' c.ctx c.group c.k)

/-- A rank's part as it is read: a participant here, or one of another package as the event gives it. none: it has not joined. -/
def State.readSend (s : State) (c : Coll) (p r : Nat) (far : List CollPart) : State × Option CollPart :=
  match (s.collPeers c).find? (·.rank = r) with
  | some x =>
    match s.collRead x x.send (x.sendLen p / 4) with
    | (s, bs, bad) => (if bad then s.logCtx x.ctx 0x10 x.pc.toNat 0 else s, some ⟨r, if bad then [] else bs, !x.same c || bad⟩)
  | none => (s, far.find? fun f => f.rank = r)

/-- The send buffers of ranks r on. -/
def State.readParts (s : State) (c : Coll) (p : Nat) (far : List CollPart) (r : Nat) : Nat → State × List (Option CollPart)
  | 0 => (s, [])
  | n + 1 => match s.readSend c p r far with
    | (s, x) => match s.readParts c p far (r + 1) n with
      | (s, xs) => (s, x :: xs)

/-- Every participant has joined, and each send buffer here can be read now. -/
def State.sendsReady (s : State) (c : Coll) (p : Nat) (far : List CollPart) : Bool :=
  ((List.range p).all fun r => (s.collPeers c).any (·.rank = r) || far.any (·.rank = r)) &&
    (s.collPeers c).all fun x => s.sendReady x (x.sendLen p / 4)

/-- Records of one collective that differ (R361); a poisoned buffer differs from none. -/
def State.recordsDiffer (s : State) (c : Coll) (far : List CollPart) : Bool := (s.collPeers c).any (fun x => !x.same c) || far.any (·.differs)

/-- Read every participant's send buffer, once for the collective: words of other packages are asked for first. What a
participant stores into a buffer between its `coll` and its count enters as memory holds it at this step: R359 sends that to
R7, and the model takes these values (DESIGN CHOICE, log 65). Answers whether the buffers have been read, and whether a word
was poisoned. -/
def State.readSends (s : State) (c : Coll) (p : Nat) (order : List Nat) (far : List CollPart) : State × Bool × Bool :=
  if (s.sentPart c 0).isSome then (s, true, false)
  else if !s.sendsReady c p far then ((s.collPeers c).foldl (fun s x => s.askSends x (x.sendLen p / 4)) s, false, false)
  else
    let differ := s.recordsDiffer c far
    match s.readParts c p far 0 p with
    | (s, parts) =>
      let ps := parts.filterMap id
      let bad := !differ && ps.any (·.differs)
      let whole : List Byte := if 2 ≤ c.kind || differ || bad then [] else
        reduceAll c.op c.size (if c.kind = 1 then c.count * p else c.count) (ps.map (·.bytes)) order
      let keep := (ps ++ [CollPart.mk (2 ^ 32) whole differ]).map fun x => (c.ctx, c.group, c.k, x)
      ({ s with collSent := s.collSent ++ keep, free := s.free + 1 }, true, bad)

/-- The stored parts show records that differ (R361). -/
def State.sendsDiffer (s : State) (c : Coll) : Bool :=
  s.collSent.any fun (x : Nat × Nat × Nat × CollPart) => x.1 = c.ctx && x.2.1 = c.group && x.2.2.1 = c.k && x.2.2.2.rank = 2 ^ 32 && x.2.2.2.differs

/-- A part's receive buffer is written as far as it can be; when it is, and every packet of it is acknowledged, the part is
complete: what it names is released and acquired, and the barrier counts (R93, R359). -/
def State.collFinish (s : State) (c : Coll) (p : Nat) : State :=
  let n := collRecvLen c.kind c.count c.size p
  let bufs := (List.range p).map fun r => (s.sentPart c r).getD []
  let bs := (collResult c.kind c.count c.size c.rank c.root bufs ((s.sentPart c (2 ^ 32)).getD [])).take n
  match s.collWrite c c.wrote c.acks (bs.drop (4 * c.wrote)) with
  | (s, i, acks) =>
    let c' : Coll := { c with wrote := i, acks := acks }
    if decide (4 * i < n) || !acks.isEmpty then s.setColl c'
    else
      let s := (s.collPeers c).foldl (fun s x => s.releaseSend x (x.sendLen p)) (s.setColl c')
      ((s.dropRecv c n).countBar c.blk c.bar).dropColl c'

/-- COLLECTIVE_COMPLETION (R359): every send buffer has been read, the receive buffer is written and dropped from L1, and the
barrier is counted. Records that differ end every part (R361); a poisoned word ends them unperformed (R392). -/
def State.collDone (s : State) (ctx g k rank : Nat) (order : List Nat) (far : List CollPart) : State :=
  match s.colls.find? fun c => c.with' ctx g k && c.rank = rank with
  | none => s
  | some c =>
    let p := (((s.ctx ctx).groups.get? g).map fun (x : Nat × List Nat) => x.2.length).getD 1
    match s.readSends c p order far with
    | (s, false, _) => s
    | (s, true, poisoned) =>
      let mine := s.collPeers c
      if s.sendsDiffer c then
        let s := s.logCtx ctx 0x06 (g % 256) 0
        mine.foldl (fun s x => (s.freeBuffer x (collRecvLen x.kind x.count x.size p)).failColl x 1) s
      else if poisoned then mine.foldl (fun s x => s.dropColl x) s
      else s.collFinish ((mine.find? (·.rank = rank)).getD c) p

/-! ### Gangs: the members' side (R363) -/

/-- A launch record and its role table as the runtime reads them, checked (R36, R38); an error says what stands in the way. -/
def State.readRecord (s : State) (ctx va : Nat) (got : List (Nat × Phase)) (privileged gangOk : Bool) : State × Except MemberRead Record :=
  if va % 64 ≠ 0 then (s, .error .bad)
  else match s.memberRead ctx va got 8 with
    | (s, .bytes b) =>
      let n := fld b 29 1
      let p := fld b 32 8
      match if n = 0 then (s, MemberRead.bytes []) else s.memberRead ctx (p / 8 * 8) got (if p % 8 = 0 then 4 * n else 4 * n + 1) with
      | (s, .bytes tb) => (s, ((s.parseRecord b tb va ctx privileged gangOk).map Except.ok).getD (.error .bad))
      | (s, e) => (s, .error e)
    | (s, e) => (s, .error e)

/-- The gang's launch record, valid for a member (R362, R363). -/
def State.memberRecord (s : State) (ctx va : Nat) (got : List (Nat × Phase)) : State × Except MemberRead Record :=
  match s.readRecord ctx va got false true with
  | (s, .ok r) => (s, if r.gang && r.done = 0 then .ok r else .error .bad)
  | x => x

/-- A member prepares (R363): its status, with the places of a class-C record held and its estimates charged (R20, R407); a cancelled
member's stay charged (DESIGN CHOICE, log 69). -/
def State.prepare (s : State) (g : GangMsg) (r : Record) : State × Nat :=
  let m (t : Option Nat) : Member := ⟨g.index, r, 0, t, false⟩
  if s.overBudget r then (s, 3)
  else if r.cls ≠ 0 then ({ s with members := s.members.set g.key (m none) }, 0)
  else if maxPlaces < r.blocks || !s.fitsWindow r.ctx (r.blocks * r.energy) then (s, 1)
  else
    let t := { s.newTask r none none (some g.key) (g.index * r.blocks) false with reserved := 1 }
    match { s with nextUid := s.nextUid + 1, tasks := s.tasks.set t.uid t }.reserveC t r.blocks t.idxBase with
    | none => (s, 1)
    | some s => ({ s.charge r.ctx (r.blocks * r.energy) with members := s.members.set g.key (m (some t.uid)) }, 0)

/-- The member's task holds only a reservation. -/
def State.memberHeld (s : State) (m : Member) : Bool := m.task.any fun u => (s.tasks.get? u).any fun t => t.reserved = 1

def State.memberBegun (s : State) (m : Member) : Bool := m.task.isSome && !s.memberHeld m

/-- BEGIN reaches a member (R363): its blocks may be placed. -/
def State.beginMember (s : State) (key : Nat) : State :=
  match s.members.get? key with
  | none => s
  | some m =>
    if m.abandoned || s.memberBegun m then s
    else match m.task with
      | some u => (s.modTask u fun t => { t with reserved := 0 }).assignSlot u
      | none =>
        match s.accept m.record none none (some key) (m.index * m.record.blocks) false with
        | (s, 0, u) => { s with members := s.members.set key { m with task := some u } }
        | (s, _, _) => s

/-- The blocks and the task of a member that never began are given up. -/
def State.dropTask (s : State) (u : Nat) : State :=
  let bs := s.blocks.vals.filter fun b => b.task = u
  let s := bs.foldl (fun s b => s.releaseBlock b.uid false) s
  { s with blocks := s.blocks.filter fun p => p.2.task ≠ u, tasks := s.tasks.erase u }

/-- A block of the task has started. -/
def State.taskStarted (s : State) (u : Nat) : Bool := s.blocks.vals.any fun b => b.task = u && b.started

/-- The gang is abandoned, as this member learns it (R363): collectives in flight end, and a member without a started block
never begins, which it tells (R366). -/
def State.abandonMember (s : State) (key : Nat) : State :=
  match s.members.get? key with
  | none => s
  | some m =>
    let s := (s.colls.filter fun c => c.gang = some key).foldl (fun s c => s.failColl c 2) s
    let s := match m.task with
      | some u => if s.taskStarted u then s else (s.dropTask u).tellEnded key 0
      | none => s.tellEnded key 0
    { s with members := s.members.set key { m with abandoned := true } }

/-- CANCEL reaches a member (R363): before BEGIN it drops the reservation, and none of its blocks runs (R366); after BEGIN it tells that the
gang is abandoned. -/
def State.cancelMember (s : State) (key : Nat) : State :=
  let s := { s with preps := s.preps.erase key }
  match s.members.get? key with
  | none => s
  | some m =>
    if s.memberBegun m then s.abandonMember key
    else
      let s := match m.task with
        | some u => s.dropTask u
        | none => s
      let s := s.tellEnded key 0
      { s with members := s.members.erase key }

/-! ### Gangs: the launcher's side (R363, R366) -/

/-- Phase 1 lasts at most 100 ms. -/
def gangLimit : Nat := 100000000

def Gang.late (g : Gang) (now : Nat) : Bool := decide (gangLimit ≤ now - g.since)

/-- The value of `glaunch` when phase 1 has ended without BEGIN: the lowest failing member. -/
def Gang.refusal (g : Gang) : Nat :=
  match (List.range g.members.length).find? fun i => g.answers.get? i ≠ some 0 with
  | some i => match g.answers.get? i with
    | some st => 1 * 2 ^ 56 + i * 2 ^ 48 + st * 2 ^ 40
    | none => 2 * 2 ^ 56 + i * 2 ^ 48
  | none => 0

/-- Messages to the members of a gang on other packages (R363). -/
def State.tellMembers (s : State) (g : Gang) (m : Nat → Nat → Msg) : State :=
  (List.range g.members.length).foldl (fun s i =>
    let p := g.members.getD i 0
    if p = s.pkg then s else s.post (m p i)) s

/-- The launching wave's value. -/
def State.gangValue (s : State) (u slot v : Nat) : State :=
  s.modThread u (·.mapWait fun w => if w.kind = .gang slot && w.result.isNone then { w with result := some v } else w)

/-- Phase 1 ends: BEGIN when every member answered OK, CANCEL when one did not or 100 ms have passed. -/
def State.gangSettle (s : State) (slot : Nat) : State :=
  match s.gangs.get? slot with
  | none => s
  | some g =>
    if g.phase ≠ 1 then s
    else
      let n := g.members.length
      if (List.range n).all fun i => g.answers.get? i = some 0 then
        ({ s with gangs := s.gangs.set slot { g with phase := 2, since := s.now } }.gangValue g.uid slot (slot + g.gen * 2 ^ 8)).tellMembers g
          fun p _ => .begin p (s.pkg * 64 + slot)
      else if g.late s.now || (List.range n).all fun i => g.answers.has i then
        let s := s.gangValue g.uid slot g.refusal
        ({ s with gangs := s.gangs.set slot { Gang.reset with gen := (g.gen + 1) % 256 } }.cancelMember (s.pkg * 64 + slot)).tellMembers g
          fun p _ => .cancel p (s.pkg * 64 + slot)
      else s

/-- GANG_PREPARE_ANSWER (R363): an answer within 100 ms counts. -/
def State.gangAnswer (s : State) (slot i st : Nat) : State :=
  match s.gangs.get? slot with
  | none => s
  | some g =>
    if g.phase ≠ 1 || decide (g.members.length ≤ i) || g.answers.has i || g.late s.now then s
    else { s with gangs := s.gangs.set slot { g with answers := g.answers.set i st } }.gangSettle slot

/-- This package's part in a gang is over: its task has ended or was given up (R366: the slot may hold a later gang). -/
def State.memberOver (s : State) (m : Member) : Bool :=
  match m.task with
  | some u => (s.tasks.get? u).all (·.isOver)
  | none => m.abandoned

/-- The words a member has asked for on behalf of a message. -/
def State.prepWords (s : State) (g : GangMsg) : List (Nat × Phase) := match s.preps.get? g.key with
  | some m => if m.msg = g then m.words else []
  | none => []

/-- A word of the record on a page of another package is asked for (R369). -/
def State.askWord (s : State) (g : GangMsg) (va pkg o : Nat) : State :=
  match s.memberAsk g.ctx pkg o with
  | none => { s with preps := s.preps.set g.key ⟨g, s.prepWords g⟩ }
  | some (s, ph) => { s with preps := s.preps.set g.key ⟨g, (va, ph) :: s.prepWords g⟩ }

/-- The member's answer to its launcher; its own launcher has it at once. -/
def State.prepareEnds (s : State) (g : GangMsg) (r : Option Record) : State :=
  let s := { s with preps := s.preps.erase g.key }
  match (match r with
    | some r => s.prepare g r
    | none => (s, 2)) with
  | (s, st) => if g.key / 64 = s.pkg then s.gangAnswer (g.key % 64) g.index st else s.post (.answer (g.key / 64) (g.key % 64) g.index st)

/-- GANG_PREPARE (R363) at this package: the record is read, then the member prepares. A second message of one gang changes
nothing. -/
def State.gangPrepare (s : State) (g : GangMsg) : State :=
  if (s.members.get? g.key).any fun m => !s.memberOver m then s
  else match s.memberRecord g.ctx g.record (s.prepWords g) with
    | (s, .ok r) => s.prepareEnds g (some r)
    | (s, .error .wait) => { s with preps := s.preps.set g.key ⟨g, s.prepWords g⟩ }
    | (s, .error (.ask va pkg o)) => s.askWord g va pkg o
    | (s, .error _) => s.prepareEnds g none

/-- BEGUN (R363): a member's first gang block has started, or all its gang blocks have ended. A member that began before it learned
of the abandonment has begun (R366). -/
def State.gangBegun (s : State) (slot i : Nat) (ended : Option Nat) : State :=
  match ended with
  | some n => s.gangEnded slot i n
  | none => match s.gangs.get? slot with
    | none => s
    | some g =>
      if g.phase ≠ 2 || decide (g.members.length ≤ i) || g.begun.contains i then s
      else { s with gangs := s.gangs.set slot { g with begun := i :: g.begun } }

/-- GANG_BEGIN_TIMEOUT (R363): 100 ms after BEGIN some member has not begun. -/
def State.gangAbandon (s : State) (slot : Nat) : State :=
  match s.gangs.get? slot with
  | none => s
  | some g =>
    if g.phase ≠ 2 || g.abandoned || !g.late s.now || decide (g.members.length ≤ g.begun.length) then s
    else
      let s := { s with gangs := s.gangs.set slot { g with abandoned := true } }
      ((s.abandonMember (s.pkg * 64 + slot)).tellMembers g fun p _ => .cancel p (s.pkg * 64 + slot)).gangCheck slot

/-- The block that just started is the first of its gang's member here: its launcher learns it. -/
def State.noteBegun (s : State) (blk : Nat) : State :=
  let b := s.block blk
  match (s.tasks.get? b.task).bind (·.gangKey) with
  | some key => match s.members.get? key with
    | some m =>
      if key / 64 = s.pkg then s.gangBegun (key % 64) m.index none
      else if s.blocks.vals.any fun x => x.task = b.task && x.uid ≠ blk && x.started then s
      else s.post (.begun (key / 64) (key % 64) m.index none)
    | none => s
  | none => s

/-- A member whose words have come goes on preparing. -/
def State.prepStep (s : State) : Option State :=
  (s.preps.vals.find? fun m => m.words.all fun (x : Nat × Phase) => match x.2 with
    | .sent .. => false
    | _ => true).map fun m => s.gangPrepare m.msg

/-- A gang's member here takes its next step: it prepares, or begins (log 3). -/
def State.gangStep (s : State) : Option State :=
  s.prepStep.orElse fun _ => s.gangs.findSome? fun (p : Nat × Gang) =>
    let key := s.pkg * 64 + p.1
    let i := p.2.members.idxOf s.pkg
    if decide (p.2.members.length ≤ i) then none
    else if p.2.phase = 1 && !p.2.answers.has i && !s.preps.has key && !p.2.late s.now then some (s.gangPrepare ⟨key, i, p.2.ctx, p.2.record⟩)
    else if p.2.phase = 2 && (s.members.get? key).any (fun m => !m.abandoned && !s.memberBegun m) then some (s.beginMember key)
    else none

/-! ### Fault records and handlers (R379, R380) -/

/-- The next 8 bytes of a fault record go into the ring, as the runtime writes (R379); a ring whose page does not admit them stays
without (log 52). -/
def State.faultWord (s : State) (ctx : Nat) (r : FaultRec) : State :=
  match s.putWord ctx (r.addr + (r.bytes.length - r.todo.length)) (fld r.todo 0 8) with
  | .done s => s.modFault ctx r.addr fun r => { r with todo := r.todo.drop 8 }
  | .sent s d q => s.modFault ctx r.addr fun r => { r with todo := r.todo.drop 8, acks := (d, q) :: r.acks }
  | .bad => s.modFault ctx r.addr fun r => { r with todo := [] }
  | .later s => s

/-- HANDLER_BLOCK_LAUNCH (R380): once the record stands in the ring, the runtime launches the context's handler record with the fault
record's address as the parameter pointer. -/
def State.faultLaunch (s : State) (ctx : Nat) (r : FaultRec) : State :=
  let launched (s : State) : State := s.modFault ctx r.addr fun r => { r with launched := true }
  match s.readRecord ctx (s.ctx ctx).handler r.words true false with
  | (s, .ok x) => launched (s.accept { x with param := r.addr } none none none 0 true).1
  | (s, .error .wait) => s
  | (s, .error (.ask va pkg o)) => match s.memberAsk ctx pkg o with
    | some (s, ph) => s.modFault ctx r.addr fun r => { r with words := (va, ph) :: r.words }
    | none => s
  | (s, .error _) => launched s

/-- The next thing the runtime does for a fault record. -/
def State.faultStep (s : State) (ctx : Nat) (r : FaultRec) : State :=
  if r.todo ≠ [] then s.faultWord ctx r
  else if r.acks ≠ [] || r.launched then s
  else s.faultLaunch ctx r

/-- The runtime goes on with every fault record by one piece. -/
def State.faultSteps (s : State) : State :=
  s.ctxs.foldl (fun s (x : Nat × Ctx) => x.2.faults.foldl (fun s r => s.faultStep x.1 r) s) s

/-! ### glaunch (R362, R363, R366) -/

/-- The gang record is within its limits (R362); ms is the member list. -/
def gangRecordOk (r : List Byte) (ms : List Nat) : Bool :=
  let n := fld r 16 1
  decide (1 ≤ n) && decide (n ≤ 64) && fld r 17 7 = 0 && fld r 24 8 % 8 = 0 && leNat (r.drop 32) = 0 && ms.Nodup && ms.all (· < 8192)

/-- n times the record's number of blocks stays within 2^32 (R362), as the launcher reads it on its own package; none: the read waits. A
record that it cannot read is left to the members (log 52). -/
def State.gangSizeOk (s : State) (va n : Nat) : State × Option Bool :=
  let fits (b : List Byte) : Bool := decide (n * fld b 0 4 ≤ 2 ^ 32)
  if va % 64 ≠ 0 then (s, some true)
  else match s.readCtx s.th.ctx (va + 16) 1 with
    | some b => (s, some (fits b))
    | none => match s.recordWord (va + 16) with
      | (s, .bytes b) => (s, some (fits b))
      | (s, .stop ..) => (s, some true)
      | (s, .wait) => (s, none)

/-- The lowest free gang slot takes the gang, and the wave waits through phase 1; without one, STATUS 4. -/
def State.gangStart (s : State) (d : Reg) (r : List Byte) (ms : List Nat) : Res :=
  match (List.range 64).find? fun i => (s.gangs.getD i Gang.reset).phase = 0 with
  | none => .next (s.sset d (BitVec.ofNat 64 (4 * 2 ^ 56))).adv
  | some slot =>
    let old := s.gangs.getD slot Gang.reset
    let g : Gang := ⟨1, old.gen, s.th.ctx, ms, [], [], s.now, fld r 24 8, 0, false, s.th.uid, fld r 0 8, []⟩
    .next (({ s with gangs := s.gangs.set slot g }.tellMembers g fun p i => .prepare p ⟨s.pkg * 64 + slot, i, g.ctx, g.record⟩).waitAt (.gang slot))

/-- The member list of a gang record, read in whole 8-byte words. -/
def memberList (bs : List Byte) (va n : Nat) : List Nat := (List.range n).map fun i => fld bs (va % 8 + 2 * i) 2

/-! ### Instructions -/

/-- A fence that orders the wave's earlier stores before its later collectives is still open (R94, R104). -/
def Thread.fencedColl (t : Thread) : Bool := t.out.any fun a => match a.kind with
  | .fence kind scope => kind = 3 || (kind = 0 && scope = 3)
  | _ => false

/-- coll (R358): it begins once such a fence is complete, and stalls while eight are outstanding. -/
def execColl (a : Reg) (b : Reg) (s : State) : Res :=
  s.guarded (encRr 0x7C 1 0 a b) fun s =>
    let va := s.src 0 a
    let args := [va, s.src 1 b]
    if va.toNat % 64 ≠ 0 then s.raise cMisaligned va 0
    else if 8 ≤ s.blk.collOut || s.th.fencedColl then .next (s.waitWith .collective args)
    else s.withRecord va.toNat 8 args fun s r => s.collChecked r args

/-- A gang record's checks that need its member list (R362), and the start of phase 1. -/
def State.gangList (s : State) (d : Reg) (va : Word) (r : List Byte) : Res :=
  let bad (s : State) : Res := .next (s.dropRecords.sset d (BitVec.ofNat 64 (3 * 2 ^ 56))).adv
  let n := fld r 16 1
  let p := fld r 8 8
  if n = 0 || decide (64 < n) then bad s
  else s.withRecord (p / 8 * 8) ((p % 8 + 2 * n + 7) / 8) (va :: recordArgs r) fun s bs =>
    let ms := memberList bs p n
    if !gangRecordOk r ms then bad s
    else match s.gangSizeOk (fld r 0 8) n with
      | (s, some true) => s.dropRecords.gangStart d r ms
      | (s, some false) => bad s
      | (s, none) => .next (s.waitWith .memory (va :: recordArgs r))

/-- The gang of a waiting `glaunch`, with the value that ends the wait. -/
def Thread.gangWait (t : Thread) : Option (Nat × Option Nat) := t.wait.bind fun w => match w.kind with
  | .gang slot => some (slot, w.result)
  | _ => none

/-- glaunch (R363): its record is read once. -/
def execGlaunch (d : Reg) (a : Reg) (s : State) : Res :=
  s.guarded (encRr 0x7C 3 d a 0) fun s =>
    match s.th.gangWait with
    | some (_, some v) => .next (s.sset d (BitVec.ofNat 64 v)).adv
    | some (slot, none) => .next (s.gangSettle slot)
    | none =>
      let va := s.src 0 a
      if va.toNat % 64 ≠ 0 then s.raise cMisaligned va 0
      else match s.keptRecord with
        | some r => s.gangList d va r
        | none => s.withRecord va.toNat 8 [va] fun s r => s.gangList d va r

/-- gstat (R364): of a value that is no handle, 0. -/
def execGstat (d : Reg) (a : Reg) (s : State) : Res :=
  s.guarded (encRr 0x7C 4 d a 0) fun s =>
    let v := (s.sget a).toNat
    let g := s.gangs.getD (v % 64) Gang.reset
    let m := if bits v 7 6 = 0 && decide (v < 2 ^ 16) && g.phase = 2 && g.gen = v / 2 ^ 8 % 256 then (g.begun.map fun i => 2 ^ i).sum else 0
    .next (s.sset d (BitVec.ofNat 64 m)).adv

/-! ### Events -/

/-- gang prepare (R363). -/
def execGangPrepare (g : GangMsg) (s : State) : Res :=
  .next (s.gangPrepare g)

/-- gang prepare answer (R363). -/
def execGangPrepareAnswer (slot : Nat) (member : Nat) (status : Nat) (s : State) : Res :=
  .next (s.gangAnswer slot member status)

/-- gang prepare timeout (R363). -/
def execGangPrepareTimeout (slot : Nat) (s : State) : Res :=
  .next (s.gangSettle slot)

/-- begin (R363). -/
def execGangBegin (key : Nat) (s : State) : Res :=
  .next (s.beginMember key)

/-- cancel (R363). -/
def execGangCancel (key : Nat) (s : State) : Res :=
  .next (s.cancelMember key)

/-- begun (R363). -/
def execGangBegun (slot : Nat) (member : Nat) (ended : Option Nat) (s : State) : Res :=
  .next (s.gangBegun slot member ended)

/-- gang begin timeout (R363). -/
def execGangBeginTimeout (slot : Nat) (s : State) : Res :=
  .next (s.gangAbandon slot)

/-- collective completion (R359). -/
def execCollectiveCompletion (ctx : Nat) (group : Nat) (k : Nat) (rank : Nat) (order : List Nat) (far : List CollPart) (s : State) : Res :=
  .next (s.collDone ctx group k rank order far)

/-- collective group binding (R356). -/
def execCollectiveGroupBinding (ctx : Nat) (group : Nat) (owner : Nat) (blocks : List Nat) (s : State) : Res :=
  .next (s.modCtx ctx fun c => { c with groups := c.groups.set (group % 256) (owner, blocks.eraseDups) })

end Sys2Proof.Machine
end

