-- ==== Sys2Proof/Machine/Access.lean ====
section
/-! DEFINITION. Loads, stores, prefetch and atomics: majors 0x30 to 0x3D and 0x54 to 0x5E (R219 to R232, R238). Each issues a
counted access; Perform.lean says how its parts are performed. -/

namespace Sys2Proof.Machine

open Sys2Proof

/-! ### Shared operations -/

/-- Issue an LD-counted access: earlier uncovered loads into the same destination lose it (R173). -/
def State.issueLd (s : State) (claim : State → State) (kind : AccKind) (p : Policy) (ps : List Part) (dest : List Nat) (tx : Bool) : Res :=
  if ctrLimit .ld ≤ s.th.count .ld || !s.sendRoom ps then .next (s.waitAt .counter) else (claim s).issue .ld kind p ps dest tx

/-- The scalar destination of a load is claimed. -/
def State.claimScalar (d : Reg) (s : State) : State :=
  { s with th := { s.th with out := s.th.out.map (dropScalar d s.th.trapMode) } }

/-- The vector destination of a load is claimed, and becomes live at issue (R199). -/
def State.claimVector (a : Nat) (s : State) : State :=
  { s with th := { s.th.live a with out := s.th.out.map (dropVector a) } }

def scalarDest (d : Reg) : List Nat := if d = 0 then [] else [d.toNat]

/-- A scalar load of n bytes (R223, R224). -/
def State.loadAt (s : State) (w : W32) (d : Reg) (addr : State → Word) (n : Nat) (sx : Bool) (p : Policy) : Res :=
  s.guarded w fun s => s.scalarAccess .load Extra.none (addr s) n 0 0 fun s ps =>
    s.issueLd (State.claimScalar d) (.loadS d n sx) p ps (scalarDest d) false

/-- A scalar store of n bytes (R223, R224). -/
def State.storeAt (s : State) (w : W32) (d : Reg) (addr : State → Word) (n : Nat) (p : Policy) : Res :=
  s.guarded w fun s => s.scalarAccess .store Extra.none (addr s) n ((s.sget d).toNat % 2 ^ (8 * n)) 0 fun s ps =>
    s.issue .st (.store n) p ps [] false

/-- Base plus the sign-extended immediate (R223). -/
def State.baseImm (s : State) (a : Reg) (i : BitVec 11) : Word := s.sget a + sext64 i

/-- Base plus the scaled index (R224). -/
def State.baseIndex (s : State) (a b : Reg) (z : Size4) : Word := s.sget a + s.sget b <<< z.code

/-- Each active lane with its address (R219). -/
def State.laneAddrs (s : State) (f : Nat → Word) : List (Nat × Nat) := s.activeLanes.map fun j => (j, (f j).toNat)

/-- The strided address of lane j (R226). -/
def State.strided (s : State) (a b : Reg) (n j : Nat) : Word :=
  s.sget a + BitVec.ofNat 64 j * (if b = 0 then BitVec.ofNat 64 n else s.sget b)

/-- The address of lane j from a scalar base and a vector of byte offsets (R227, R232). -/
def State.offsetAddr (s : State) (base v : Reg) (j : Nat) : Word := s.sget base + (s.elem v j).signExtend 64

/-- A vector load, transactional while a transaction is open (R226, R227, R238). -/
def State.vload (s : State) (w : W32) (d : Reg) (n : Nat) (p : Policy) (addr : State → Nat → Word) : Res :=
  s.guarded w fun s => s.vectorAccess .load Extra.none n (s.laneAddrs (addr s)) (fun _ => 0) (fun _ => 0) fun s ps =>
    s.issueLd (State.claimVector (s.varch d)) (.loadV (s.varch d) n) p ps [s.varch d] s.th.tx.isOpen

/-- A vector store: parts stand in ascending lane order, so a higher lane overwrites a lower one (R228). -/
def State.vstore (s : State) (w : W32) (d : Reg) (n : Nat) (p : Policy) (addr : State → Nat → Word) : Res :=
  s.guarded w fun s => s.vectorAccess .store Extra.none n (s.laneAddrs (addr s))
      (fun j => (s.elem d j).toNat % 2 ^ (8 * n)) (fun _ => 0) fun s ps =>
    s.issue .st (.store n) p ps [] s.th.tx.isOpen

/-- The checks of a local-store offset of n bytes (R68, R229). -/
def State.localCheck (s : State) (n o : Nat) : Option Nat :=
  if o % n ≠ 0 then some cMisaligned else if s.blk.usable < o + n then some cLocalBounds else none

/-- A vector access of the local store at offsets (R229). -/
def State.localAccess (s : State) (n : Nat) (las : List (Nat × Nat)) (x : Nat → Nat) (k : State → List Part → Res) : Res :=
  match las.findSome? fun (l : Nat × Nat) => (s.localCheck n l.2).map fun c => (c, l.2) with
  | some (c, o) => s.raise c (BitVec.ofNat 64 o) 0
  | none => k s (las.map fun (l : Nat × Nat) => ⟨l.1, l.2, .loc l.2, n, 0, x l.1, 0, .idle⟩)

def State.localLoad (s : State) (w : W32) (d : Reg) (n : Nat) (addr : State → Nat → Word) : Res :=
  s.guarded w fun s => s.localAccess n (s.laneAddrs (addr s)) (fun _ => 0) fun s ps =>
    s.issueLd (State.claimVector (s.varch d)) (.loadV (s.varch d) n) .l1 ps [s.varch d] false

def State.localStore (s : State) (w : W32) (d : Reg) (n : Nat) (addr : State → Nat → Word) : Res :=
  s.guarded w fun s => s.localAccess n (s.laneAddrs (addr s)) (fun j => (s.elem d j).toNat % 2 ^ (8 * n)) fun s ps =>
    s.issue .st (.store n) .l1 ps [] false

/-- The offset of lane j from a vector (R229). -/
def State.laneOffset (s : State) (a : Reg) (j : Nat) : Word := (s.elem a j).setWidth 64

/-- An address in a declared reduction window of the thread's context. -/
def State.inWindow (s : State) (va : Nat) : Bool := (s.windowOf s.th.ctx va).isSome

/-- The checks an atomic adds (R220, R231): a fetching one in a reduction window, and the FP64 add on a Seedbank word. -/
def State.atomExtra (s : State) (fetching fadd64 : Bool) : Extra :=
  ⟨fun _ => none, fun va pl => match pl with
    | .seed _ => if fadd64 then some (cAccessFault, 1) else none
    | .loc _ => none
    | _ => if fetching && s.inWindow va then some (cWindowFetch, 0) else none⟩

/-- A scalar atomic of n bytes (R230, R231): without a destination it is ST-counted and returns nothing. -/
def State.amo (s : State) (w : W32) (op : AtomOp) (n : Nat) (d a b : Reg) : Res :=
  s.guarded w fun s =>
    s.scalarAccess .atomic (s.atomExtra (d ≠ 0) (n = 8 && op = .fadd)) (s.sget a) n ((s.sget b).toNat % 2 ^ (8 * n))
        (if op = .cas then (s.sget (b + 1)).toNat % 2 ^ (8 * n) else 0) fun s ps =>
      if d = 0 then s.issue .st (.atomS none op n) .llc ps [] false
      else s.issueLd (State.claimScalar d) (.atomS (some d) op n) .llc ps [d.toNat] false

/-- A vector atomic (R232): lanes of one address are combined in ascending lane order (R92). -/
def State.vamo (s : State) (w : W32) (op : AtomOp) (d a b : Reg) : Res :=
  s.guarded w fun s =>
    s.vectorAccess .atomic (s.atomExtra true false) 4 (s.laneAddrs (s.offsetAddr b a)) (fun j => (s.elem d j).toNat)
        (fun j => if op = .cas then (s.elem (d + 1) j).toNat else 0) fun s ps =>
      s.issueLd (State.claimVector (s.varch d)) (.atomV (s.varch d) op) .llc ps [s.varch d] false

/-- One word of a line fetched into an L1: a word the L1 holds stays, a word registered to another agent, a poisoned word and a word that a
commit holds are not fetched. -/
def State.fillWord (s : State) (core ctx uid region w : Nat) : State :=
  if (s.l1 core w).isSome then s
  else match s.home.get? w with
    | some (.registered _) => s
    | _ => if s.memPoison.has w || !s.unlocked s.pkg (2 ^ 40) (4 * w) 4 then s
      else ((s.touchLine w).touchDie ctx (homeDie (4 * w))).l1Put core uid w ⟨false, s.homeVal w, 0, 0, region, false⟩

/-- A line fetched into an L1 (R84, R93, R225), unless the L1 holds all of it or its home is lost: an L1 miss (R52) that reads the line at
its home, where an error in it is found (R394). -/
def State.fillLine (s : State) (core ctx uid pa region : Nat) : State :=
  let ws := (List.range 16).map (pa / 64 * 16 + ·)
  if ws.all (fun w => (s.l1 core w).isSome) || !s.dieAnswers pa then s
  else ws.foldl (fun s w => s.fillWord core ctx uid region w) ((s.scoreMiss core (pa / 4)).readLine (pa / 4))

/-- Where a prefetch goes: a page that is mapped and not NS, or the private area; elsewhere it has no effect (R225). Of a page of host
memory or of another package, which R225 does not name, it brings nothing (DESIGN CHOICE, log 78). -/
def State.prefetchPlace (s : State) (va : Nat) : State × Option (Nat × Nat) :=
  if va / 2 ^ 60 = 0 then
    if va / 2 ^ 56 ≠ 0 then (s, none)
    else match s.translate s.th.core s.th.ctx va .load with
      | (s, .ok x) => match placeOf (x.addr va) x.region with
        | .mem pa r => (s, if x.ns then none else some (pa, r))
        | _ => (s, none)
      | (s, .error _) => (s, none)
  else if va / 2 ^ 60 = 3 then
    match s.reach s.th .load none va 1 with
    | (s, .ok (.mem pa r)) => (s, some (pa, r))
    | (s, _) => (s, none)
  else (s, none)

/-! ### Scalar loads and stores (R223, R224) -/

/-- lb (R223). -/
def execLb (d : Reg) (a : Reg) (i : BitVec 11) (s : State) : Res :=
  s.loadAt (encRi 0x30 d a i) d (·.baseImm a i) 1 true .l1

/-- lbu (R223). -/
def execLbu (d : Reg) (a : Reg) (i : BitVec 11) (s : State) : Res :=
  s.loadAt (encRi 0x31 d a i) d (·.baseImm a i) 1 false .l1

/-- lh (R223). -/
def execLh (d : Reg) (a : Reg) (i : BitVec 11) (s : State) : Res :=
  s.loadAt (encRi 0x32 d a i) d (·.baseImm a i) 2 true .l1

/-- lhu (R223). -/
def execLhu (d : Reg) (a : Reg) (i : BitVec 11) (s : State) : Res :=
  s.loadAt (encRi 0x33 d a i) d (·.baseImm a i) 2 false .l1

/-- lw (R223). -/
def execLw (d : Reg) (a : Reg) (i : BitVec 11) (s : State) : Res :=
  s.loadAt (encRi 0x34 d a i) d (·.baseImm a i) 4 true .l1

/-- lwu (R223). -/
def execLwu (d : Reg) (a : Reg) (i : BitVec 11) (s : State) : Res :=
  s.loadAt (encRi 0x35 d a i) d (·.baseImm a i) 4 false .l1

/-- ld (R223). -/
def execLd (d : Reg) (a : Reg) (i : BitVec 11) (s : State) : Res :=
  s.loadAt (encRi 0x36 d a i) d (·.baseImm a i) 8 false .l1

/-- sb (R223). -/
def execSb (d : Reg) (a : Reg) (i : BitVec 11) (s : State) : Res :=
  s.storeAt (encRi 0x37 d a i) d (·.baseImm a i) 1 .l1

/-- sh (R223). -/
def execSh (d : Reg) (a : Reg) (i : BitVec 11) (s : State) : Res :=
  s.storeAt (encRi 0x38 d a i) d (·.baseImm a i) 2 .l1

/-- sw (R223). -/
def execSw (d : Reg) (a : Reg) (i : BitVec 11) (s : State) : Res :=
  s.storeAt (encRi 0x39 d a i) d (·.baseImm a i) 4 .l1

/-- sd (R223). -/
def execSd (d : Reg) (a : Reg) (i : BitVec 11) (s : State) : Res :=
  s.storeAt (encRi 0x3A d a i) d (·.baseImm a i) 8 .l1

/-- lp (R224). -/
def execLp (d : Reg) (a : Reg) (b : Reg) (z : Size4) (p : Policy) (s : State) : Res :=
  s.loadAt (encRr 0x3B (z.code + 4 * p.code) d a b) d (·.baseIndex a b z) (2 ^ z.code) false p

/-- sp (R224). -/
def execSp (d : Reg) (a : Reg) (b : Reg) (z : Size4) (p : Policy) (s : State) : Res :=
  s.storeAt (encRr 0x3C (z.code + 4 * p.code) d a b) d (·.baseIndex a b z) (2 ^ z.code) p

/-- pf (R225). -/
def execPf (l : PfLevel) (a : Reg) (i : BitVec 11) (s : State) : Res :=
  s.guarded (encRi 0x3D l.code a i) fun s =>
    match s.prefetchPlace (s.baseImm a i).toNat with
    | (s, some (pa, r)) => .next (match l with
      | .toL1 => s.fillLine s.th.core s.th.ctx s.th.uid pa r
      | .toLlc => if s.dieAnswers pa then ((s.readLine (pa / 4)).touchLine (pa / 4)).touchDie s.th.ctx (homeDie pa) else s).adv
    | (s, none) => .next s.adv

/-! ### Vector loads and stores (R226 to R229) -/

/-- vld (R226). -/
def execVld (d : Reg) (a : Reg) (b : Reg) (z : Size3) (p : Policy) (s : State) : Res :=
  s.vload (encRr 0x54 (z.code + 4 * p.code) d a b) d (2 ^ z.code) p fun s => s.strided a b (2 ^ z.code)

/-- vst (R226). -/
def execVst (d : Reg) (a : Reg) (b : Reg) (z : Size3) (p : Policy) (s : State) : Res :=
  s.vstore (encRr 0x55 (z.code + 4 * p.code) d a b) d (2 ^ z.code) p fun s => s.strided a b (2 ^ z.code)

/-- vgth (R227). -/
def execVgth (d : Reg) (a : Reg) (b : Reg) (z : Size3) (p : Policy) (s : State) : Res :=
  s.vload (encRr 0x56 (z.code + 4 * p.code) d a b) d (2 ^ z.code) p fun s => s.offsetAddr b a

/-- vsct (R227). -/
def execVsct (d : Reg) (a : Reg) (b : Reg) (z : Size3) (p : Policy) (s : State) : Res :=
  s.vstore (encRr 0x57 (z.code + 4 * p.code) d a b) d (2 ^ z.code) p fun s => s.offsetAddr b a

/-- vll (R229). -/
def execVll (d : Reg) (a : Reg) (b : Reg) (z : Size3) (s : State) : Res :=
  s.localLoad (encRr 0x58 z.code d a b) d (2 ^ z.code) fun s => s.strided a b (2 ^ z.code)

/-- vsl (R229). -/
def execVsl (d : Reg) (a : Reg) (b : Reg) (z : Size3) (s : State) : Res :=
  s.localStore (encRr 0x59 z.code d a b) d (2 ^ z.code) fun s => s.strided a b (2 ^ z.code)

/-- vllg (R229). -/
def execVllg (d : Reg) (a : Reg) (z : Size3) (s : State) : Res :=
  s.localLoad (encRr 0x5A z.code d a 0) d (2 ^ z.code) fun s => s.laneOffset a

/-- vslg (R229). -/
def execVslg (d : Reg) (a : Reg) (z : Size3) (s : State) : Res :=
  s.localStore (encRr 0x5B z.code d a 0) d (2 ^ z.code) fun s => s.laneOffset a

/-! ### Atomics (R230 to R232) -/

/-- amo_add (R230). -/
def execAmoAdd (d : Reg) (a : Reg) (b : Reg) (s : State) : Res :=
  s.amo (encRr 0x5C 0 d a b) .add 4 d a b

/-- amo_and (R230). -/
def execAmoAnd (d : Reg) (a : Reg) (b : Reg) (s : State) : Res :=
  s.amo (encRr 0x5C 1 d a b) .and 4 d a b

/-- amo_or (R230). -/
def execAmoOr (d : Reg) (a : Reg) (b : Reg) (s : State) : Res :=
  s.amo (encRr 0x5C 2 d a b) .or 4 d a b

/-- amo_xor (R230). -/
def execAmoXor (d : Reg) (a : Reg) (b : Reg) (s : State) : Res :=
  s.amo (encRr 0x5C 3 d a b) .xor 4 d a b

/-- amo_min (R230). -/
def execAmoMin (d : Reg) (a : Reg) (b : Reg) (s : State) : Res :=
  s.amo (encRr 0x5C 4 d a b) .min 4 d a b

/-- amo_max (R230). -/
def execAmoMax (d : Reg) (a : Reg) (b : Reg) (s : State) : Res :=
  s.amo (encRr 0x5C 5 d a b) .max 4 d a b

/-- amo_minu (R230). -/
def execAmoMinu (d : Reg) (a : Reg) (b : Reg) (s : State) : Res :=
  s.amo (encRr 0x5C 6 d a b) .minu 4 d a b

/-- amo_maxu (R230). -/
def execAmoMaxu (d : Reg) (a : Reg) (b : Reg) (s : State) : Res :=
  s.amo (encRr 0x5C 7 d a b) .maxu 4 d a b

/-- amo_xchg (R230). -/
def execAmoXchg (d : Reg) (a : Reg) (b : Reg) (s : State) : Res :=
  s.amo (encRr 0x5C 8 d a b) .xchg 4 d a b

/-- amo_fadd (R230). -/
def execAmoFadd (d : Reg) (a : Reg) (b : Reg) (s : State) : Res :=
  s.amo (encRr 0x5C 9 d a b) .fadd 4 d a b

/-- amo_cas (R230). -/
def execAmoCas (d : Reg) (a : Reg) (b : Reg) (s : State) : Res :=
  s.amo (encRr 0x5C 10 d a b) .cas 4 d a b

/-- amo_d_add (R230). -/
def execAmoDAdd (d : Reg) (a : Reg) (b : Reg) (s : State) : Res :=
  s.amo (encRr 0x5D 0 d a b) .add 8 d a b

/-- amo_d_and (R230). -/
def execAmoDAnd (d : Reg) (a : Reg) (b : Reg) (s : State) : Res :=
  s.amo (encRr 0x5D 1 d a b) .and 8 d a b

/-- amo_d_or (R230). -/
def execAmoDOr (d : Reg) (a : Reg) (b : Reg) (s : State) : Res :=
  s.amo (encRr 0x5D 2 d a b) .or 8 d a b

/-- amo_d_xor (R230). -/
def execAmoDXor (d : Reg) (a : Reg) (b : Reg) (s : State) : Res :=
  s.amo (encRr 0x5D 3 d a b) .xor 8 d a b

/-- amo_d_min (R230). -/
def execAmoDMin (d : Reg) (a : Reg) (b : Reg) (s : State) : Res :=
  s.amo (encRr 0x5D 4 d a b) .min 8 d a b

/-- amo_d_max (R230). -/
def execAmoDMax (d : Reg) (a : Reg) (b : Reg) (s : State) : Res :=
  s.amo (encRr 0x5D 5 d a b) .max 8 d a b

/-- amo_d_minu (R230). -/
def execAmoDMinu (d : Reg) (a : Reg) (b : Reg) (s : State) : Res :=
  s.amo (encRr 0x5D 6 d a b) .minu 8 d a b

/-- amo_d_maxu (R230). -/
def execAmoDMaxu (d : Reg) (a : Reg) (b : Reg) (s : State) : Res :=
  s.amo (encRr 0x5D 7 d a b) .maxu 8 d a b

/-- amo_d_xchg (R230). -/
def execAmoDXchg (d : Reg) (a : Reg) (b : Reg) (s : State) : Res :=
  s.amo (encRr 0x5D 8 d a b) .xchg 8 d a b

/-- amo_d_fadd (R230). -/
def execAmoDFadd (d : Reg) (a : Reg) (b : Reg) (s : State) : Res :=
  s.amo (encRr 0x5D 9 d a b) .fadd 8 d a b

/-- amo_d_cas (R230). -/
def execAmoDCas (d : Reg) (a : Reg) (b : Reg) (s : State) : Res :=
  s.amo (encRr 0x5D 10 d a b) .cas 8 d a b

/-- vamo_add (R232). -/
def execVamoAdd (d : Reg) (a : Reg) (b : Reg) (s : State) : Res :=
  s.vamo (encRr 0x5E 0 d a b) .add d a b

/-- vamo_and (R232). -/
def execVamoAnd (d : Reg) (a : Reg) (b : Reg) (s : State) : Res :=
  s.vamo (encRr 0x5E 1 d a b) .and d a b

/-- vamo_or (R232). -/
def execVamoOr (d : Reg) (a : Reg) (b : Reg) (s : State) : Res :=
  s.vamo (encRr 0x5E 2 d a b) .or d a b

/-- vamo_xor (R232). -/
def execVamoXor (d : Reg) (a : Reg) (b : Reg) (s : State) : Res :=
  s.vamo (encRr 0x5E 3 d a b) .xor d a b

/-- vamo_min (R232). -/
def execVamoMin (d : Reg) (a : Reg) (b : Reg) (s : State) : Res :=
  s.vamo (encRr 0x5E 4 d a b) .min d a b

/-- vamo_max (R232). -/
def execVamoMax (d : Reg) (a : Reg) (b : Reg) (s : State) : Res :=
  s.vamo (encRr 0x5E 5 d a b) .max d a b

/-- vamo_minu (R232). -/
def execVamoMinu (d : Reg) (a : Reg) (b : Reg) (s : State) : Res :=
  s.vamo (encRr 0x5E 6 d a b) .minu d a b

/-- vamo_maxu (R232). -/
def execVamoMaxu (d : Reg) (a : Reg) (b : Reg) (s : State) : Res :=
  s.vamo (encRr 0x5E 7 d a b) .maxu d a b

/-- vamo_xchg (R232). -/
def execVamoXchg (d : Reg) (a : Reg) (b : Reg) (s : State) : Res :=
  s.vamo (encRr 0x5E 8 d a b) .xchg d a b

/-- vamo_fadd (R232). -/
def execVamoFadd (d : Reg) (a : Reg) (b : Reg) (s : State) : Res :=
  s.vamo (encRr 0x5E 9 d a b) .fadd d a b

/-- vamo_cas (R232). -/
def execVamoCas (d : Reg) (a : Reg) (b : Reg) (s : State) : Res :=
  s.vamo (encRr 0x5E 10 d a b) .cas d a b

end Sys2Proof.Machine
end

