-- ==== Sys2Proof/Machine/LatticeNum.lean ====
section
/-! DEFINITION. The Lattice's numbers: format blocks and dimensions, where operands lie, plane integers, how sums are formed,
and the Sieve (R139 to R149, R305, R306, R314). -/

namespace Sys2Proof.Machine

open Sys2Proof

/-! ### Format blocks and dimensions (R305, R306) -/

def noBase : Nat := 0xFFFFFFFF

def isMille (code : Nat) : Bool := code = 0x20 || code = 0x21

def isFloat (code : Nat) : Bool := decide (0x10 ≤ code) && decide (code ≤ 0x13)

/-- L of a block length code (R143). -/
def blockLen (code : Nat) : Nat := if code = 0 then 0 else 8 * 2 ^ code

def dimM (x : Nat) : Nat := x % 2 ^ 8
def dimN (x : Nat) : Nat := x / 2 ^ 8 % 2 ^ 8
def dimKG (x : Nat) : Nat := x / 2 ^ 16 % 2 ^ 9
def dimRA (x : Nat) : Nat := x / 2 ^ 32 % 2 ^ 8
def dimRB (x : Nat) : Nat := x / 2 ^ 40 % 2 ^ 8
def dimGS (x : Nat) : Nat := x / 2 ^ 48 % 2 ^ 9

/-- The dimensions register is within its limits (R306). -/
def dimsOk (x : Nat) (gather : Bool) : Bool :=
  decide (x / 2 ^ 57 = 0) && decide (x / 2 ^ 25 % 2 ^ 7 = 0) && decide (1 ≤ dimM x) && decide (dimM x ≤ 128) &&
    decide (1 ≤ dimN x) && decide (dimN x ≤ 64) && decide (1 ≤ dimKG x) && decide (dimKG x ≤ 256) &&
    (dimGS x = 0 || (decide (dimKG x ≤ dimGS x) && decide (dimGS x ≤ 256))) && (dimRB x = 0 || decide (dimN x ≤ dimRB x)) &&
    (dimRA x = 0 || gather || decide (dimM x ≤ dimRA x))

/-- An operand as a command reads it: side 0 is A, side 1 is B. -/
structure Operand where
  code : Nat
  base : Nat
  /-- Scale base; L is the block length in elements. -/
  scale : Option Nat
  len : Nat
  tag : Nat
  mid : Bool
  /-- Rows and K-groups stored. -/
  rows : Nat
  groups : Nat
  /-- Planes read, and planes stored. -/
  width : Nat
  planes : Nat

/-- The cost width of a float format (R19, R304). -/
def floatWidth (code : Nat) : Nat :=
  match code with
  | 0x10 => 8
  | 0x11 => 11
  | 0x12 => 4
  | _ => 3

def operandOf (fb : List Byte) (dims side w : Nat) : Operand :=
  let code := fld fb (16 + side) 1
  let planes := fld fb (18 + side) 1
  let sb := fld fb (8 + 4 * side) 4
  let r := if side = 0 then dimRA dims else dimRB dims
  { code := code
    base := fld fb (4 * side) 4
    scale := if sb = noBase then none else some sb
    len := blockLen (fld fb (20 + side) 1)
    tag := fld fb (22 + side) 1
    mid := hasBit (fld fb 28 1) side
    rows := if r ≠ 0 then r else if side = 0 then dimM dims else dimN dims
    groups := if dimGS dims = 0 then dimKG dims else dimGS dims
    width := if isMille code then (if w = 0 then planes else w) else floatWidth code
    planes := planes }

def Operand.mille (o : Operand) : Bool := isMille o.code

def Operand.size (o : Operand) : Nat := if o.code = 0x10 || o.code = 0x11 then 2 else 1

def Operand.fmt (o : Operand) : FpFmt :=
  match o.code with
  | 0x10 => bf16
  | 0x11 => fp16
  | 0x12 => e4m3
  | _ => e5m2

/-- The RK-X swizzle (R283). -/
def swz (o : Nat) : Nat := o ^^^ (o / 2 ^ 7 % 8 * 2 ^ 4)

/-- Offset of the 16-bit word of plane p, row i, group g (R142). -/
def planeAt (base rows groups p i g : Nat) : Nat := base + ((p * rows + i) * groups + g) * 2

/-- Offset of element k of row i (R306). -/
def Operand.elemAt (o : Operand) (i k : Nat) : Nat :=
  let rk := o.base + (i * (16 * o.groups) + k) * o.size
  match o.tag with
  | 1 => o.base + (k * o.rows + i) * o.size
  | 0x20 => swz rk
  | _ => rk

/-- Offset of the scale byte of row i, block b. -/
def Operand.scaleAt (o : Operand) (base i b : Nat) : Nat := base + i * (16 * o.groups / o.len) + b

/-- Offsets and sizes of the bytes that K-groups g0 to g1 - 1 of an operand's rows occupy. -/
def Operand.readsIn (o : Operand) (g0 g1 : Nat) (is : List Nat) : List (Nat × Nat) :=
  let gs := (List.range (g1 - g0)).map (g0 + ·)
  is.flatMap fun i =>
    if o.mille then (List.range o.width).flatMap fun p => gs.map fun g => (planeAt o.base o.rows o.groups p i g, 2)
    else (List.range (16 * (g1 - g0))).map fun k => (o.elemAt i (16 * g0 + k), o.size)

/-- Offsets and sizes of the bytes a command reads of an operand's rows. -/
def Operand.reads (o : Operand) (kg : Nat) (is : List Nat) : List (Nat × Nat) := o.readsIn 0 kg is

/-- Offsets of the scale bytes it reads. -/
def Operand.scaleReads (o : Operand) (kg : Nat) (is : List Nat) : List (Nat × Nat) :=
  match o.scale with
  | some sb => is.flatMap fun i => (List.range (16 * kg / o.len)).map fun b => (o.scaleAt sb i b, 1)
  | none => []

/-! ### Values (R139 to R143) -/

/-- q of w bits given most significant first, signed or not (R139). -/
def planeInt (unsigned : Bool) (w : Nat) (bs : List Bool) : Int :=
  let q : Nat := bs.foldl (fun acc b => 2 * acc + (if b then 1 else 0)) 0
  if unsigned then (q : Int) else sextNat q w

/-- What k planes of a w-plane value enter a sum as (R140, R141). -/
def planeTerm (unsigned mid : Bool) (k w : Nat) (bs : List Bool) : Int :=
  planeInt unsigned k bs * 2 ^ (w - k) + (if mid && decide (k < w) then 2 ^ (w - k - 1) else 0)

/-- Bit j of the 16-bit word at an offset. -/
def Block.planeBit (b : Block) (o j : Nat) : Bool := b.lsRead o 2 / 2 ^ j % 2 = 1

def Operand.int (o : Operand) (b : Block) (i k : Nat) : Int :=
  planeTerm (o.code = 0x21) o.mid o.width o.planes
    ((List.range o.width).map fun p => b.planeBit (planeAt o.base o.rows o.groups p i (k / 16)) (k % 16))

def Operand.float (o : Operand) (b : Block) (i k : Nat) : FpVal := o.fmt.val (b.lsRead (o.elemAt i k) o.size)

/-- The scale exponent of a block: 127 where the operand is not scaled (R144, R148). -/
def Operand.exp (o : Operand) (b : Block) (i blk : Nat) : Nat :=
  match o.scale with
  | some sb => b.lsRead (o.scaleAt sb i blk) 1
  | none => 127

/-! ### Sums (R146 to R149) -/

def intSum (f g : Nat → Int) (from' n : Nat) : Int := ((List.range n).map fun j => f (from' + j) * g (from' + j)).sum

/-- R147, step 2: s · 2^(ea + eb - 254) rounded to FP32. -/
def scaledTerm (x : Int) (ea eb : Nat) : Nat × Nat :=
  if ea = 255 || eb = 255 then (fp32.nan, flagNV) else fp32.roundInt 0 false x ((ea + eb : Nat) - 254 : Int) false

/-- A NaN input of the Lattice is quiet (R130). -/
def FpVal.quiet : FpVal → FpVal
  | .nan _ => .nan false
  | v => v

/-- One FP32 addition into the accumulator, with the flags so far (R130, R147, R149). -/
def accAdd (acc v : Nat × Nat) : Nat × Nat :=
  let r := fp32.addV 0 false (fp32.val acc.1).quiet (fp32.val v.1).quiet
  (r.1, acc.2 ||| v.2 ||| r.2)

def magLog (m : Nat) (e : Int) : Int := e + bitLen m - 1

/-- R149: the value of one 16-element group of products; none where every product is zero. -/
def groupTerm (ps : List (FpVal × Bool)) : Option (Nat × Nat) :=
  let bad (p : FpVal × Bool) : Bool := p.2 || p.1.isNan
  let isInf (neg : Bool) (p : FpVal × Bool) : Bool := p.1 = .inf neg
  if ps.any bad || (ps.any (isInf true) && ps.any (isInf false)) then some (fp32.nan, flagNV)
  else if ps.any (isInf false) then some (fp32.top, 0)
  else if ps.any (isInf true) then some (fp32.top + fp32.signBit, 0)
  else
    let nz := ps.filterMap fun (p : FpVal × Bool) => match p.1 with
      | .fin s m e => if m = 0 then none else some (s, m, e)
      | _ => none
    match nz with
    | [] => none
    | (_, m0, e0) :: _ =>
      let big := nz.foldl (fun acc (x : Bool × Nat × Int) => max acc (magLog x.2.1 x.2.2)) (magLog m0 e0)
      let unit := big - 47
      let sum := (nz.map fun (x : Bool × Nat × Int) =>
        signed x.1 (if unit ≤ x.2.2 then x.2.1 * 2 ^ (x.2.2 - unit).toNat else x.2.1 / 2 ^ (unit - x.2.2).toNat)).sum
      some (fp32.roundInt 0 false sum unit false)

/-- An output element before the first K-group: its prior pattern, or zero with overwrite. -/
def PartSum.start (old : W32) : PartSum := ⟨0, old.toNat, 0⟩

/-- The block length, in elements, over which products are summed before they are scaled (R144, R147). -/
def scaleLen (a b : Operand) : Nat := if a.scale.isSome then a.len else if b.scale.isSome then b.len else 16

/-- One K-group of one output element (R146, R147, R149). -/
def PartSum.group (blk : Block) (a b : Operand) (int32 : Bool) (i n : Nat) (p : PartSum) (g : Nat) : PartSum :=
  if a.mille then
    let x := p.sum + intSum (a.int blk i) (b.int blk n) (16 * g) 16
    let l := scaleLen a b
    if int32 || 16 * (g + 1) % l ≠ 0 then { p with sum := x }
    else
      let q := 16 * g / l
      let r := accAdd (p.acc, p.flags) (scaledTerm x (a.exp blk i q) (b.exp blk n q))
      ⟨0, r.1, r.2⟩
  else match groupTerm ((List.range 16).map fun j => mulV (a.float blk i (16 * g + j)) (b.float blk n (16 * g + j))) with
    | some v => let r := accAdd (p.acc, p.flags) v
      ⟨0, r.1, r.2⟩
    | none => p

/-- The finished element: its pattern, its flags, and whether an INT32 sum left its range (R146). -/
def PartSum.done (int32 : Bool) (p : PartSum) : W32 × Nat × Bool :=
  if int32 then
    let r := p.sum + (BitVec.ofNat 32 p.acc).toInt
    (BitVec.ofInt 32 r, 0, !(decide (-(2 ^ 31 : Int) ≤ r) && decide (r < 2 ^ 31)))
  else (BitVec.ofNat 32 p.acc, p.flags, false)

/-! ### The Sieve (R145) -/

/-- `rne(x / 2^k)` as an integer. -/
def rneShift (x : Int) (k : Nat) : Int :=
  let q := x / 2 ^ k
  let r := x % 2 ^ k
  if (2 ^ k : Int) < 2 * r || (2 * r = (2 ^ k : Int) && decide (q % 2 ≠ 0)) then q + 1 else q

/-- Candidate c for a block given in units of 2^-149: the integers and the exact squared error. -/
def sieveTry (top low : Int) (c : Nat) (xs : List Int) : List Int × Nat :=
  let qs := xs.map fun x => max low (min top (rneShift x (c + 22)))
  (qs, ((xs.zip qs).map fun (p : Int × Int) => ((p.1 - p.2 * 2 ^ (c + 22)) ^ 2).natAbs).sum)

/-- R145: the scale exponent, the integers, and whether NV is set. -/
def sieve (xs : List Nat) (w : Nat) (unsigned : Bool) : Nat × List Int × Bool :=
  let vs := xs.map fp32.val
  let fin (v : FpVal) : Int := match v with
    | .fin s m e => signed s (m * 2 ^ (e + 149).toNat)
    | _ => 0
  let is := vs.map fin
  let big := is.foldl (fun m x => max m x.natAbs) 0
  let zeros : List Int := xs.map fun _ => 0
  if vs.any fun v => match v with
    | .fin .. => false
    | _ => true then (255, zeros, true)
  else if big = 0 then (127, zeros, false)
  else
    let top : Int := if unsigned then 2 ^ w - 1 else 2 ^ (w - 1) - 1
    let low : Int := if unsigned then 0 else -(2 ^ (w - 1))
    let e0 := ((List.range 255).find? fun e => decide (rneShift big (e + 22) ≤ top)).getD 254
    let cs := (if e0 = 0 then [] else [e0 - 1]) ++ [e0] ++ (if e0 = 254 then [] else [e0 + 1])
    let best := cs.foldl (fun (best : Option (Nat × List Int × Nat)) c =>
      let r := sieveTry top low c is
      match best with
      | some b => if r.2 ≤ b.2.2 then some (c, r.1, r.2) else best
      | none => some (c, r.1, r.2)) none
    match best with
    | some b => (b.1, b.2.1, false)
    | none => (127, zeros, false)

/-- Plane p of the w-bit value q (R333). -/
def planeOf (q : Int) (w p : Nat) : Bool := q / 2 ^ (w - 1 - p) % 2 ≠ 0

end Sys2Proof.Machine
end

