-- ==== Sys2Proof/Machine/Scalar.lean ====
section
/-! DEFINITION. Scalar and control instructions: majors 0x01 to 0x06, 0x10 to 0x1C, 0x20 to 0x2B, 0x2F and the hint space
(R113, R114, R119, R174, R178 to R188, R195). -/

namespace Sys2Proof.Machine

open Sys2Proof

/-! ### Shared operations -/

/-- An instruction whose one effect is a scalar result (R172, R173). -/
def State.result (s : State) (w : W32) (d : Reg) (f : State → Word) : Res := s.guarded w fun s => .next (s.sset d (f s)).adv

/-- An instruction whose one effect is a triple result (R183). -/
def State.resultT (s : State) (w : W32) (d : Reg) (f : State → Nat → Bool) : Res := s.guarded w fun s => .next (s.tset d (f s)).adv

/-- A branch (R114, R186, R187). -/
def State.branch (s : State) (w : W32) (x : BitVec 11) (c : State → Bool) : Res :=
  s.guarded w fun s => .next (if c s then s.goto (target s.th.pc x) else s.adv)

def bool64 (b : Bool) : Word := if b then 1 else 0

def sminB {n : Nat} (x y : BitVec n) : BitVec n := if x.slt y then x else y
def smaxB {n : Nat} (x y : BitVec n) : BitVec n := if x.slt y then y else x
def uminB {n : Nat} (x y : BitVec n) : BitVec n := if x.ult y then x else y
def umaxB {n : Nat} (x y : BitVec n) : BitVec n := if x.ult y then y else x

/-- Signed quotient toward zero; -1 by zero (R180). -/
def sdivB {n : Nat} (x y : BitVec n) : BitVec n := if y = 0 then BitVec.allOnes n else BitVec.ofInt n (x.toInt.tdiv y.toInt)

/-- Signed remainder with the dividend's sign; the dividend by zero (R180). -/
def sremB {n : Nat} (x y : BitVec n) : BitVec n := if y = 0 then x else BitVec.ofInt n (x.toInt.tmod y.toInt)

def udivB {n : Nat} (x y : BitVec n) : BitVec n := if y = 0 then BitVec.allOnes n else BitVec.ofNat n (x.toNat / y.toNat)

def uremB {n : Nat} (x y : BitVec n) : BitVec n := if y = 0 then x else BitVec.ofNat n (x.toNat % y.toNat)

/-- Leading zero bits (R181, R204). -/
def clzB {n : Nat} (x : BitVec n) : Nat := n - bitLen x.toNat

/-- Trailing zero bits (R181). -/
def ctzB {n : Nat} (x : BitVec n) : Nat := ((List.range n).find? fun i => x.getLsbD i).getD n

def popB {n : Nat} (x : BitVec n) : Nat := (List.range n).countP fun i => x.getLsbD i

/-- Bit i moves to bit n - 1 - i (R181, R204). -/
def revB {n : Nat} (x : BitVec n) : BitVec n := BitVec.ofNat n ((List.range n).foldl (fun a i => 2 * a + (x.getLsbD i).toNat) 0)

/-- The bytes in reverse order (R181, R204): k bytes. -/
def swapB {n : Nat} (k : Nat) (x : BitVec n) : BitVec n := BitVec.ofNat n (leNat (leBytes k x.toNat).reverse)

def sextLow {n : Nat} (k : Nat) (x : BitVec n) : BitVec n := BitVec.ofInt n (sextNat x.toNat k)

def zextLow {n : Nat} (k : Nat) (x : BitVec n) : BitVec n := BitVec.ofNat n (x.toNat % 2 ^ k)

/-! ### Major 0x01 (R178) -/

/-- add (R178). -/
def execAdd (d : Reg) (a : Reg) (b : Reg) (s : State) : Res :=
  s.result (encRr 0x01 0 d a b) d fun s => s.sget a + s.sget b

/-- sub (R178). -/
def execSub (d : Reg) (a : Reg) (b : Reg) (s : State) : Res :=
  s.result (encRr 0x01 1 d a b) d fun s => s.sget a - s.sget b

/-- and (R178). -/
def execAnd (d : Reg) (a : Reg) (b : Reg) (s : State) : Res :=
  s.result (encRr 0x01 2 d a b) d fun s => s.sget a &&& s.sget b

/-- or (R178). -/
def execOr (d : Reg) (a : Reg) (b : Reg) (s : State) : Res :=
  s.result (encRr 0x01 3 d a b) d fun s => s.sget a ||| s.sget b

/-- xor (R178). -/
def execXor (d : Reg) (a : Reg) (b : Reg) (s : State) : Res :=
  s.result (encRr 0x01 4 d a b) d fun s => s.sget a ^^^ s.sget b

/-- andn (R178). -/
def execAndn (d : Reg) (a : Reg) (b : Reg) (s : State) : Res :=
  s.result (encRr 0x01 5 d a b) d fun s => s.sget a &&& ~~~(s.sget b)

/-- sll (R178). -/
def execSll (d : Reg) (a : Reg) (b : Reg) (s : State) : Res :=
  s.result (encRr 0x01 6 d a b) d fun s => s.sget a <<< ((s.sget b).toNat % 64)

/-- srl (R178). -/
def execSrl (d : Reg) (a : Reg) (b : Reg) (s : State) : Res :=
  s.result (encRr 0x01 7 d a b) d fun s => s.sget a >>> ((s.sget b).toNat % 64)

/-- sra (R178). -/
def execSra (d : Reg) (a : Reg) (b : Reg) (s : State) : Res :=
  s.result (encRr 0x01 8 d a b) d fun s => (s.sget a).sshiftRight ((s.sget b).toNat % 64)

/-- min (R178). -/
def execMin (d : Reg) (a : Reg) (b : Reg) (s : State) : Res :=
  s.result (encRr 0x01 9 d a b) d fun s => sminB (s.sget a) (s.sget b)

/-- max (R178). -/
def execMax (d : Reg) (a : Reg) (b : Reg) (s : State) : Res :=
  s.result (encRr 0x01 10 d a b) d fun s => smaxB (s.sget a) (s.sget b)

/-- minu (R178). -/
def execMinu (d : Reg) (a : Reg) (b : Reg) (s : State) : Res :=
  s.result (encRr 0x01 11 d a b) d fun s => uminB (s.sget a) (s.sget b)

/-- maxu (R178). -/
def execMaxu (d : Reg) (a : Reg) (b : Reg) (s : State) : Res :=
  s.result (encRr 0x01 12 d a b) d fun s => umaxB (s.sget a) (s.sget b)

/-- slt (R178). -/
def execSlt (d : Reg) (a : Reg) (b : Reg) (s : State) : Res :=
  s.result (encRr 0x01 13 d a b) d fun s => bool64 ((s.sget a).slt (s.sget b))

/-- sltu (R178). -/
def execSltu (d : Reg) (a : Reg) (b : Reg) (s : State) : Res :=
  s.result (encRr 0x01 14 d a b) d fun s => bool64 ((s.sget a).ult (s.sget b))

/-- seq (R178). -/
def execSeq (d : Reg) (a : Reg) (b : Reg) (s : State) : Res :=
  s.result (encRr 0x01 15 d a b) d fun s => bool64 (decide (s.sget a = s.sget b))

/-! ### Major 0x02 (R179) -/

/-- A 32-bit operation on the low halves, sign-extended. -/
def State.resultW (s : State) (w : W32) (d a b : Reg) (f : W32 → W32 → W32) : Res := s.result w d fun s => sext64 (f (s.sget32 a) (s.sget32 b))

def bool32 (b : Bool) : W32 := if b then 1 else 0

/-- add_w (R179). -/
def execAddW (d : Reg) (a : Reg) (b : Reg) (s : State) : Res :=
  s.resultW (encRr 0x02 0 d a b) d a b fun x y => x + y

/-- sub_w (R179). -/
def execSubW (d : Reg) (a : Reg) (b : Reg) (s : State) : Res :=
  s.resultW (encRr 0x02 1 d a b) d a b fun x y => x - y

/-- and_w (R179). -/
def execAndW (d : Reg) (a : Reg) (b : Reg) (s : State) : Res :=
  s.resultW (encRr 0x02 2 d a b) d a b fun x y => x &&& y

/-- or_w (R179). -/
def execOrW (d : Reg) (a : Reg) (b : Reg) (s : State) : Res :=
  s.resultW (encRr 0x02 3 d a b) d a b fun x y => x ||| y

/-- xor_w (R179). -/
def execXorW (d : Reg) (a : Reg) (b : Reg) (s : State) : Res :=
  s.resultW (encRr 0x02 4 d a b) d a b fun x y => x ^^^ y

/-- andn_w (R179). -/
def execAndnW (d : Reg) (a : Reg) (b : Reg) (s : State) : Res :=
  s.resultW (encRr 0x02 5 d a b) d a b fun x y => x &&& ~~~y

/-- sll_w (R179). -/
def execSllW (d : Reg) (a : Reg) (b : Reg) (s : State) : Res :=
  s.resultW (encRr 0x02 6 d a b) d a b fun x y => x <<< (y.toNat % 32)

/-- srl_w (R179). -/
def execSrlW (d : Reg) (a : Reg) (b : Reg) (s : State) : Res :=
  s.resultW (encRr 0x02 7 d a b) d a b fun x y => x >>> (y.toNat % 32)

/-- sra_w (R179). -/
def execSraW (d : Reg) (a : Reg) (b : Reg) (s : State) : Res :=
  s.resultW (encRr 0x02 8 d a b) d a b fun x y => x.sshiftRight (y.toNat % 32)

/-- min_w (R179). -/
def execMinW (d : Reg) (a : Reg) (b : Reg) (s : State) : Res :=
  s.resultW (encRr 0x02 9 d a b) d a b fun x y => sminB x y

/-- max_w (R179). -/
def execMaxW (d : Reg) (a : Reg) (b : Reg) (s : State) : Res :=
  s.resultW (encRr 0x02 10 d a b) d a b fun x y => smaxB x y

/-- minu_w (R179). -/
def execMinuW (d : Reg) (a : Reg) (b : Reg) (s : State) : Res :=
  s.resultW (encRr 0x02 11 d a b) d a b fun x y => uminB x y

/-- maxu_w (R179). -/
def execMaxuW (d : Reg) (a : Reg) (b : Reg) (s : State) : Res :=
  s.resultW (encRr 0x02 12 d a b) d a b fun x y => umaxB x y

/-- slt_w (R179). -/
def execSltW (d : Reg) (a : Reg) (b : Reg) (s : State) : Res :=
  s.resultW (encRr 0x02 13 d a b) d a b fun x y => bool32 (x.slt y)

/-- sltu_w (R179). -/
def execSltuW (d : Reg) (a : Reg) (b : Reg) (s : State) : Res :=
  s.resultW (encRr 0x02 14 d a b) d a b fun x y => bool32 (x.ult y)

/-- seq_w (R179). -/
def execSeqW (d : Reg) (a : Reg) (b : Reg) (s : State) : Res :=
  s.resultW (encRr 0x02 15 d a b) d a b fun x y => bool32 (decide (x = y))

/-! ### Major 0x03 (R180) -/

/-- mul (R180). -/
def execMul (d : Reg) (a : Reg) (b : Reg) (s : State) : Res :=
  s.result (encRr 0x03 0 d a b) d fun s => s.sget a * s.sget b

/-- mulh (R180). -/
def execMulh (d : Reg) (a : Reg) (b : Reg) (s : State) : Res :=
  s.result (encRr 0x03 1 d a b) d fun s => BitVec.ofInt 64 ((s.sget a).toInt * (s.sget b).toInt / 2 ^ 64)

/-- mulhu (R180). -/
def execMulhu (d : Reg) (a : Reg) (b : Reg) (s : State) : Res :=
  s.result (encRr 0x03 2 d a b) d fun s => BitVec.ofNat 64 ((s.sget a).toNat * (s.sget b).toNat / 2 ^ 64)

/-- mulhm (R180). -/
def execMulhm (d : Reg) (a : Reg) (b : Reg) (s : State) : Res :=
  s.result (encRr 0x03 3 d a b) d fun s => BitVec.ofInt 64 ((s.sget a).toInt * ((s.sget b).toNat : Int) / 2 ^ 64)

/-- div (R180). -/
def execDiv (d : Reg) (a : Reg) (b : Reg) (s : State) : Res :=
  s.result (encRr 0x03 4 d a b) d fun s => sdivB (s.sget a) (s.sget b)

/-- divu (R180). -/
def execDivu (d : Reg) (a : Reg) (b : Reg) (s : State) : Res :=
  s.result (encRr 0x03 5 d a b) d fun s => udivB (s.sget a) (s.sget b)

/-- rem (R180). -/
def execRem (d : Reg) (a : Reg) (b : Reg) (s : State) : Res :=
  s.result (encRr 0x03 6 d a b) d fun s => sremB (s.sget a) (s.sget b)

/-- remu (R180). -/
def execRemu (d : Reg) (a : Reg) (b : Reg) (s : State) : Res :=
  s.result (encRr 0x03 7 d a b) d fun s => uremB (s.sget a) (s.sget b)

/-- mul_w (R180). -/
def execMulW (d : Reg) (a : Reg) (b : Reg) (s : State) : Res :=
  s.resultW (encRr 0x03 8 d a b) d a b fun x y => x * y

/-- div_w (R180). -/
def execDivW (d : Reg) (a : Reg) (b : Reg) (s : State) : Res :=
  s.resultW (encRr 0x03 9 d a b) d a b fun x y => sdivB x y

/-- divu_w (R180). -/
def execDivuW (d : Reg) (a : Reg) (b : Reg) (s : State) : Res :=
  s.resultW (encRr 0x03 10 d a b) d a b fun x y => udivB x y

/-- rem_w (R180). -/
def execRemW (d : Reg) (a : Reg) (b : Reg) (s : State) : Res :=
  s.resultW (encRr 0x03 11 d a b) d a b fun x y => sremB x y

/-- remu_w (R180). -/
def execRemuW (d : Reg) (a : Reg) (b : Reg) (s : State) : Res :=
  s.resultW (encRr 0x03 12 d a b) d a b fun x y => uremB x y

/-! ### Major 0x04 (R181) and csel (R182) -/

/-- clz (R181). -/
def execClz (d : Reg) (a : Reg) (s : State) : Res :=
  s.result (encRr 0x04 0 d a 0) d fun s => BitVec.ofNat 64 (clzB (s.sget a))

/-- ctz (R181). -/
def execCtz (d : Reg) (a : Reg) (s : State) : Res :=
  s.result (encRr 0x04 1 d a 0) d fun s => BitVec.ofNat 64 (ctzB (s.sget a))

/-- popc (R181). -/
def execPopc (d : Reg) (a : Reg) (s : State) : Res :=
  s.result (encRr 0x04 2 d a 0) d fun s => BitVec.ofNat 64 (popB (s.sget a))

/-- bswap (R181). -/
def execBswap (d : Reg) (a : Reg) (s : State) : Res :=
  s.result (encRr 0x04 3 d a 0) d fun s => swapB 8 (s.sget a)

/-- brev (R181). -/
def execBrev (d : Reg) (a : Reg) (s : State) : Res :=
  s.result (encRr 0x04 4 d a 0) d fun s => revB (s.sget a)

/-- sextb (R181). -/
def execSextb (d : Reg) (a : Reg) (s : State) : Res :=
  s.result (encRr 0x04 5 d a 0) d fun s => sextLow 8 (s.sget a)

/-- sexth (R181). -/
def execSexth (d : Reg) (a : Reg) (s : State) : Res :=
  s.result (encRr 0x04 6 d a 0) d fun s => sextLow 16 (s.sget a)

/-- sextw (R181). -/
def execSextw (d : Reg) (a : Reg) (s : State) : Res :=
  s.result (encRr 0x04 7 d a 0) d fun s => sextLow 32 (s.sget a)

/-- zextb (R181). -/
def execZextb (d : Reg) (a : Reg) (s : State) : Res :=
  s.result (encRr 0x04 8 d a 0) d fun s => zextLow 8 (s.sget a)

/-- zexth (R181). -/
def execZexth (d : Reg) (a : Reg) (s : State) : Res :=
  s.result (encRr 0x04 9 d a 0) d fun s => zextLow 16 (s.sget a)

/-- zextw (R181). -/
def execZextw (d : Reg) (a : Reg) (s : State) : Res :=
  s.result (encRr 0x04 10 d a 0) d fun s => zextLow 32 (s.sget a)

/-- csel (R182). -/
def execCsel (d : Reg) (a : Reg) (b : Reg) (s : State) : Res :=
  s.result (encRr 0x05 0 d a b) d fun s => if s.sget d ≠ 0 then s.sget a else s.sget b

/-! ### Triples (R183) -/

/-- mand3 (R183). -/
def execMand3 (d : Reg) (a : Reg) (b : Reg) (s : State) : Res :=
  s.resultT (encRr 0x06 0 d a b) d fun s j => s.tbit a j && s.tbit b j

/-- mor3 (R183). -/
def execMor3 (d : Reg) (a : Reg) (b : Reg) (s : State) : Res :=
  s.resultT (encRr 0x06 1 d a b) d fun s j => s.tbit a j || s.tbit b j

/-- mandn3 (R183). -/
def execMandn3 (d : Reg) (a : Reg) (b : Reg) (s : State) : Res :=
  s.resultT (encRr 0x06 2 d a b) d fun s j => s.tbit a j && !s.tbit b j

/-- mxor3 (R183). -/
def execMxor3 (d : Reg) (a : Reg) (b : Reg) (s : State) : Res :=
  s.resultT (encRr 0x06 3 d a b) d fun s j => s.tbit a j != s.tbit b j

/-- mnot3 (R183). -/
def execMnot3 (d : Reg) (a : Reg) (s : State) : Res :=
  s.resultT (encRr 0x06 4 d a 0) d fun s j => !s.tbit a j

/-- mcnt3 (R183). -/
def execMcnt3 (d : Reg) (a : Reg) (s : State) : Res :=
  s.result (encRr 0x06 5 d a 0) d fun s => BitVec.ofNat 64 (lanes.countP (s.tbit a))

/-- mfirst3 (R183). -/
def execMfirst3 (d : Reg) (a : Reg) (s : State) : Res :=
  s.result (encRr 0x06 6 d a 0) d fun s => BitVec.ofNat 64 ((lanes.find? (s.tbit a)).getD 96)

/-! ### Immediates and constants (R113, R184, R185) -/

/-- addi (R184). -/
def execAddi (d : Reg) (a : Reg) (i : BitVec 11) (s : State) : Res :=
  s.result (encRi 0x10 d a i) d fun s => s.sget a + sext64 i

/-- andi (R184). -/
def execAndi (d : Reg) (a : Reg) (i : BitVec 11) (s : State) : Res :=
  s.result (encRi 0x11 d a i) d fun s => s.sget a &&& zext64 i

/-- ori (R184). -/
def execOri (d : Reg) (a : Reg) (i : BitVec 11) (s : State) : Res :=
  s.result (encRi 0x12 d a i) d fun s => s.sget a ||| zext64 i

/-- xori (R184). -/
def execXori (d : Reg) (a : Reg) (i : BitVec 11) (s : State) : Res :=
  s.result (encRi 0x13 d a i) d fun s => s.sget a ^^^ zext64 i

/-- slti (R184). -/
def execSlti (d : Reg) (a : Reg) (i : BitVec 11) (s : State) : Res :=
  s.result (encRi 0x14 d a i) d fun s => bool64 ((s.sget a).slt (sext64 i))

/-- sltiu (R184). -/
def execSltiu (d : Reg) (a : Reg) (i : BitVec 11) (s : State) : Res :=
  s.result (encRi 0x15 d a i) d fun s => bool64 ((s.sget a).ult (sext64 i))

/-- slli (R184). -/
def execSlli (d : Reg) (a : Reg) (i : BitVec 6) (s : State) : Res :=
  s.result (encRi 0x16 d a (i.setWidth 11)) d fun s => s.sget a <<< i.toNat

/-- srli (R184). -/
def execSrli (d : Reg) (a : Reg) (i : BitVec 6) (s : State) : Res :=
  s.result (encRi 0x17 d a (i.setWidth 11)) d fun s => s.sget a >>> i.toNat

/-- srai (R184). -/
def execSrai (d : Reg) (a : Reg) (i : BitVec 6) (s : State) : Res :=
  s.result (encRi 0x18 d a (i.setWidth 11)) d fun s => (s.sget a).sshiftRight i.toNat

/-- addi_w (R184). -/
def execAddiW (d : Reg) (a : Reg) (i : BitVec 11) (s : State) : Res :=
  s.result (encRi 0x19 d a i) d fun s => sext64 (s.sget32 a + i.signExtend 32)

/-- ldi (R185). -/
def execLdi (d : Reg) (i : BitVec 18) (s : State) : Res :=
  s.result (encRu 0x1A d i) d fun _ => sext64 i

/-- lsh (R185). -/
def execLsh (d : Reg) (i : BitVec 18) (s : State) : Res :=
  s.result (encRu 0x1B d i) d fun s => (s.sget d <<< 18) ||| zext64 i

/-- pcadd (R185). -/
def execPcadd (d : Reg) (i : BitVec 18) (s : State) : Res :=
  s.result (encRu 0x1C d i) d fun s => s.th.pc + sext64 i * 4

/-! ### Branches, jumps and calls (R114, R186 to R188) -/

/-- beq (R186). -/
def execBeq (a : Reg) (b : Reg) (x : BitVec 11) (s : State) : Res :=
  s.branch (encBr 0x20 a b x) x fun s => decide (s.sget a = s.sget b)

/-- bne (R186). -/
def execBne (a : Reg) (b : Reg) (x : BitVec 11) (s : State) : Res :=
  s.branch (encBr 0x21 a b x) x fun s => decide (s.sget a ≠ s.sget b)

/-- blt (R186). -/
def execBlt (a : Reg) (b : Reg) (x : BitVec 11) (s : State) : Res :=
  s.branch (encBr 0x22 a b x) x fun s => (s.sget a).slt (s.sget b)

/-- bge (R186). -/
def execBge (a : Reg) (b : Reg) (x : BitVec 11) (s : State) : Res :=
  s.branch (encBr 0x23 a b x) x fun s => !(s.sget a).slt (s.sget b)

/-- bltu (R186). -/
def execBltu (a : Reg) (b : Reg) (x : BitVec 11) (s : State) : Res :=
  s.branch (encBr 0x24 a b x) x fun s => (s.sget a).ult (s.sget b)

/-- bgeu (R186). -/
def execBgeu (a : Reg) (b : Reg) (x : BitVec 11) (s : State) : Res :=
  s.branch (encBr 0x25 a b x) x fun s => !(s.sget a).ult (s.sget b)

/-- bnone (R187). -/
def execBnone (t : Reg) (x : BitVec 11) (s : State) : Res :=
  s.branch (encBr 0x26 t 0 x) x fun s => lanes.all fun j => !s.tbit t j

/-- bany (R187). -/
def execBany (t : Reg) (x : BitVec 11) (s : State) : Res :=
  s.branch (encBr 0x27 t 0 x) x fun s => lanes.any (s.tbit t)

/-- ball (R187). -/
def execBall (t : Reg) (x : BitVec 11) (s : State) : Res :=
  s.branch (encBr 0x28 t 0 x) x fun s => lanes.all (s.tbit t)

/-- j (R188). -/
def execJmp (x : BitVec 25) (s : State) : Res :=
  s.guarded (encJx 0x29 x) fun s => .next (s.goto (target s.th.pc x))

/-- jal (R188). -/
def execJal (x : BitVec 25) (s : State) : Res :=
  s.guarded (encJx 0x2A x) fun s => .next ((s.sset 1 (s.th.pc + 4)).goto (target s.th.pc x))

/-- jalr (R114). -/
def execJalr (d : Reg) (a : Reg) (s : State) : Res :=
  s.guarded (encRr 0x2B 0 d a 0) fun s =>
    let t := s.sget a
    if t.toNat % 4 ≠ 0 then s.raise cMisaligned t 0 else .next ((s.sset d (s.th.pc + 4)).goto t)

/-! ### The window and the hint space (R119, R195) -/

/-- vwin (R195). -/
def execVwin (k : BitVec 11) (s : State) : Res :=
  s.guarded (encRi 0x2F 0 0 k) fun s => .next ({ s with th := { s.th with vbase := 32 * k.toNat } }).adv

/-- hint (R119). -/
def execHint (h : BitVec 25) (s : State) : Res :=
  s.guarded (encJx 0x3E h) fun s => .next s.adv

end Sys2Proof.Machine
end

