-- ==== Sys2Proof/Machine/VectorInt.lean ====
section
/-! DEFINITION. Vector integer instructions: majors 0x40 to 0x45, 0x4D, 0x4E F 0 to 7, 0x4F, 0x50, 0x51 (R197 to R206,
R214 to R218). -/

namespace Sys2Proof.Machine

open Sys2Proof

/-! ### Shared operations -/

/-- An instruction whose one effect is a vector result in the active lanes (R198, R199). -/
def State.resultV (s : State) (w : W32) (d : Reg) (f : State → Nat → W32) : Res := s.guarded w fun s => .next (s.vset d (f s)).adv

/-- Two vector operands (R203). -/
def State.vecVV (s : State) (w : W32) (d a b : Reg) (f : W32 → W32 → W32) : Res := s.resultV w d fun s j => f (s.elem a j) (s.elem b j)

/-- A vector and a broadcast scalar operand (R115, R203). -/
def State.vecVS (s : State) (w : W32) (d a b : Reg) (f : W32 → W32 → W32) : Res := s.resultV w d fun s j => f (s.elem a j) (s.sget32 b)

/-- A comparison into a triple: inactive lanes read 0 (R198, R206). -/
def State.cmpV (s : State) (w : W32) (d : Reg) (f : State → Nat → Bool) : Res := s.resultT w d fun s j => s.active j && f s j

/-- A reduction over the active elements (R215). -/
def State.reduceV (s : State) (w : W32) (d a : Reg) (f : List W32 → Word) : Res := s.result w d fun s => f (s.activeLanes.map (s.elem a))

/-- A scan (R216): f of the active elements up to and with lane j. -/
def State.scanV (s : State) (w : W32) (d a : Reg) (f : List W32 → W32) : Res :=
  s.resultV w d fun s j => f ((s.activeLanes.filter (· ≤ j)).map (s.elem a))

/-- A vector result in the lanes of `m` only (R198, R214). -/
def State.vsetIf (s : State) (v : Reg) (m : Nat → Bool) (f : Nat → W32) : State :=
  let a := s.varch v
  { s with th := { s.th.vwriteA a m f with out := s.th.out.map (dropVector a) } }

/-- A register stops being live (R57, R214). -/
def State.vfreeReg (s : State) (v : Reg) : State :=
  let a := s.varch v
  { s with th := { s.th with
      vreg := s.th.vreg.erase a
      bound := s.th.bound.filter (· ≠ a)
      vPoison := s.th.vPoison.filter fun p => p.1 / 96 ≠ a
      out := s.th.out.map (dropVector a) } }

/-- Element at an unsigned 64-bit index; an index of 96 or more reaches no lane (R214). -/
def State.elemAt (s : State) (v : Reg) (i : Nat) : W32 := if i < 96 then s.elem v i else 0

def byteOf (x : W32) (i : Nat) : Nat := x.toNat / 2 ^ (8 * i) % 256

/-- Index of the first zero byte, 4 if none (R217). -/
def firstZero (x : W32) : Nat := ((List.range 4).find? fun i => byteOf x i = 0).getD 4

/-- `mix` of R217. -/
def mix32 (x y : W32) : W32 :=
  let h := x ^^^ (y * 0x7A3DC5B3)
  let h := h ^^^ (h >>> 16)
  let h := h * 0x4C1F2E95
  h ^^^ (h >>> 15)

/-- `top` of R217. -/
def top32 (x : W32) (k : Nat) : W32 := if k = 0 then 0 else if 32 ≤ k then x else x >>> (32 - k)

/-- `vbeq` of one lane (R217). -/
def strEq (x y : W32) : Bool := (List.range (min (firstZero x) 3 + 1)).all fun i => byteOf x i = byteOf y i

/-- `vbdif` of one lane (R217). -/
def strDiff (x y : W32) : W32 :=
  match (List.range 4).find? fun i => byteOf x i ≠ byteOf y i with
  | some i => BitVec.ofInt 32 (((byteOf x i : Int) - byteOf y i) * 8 + i)
  | none => 0

/-! ### Majors 0x40 and 0x41 (R203) -/

/-- vadd (R203). -/
def execVadd (d : Reg) (a : Reg) (b : Reg) (s : State) : Res :=
  s.vecVV (encRr 0x40 0 d a b) d a b fun x y => x + y

/-- vsub (R203). -/
def execVsub (d : Reg) (a : Reg) (b : Reg) (s : State) : Res :=
  s.vecVV (encRr 0x40 1 d a b) d a b fun x y => x - y

/-- vmul (R203). -/
def execVmul (d : Reg) (a : Reg) (b : Reg) (s : State) : Res :=
  s.vecVV (encRr 0x40 2 d a b) d a b fun x y => x * y

/-- vmulh (R203). -/
def execVmulh (d : Reg) (a : Reg) (b : Reg) (s : State) : Res :=
  s.vecVV (encRr 0x40 3 d a b) d a b fun x y => BitVec.ofInt 32 (x.toInt * y.toInt / 2 ^ 32)

/-- vmulhu (R203). -/
def execVmulhu (d : Reg) (a : Reg) (b : Reg) (s : State) : Res :=
  s.vecVV (encRr 0x40 4 d a b) d a b fun x y => BitVec.ofNat 32 (x.toNat * y.toNat / 2 ^ 32)

/-- vand (R203). -/
def execVand (d : Reg) (a : Reg) (b : Reg) (s : State) : Res :=
  s.vecVV (encRr 0x40 5 d a b) d a b fun x y => x &&& y

/-- vor (R203). -/
def execVor (d : Reg) (a : Reg) (b : Reg) (s : State) : Res :=
  s.vecVV (encRr 0x40 6 d a b) d a b fun x y => x ||| y

/-- vxor (R203). -/
def execVxor (d : Reg) (a : Reg) (b : Reg) (s : State) : Res :=
  s.vecVV (encRr 0x40 7 d a b) d a b fun x y => x ^^^ y

/-- vsll (R203). -/
def execVsll (d : Reg) (a : Reg) (b : Reg) (s : State) : Res :=
  s.vecVV (encRr 0x40 8 d a b) d a b fun x y => x <<< (y.toNat % 32)

/-- vsrl (R203). -/
def execVsrl (d : Reg) (a : Reg) (b : Reg) (s : State) : Res :=
  s.vecVV (encRr 0x40 9 d a b) d a b fun x y => x >>> (y.toNat % 32)

/-- vsra (R203). -/
def execVsra (d : Reg) (a : Reg) (b : Reg) (s : State) : Res :=
  s.vecVV (encRr 0x40 10 d a b) d a b fun x y => x.sshiftRight (y.toNat % 32)

/-- vmin (R203). -/
def execVmin (d : Reg) (a : Reg) (b : Reg) (s : State) : Res :=
  s.vecVV (encRr 0x40 11 d a b) d a b fun x y => sminB x y

/-- vmax (R203). -/
def execVmax (d : Reg) (a : Reg) (b : Reg) (s : State) : Res :=
  s.vecVV (encRr 0x40 12 d a b) d a b fun x y => smaxB x y

/-- vminu (R203). -/
def execVminu (d : Reg) (a : Reg) (b : Reg) (s : State) : Res :=
  s.vecVV (encRr 0x40 13 d a b) d a b fun x y => uminB x y

/-- vmaxu (R203). -/
def execVmaxu (d : Reg) (a : Reg) (b : Reg) (s : State) : Res :=
  s.vecVV (encRr 0x40 14 d a b) d a b fun x y => umaxB x y

/-- vandn (R203). -/
def execVandn (d : Reg) (a : Reg) (b : Reg) (s : State) : Res :=
  s.vecVV (encRr 0x40 15 d a b) d a b fun x y => x &&& ~~~y

/-- vadd_s (R203). -/
def execVaddS (d : Reg) (a : Reg) (b : Reg) (s : State) : Res :=
  s.vecVS (encRr 0x41 0 d a b) d a b fun x y => x + y

/-- vsub_s (R203). -/
def execVsubS (d : Reg) (a : Reg) (b : Reg) (s : State) : Res :=
  s.vecVS (encRr 0x41 1 d a b) d a b fun x y => x - y

/-- vmul_s (R203). -/
def execVmulS (d : Reg) (a : Reg) (b : Reg) (s : State) : Res :=
  s.vecVS (encRr 0x41 2 d a b) d a b fun x y => x * y

/-- vmulh_s (R203). -/
def execVmulhS (d : Reg) (a : Reg) (b : Reg) (s : State) : Res :=
  s.vecVS (encRr 0x41 3 d a b) d a b fun x y => BitVec.ofInt 32 (x.toInt * y.toInt / 2 ^ 32)

/-- vmulhu_s (R203). -/
def execVmulhuS (d : Reg) (a : Reg) (b : Reg) (s : State) : Res :=
  s.vecVS (encRr 0x41 4 d a b) d a b fun x y => BitVec.ofNat 32 (x.toNat * y.toNat / 2 ^ 32)

/-- vand_s (R203). -/
def execVandS (d : Reg) (a : Reg) (b : Reg) (s : State) : Res :=
  s.vecVS (encRr 0x41 5 d a b) d a b fun x y => x &&& y

/-- vor_s (R203). -/
def execVorS (d : Reg) (a : Reg) (b : Reg) (s : State) : Res :=
  s.vecVS (encRr 0x41 6 d a b) d a b fun x y => x ||| y

/-- vxor_s (R203). -/
def execVxorS (d : Reg) (a : Reg) (b : Reg) (s : State) : Res :=
  s.vecVS (encRr 0x41 7 d a b) d a b fun x y => x ^^^ y

/-- vsll_s (R203). -/
def execVsllS (d : Reg) (a : Reg) (b : Reg) (s : State) : Res :=
  s.vecVS (encRr 0x41 8 d a b) d a b fun x y => x <<< (y.toNat % 32)

/-- vsrl_s (R203). -/
def execVsrlS (d : Reg) (a : Reg) (b : Reg) (s : State) : Res :=
  s.vecVS (encRr 0x41 9 d a b) d a b fun x y => x >>> (y.toNat % 32)

/-- vsra_s (R203). -/
def execVsraS (d : Reg) (a : Reg) (b : Reg) (s : State) : Res :=
  s.vecVS (encRr 0x41 10 d a b) d a b fun x y => x.sshiftRight (y.toNat % 32)

/-- vmin_s (R203). -/
def execVminS (d : Reg) (a : Reg) (b : Reg) (s : State) : Res :=
  s.vecVS (encRr 0x41 11 d a b) d a b fun x y => sminB x y

/-- vmax_s (R203). -/
def execVmaxS (d : Reg) (a : Reg) (b : Reg) (s : State) : Res :=
  s.vecVS (encRr 0x41 12 d a b) d a b fun x y => smaxB x y

/-- vminu_s (R203). -/
def execVminuS (d : Reg) (a : Reg) (b : Reg) (s : State) : Res :=
  s.vecVS (encRr 0x41 13 d a b) d a b fun x y => uminB x y

/-- vmaxu_s (R203). -/
def execVmaxuS (d : Reg) (a : Reg) (b : Reg) (s : State) : Res :=
  s.vecVS (encRr 0x41 14 d a b) d a b fun x y => umaxB x y

/-- vandn_s (R203). -/
def execVandnS (d : Reg) (a : Reg) (b : Reg) (s : State) : Res :=
  s.vecVS (encRr 0x41 15 d a b) d a b fun x y => x &&& ~~~y

/-! ### Major 0x42 (R204) -/

/-- vabs (R204). -/
def execVabs (d : Reg) (a : Reg) (s : State) : Res :=
  s.resultV (encRr 0x42 0 d a 0) d fun s j =>
    let x := s.elem a j
    if x.msb then -x else x

/-- vneg (R204). -/
def execVneg (d : Reg) (a : Reg) (s : State) : Res :=
  s.resultV (encRr 0x42 1 d a 0) d fun s j =>
    let x := s.elem a j
    0 - x

/-- vclz (R204). -/
def execVclz (d : Reg) (a : Reg) (s : State) : Res :=
  s.resultV (encRr 0x42 2 d a 0) d fun s j =>
    let x := s.elem a j
    BitVec.ofNat 32 (clzB x)

/-- vpopc (R204). -/
def execVpopc (d : Reg) (a : Reg) (s : State) : Res :=
  s.resultV (encRr 0x42 3 d a 0) d fun s j =>
    let x := s.elem a j
    BitVec.ofNat 32 (popB x)

/-- vbrev (R204). -/
def execVbrev (d : Reg) (a : Reg) (s : State) : Res :=
  s.resultV (encRr 0x42 4 d a 0) d fun s j =>
    let x := s.elem a j
    revB x

/-- vbswap (R204). -/
def execVbswap (d : Reg) (a : Reg) (s : State) : Res :=
  s.resultV (encRr 0x42 5 d a 0) d fun s j =>
    let x := s.elem a j
    swapB 4 x

/-- vsextb (R204). -/
def execVsextb (d : Reg) (a : Reg) (s : State) : Res :=
  s.resultV (encRr 0x42 6 d a 0) d fun s j =>
    let x := s.elem a j
    sextLow 8 x

/-- vsexth (R204). -/
def execVsexth (d : Reg) (a : Reg) (s : State) : Res :=
  s.resultV (encRr 0x42 7 d a 0) d fun s j =>
    let x := s.elem a j
    sextLow 16 x

/-- vzextb (R204). -/
def execVzextb (d : Reg) (a : Reg) (s : State) : Res :=
  s.resultV (encRr 0x42 8 d a 0) d fun s j =>
    let x := s.elem a j
    zextLow 8 x

/-- vzexth (R204). -/
def execVzexth (d : Reg) (a : Reg) (s : State) : Res :=
  s.resultV (encRr 0x42 9 d a 0) d fun s j =>
    let x := s.elem a j
    zextLow 16 x

/-- vnot (R204). -/
def execVnot (d : Reg) (a : Reg) (s : State) : Res :=
  s.resultV (encRr 0x42 10 d a 0) d fun s j =>
    let x := s.elem a j
    ~~~x

/-! ### Major 0x43 (R205) -/

/-- vmad (R205). -/
def execVmad (d : Reg) (a : Reg) (b : Reg) (s : State) : Res :=
  s.resultV (encRr 0x43 0 d a b) d fun s j => s.elem d j + s.elem a j * s.elem b j

/-- vmsb (R205). -/
def execVmsb (d : Reg) (a : Reg) (b : Reg) (s : State) : Res :=
  s.resultV (encRr 0x43 1 d a b) d fun s j => s.elem d j - s.elem a j * s.elem b j

/-- vmad_s (R205). -/
def execVmadS (d : Reg) (a : Reg) (b : Reg) (s : State) : Res :=
  s.resultV (encRr 0x43 2 d a b) d fun s j => s.elem d j + s.elem a j * s.sget32 b

/-- vmsb_s (R205). -/
def execVmsbS (d : Reg) (a : Reg) (b : Reg) (s : State) : Res :=
  s.resultV (encRr 0x43 3 d a b) d fun s j => s.elem d j - s.elem a j * s.sget32 b

/-! ### Majors 0x44 and 0x45 (R206) -/

/-- vcmp_eq (R206). -/
def execVcmpEq (d : Reg) (a : Reg) (b : Reg) (s : State) : Res :=
  s.cmpV (encRr 0x44 0 d a b) d fun s j => decide (s.elem a j = s.elem b j)

/-- vcmp_ne (R206). -/
def execVcmpNe (d : Reg) (a : Reg) (b : Reg) (s : State) : Res :=
  s.cmpV (encRr 0x44 1 d a b) d fun s j => decide (s.elem a j ≠ s.elem b j)

/-- vcmp_lt (R206). -/
def execVcmpLt (d : Reg) (a : Reg) (b : Reg) (s : State) : Res :=
  s.cmpV (encRr 0x44 2 d a b) d fun s j => (s.elem a j).slt (s.elem b j)

/-- vcmp_le (R206). -/
def execVcmpLe (d : Reg) (a : Reg) (b : Reg) (s : State) : Res :=
  s.cmpV (encRr 0x44 3 d a b) d fun s j => (s.elem a j).sle (s.elem b j)

/-- vcmp_ltu (R206). -/
def execVcmpLtu (d : Reg) (a : Reg) (b : Reg) (s : State) : Res :=
  s.cmpV (encRr 0x44 4 d a b) d fun s j => (s.elem a j).ult (s.elem b j)

/-- vcmp_leu (R206). -/
def execVcmpLeu (d : Reg) (a : Reg) (b : Reg) (s : State) : Res :=
  s.cmpV (encRr 0x44 5 d a b) d fun s j => (s.elem a j).ule (s.elem b j)

/-- vcmp_eq_s (R206). -/
def execVcmpEqS (d : Reg) (a : Reg) (b : Reg) (s : State) : Res :=
  s.cmpV (encRr 0x45 0 d a b) d fun s j => decide (s.elem a j = s.sget32 b)

/-- vcmp_ne_s (R206). -/
def execVcmpNeS (d : Reg) (a : Reg) (b : Reg) (s : State) : Res :=
  s.cmpV (encRr 0x45 1 d a b) d fun s j => decide (s.elem a j ≠ s.sget32 b)

/-- vcmp_lt_s (R206). -/
def execVcmpLtS (d : Reg) (a : Reg) (b : Reg) (s : State) : Res :=
  s.cmpV (encRr 0x45 2 d a b) d fun s j => (s.elem a j).slt (s.sget32 b)

/-- vcmp_le_s (R206). -/
def execVcmpLeS (d : Reg) (a : Reg) (b : Reg) (s : State) : Res :=
  s.cmpV (encRr 0x45 3 d a b) d fun s j => (s.elem a j).sle (s.sget32 b)

/-- vcmp_ltu_s (R206). -/
def execVcmpLtuS (d : Reg) (a : Reg) (b : Reg) (s : State) : Res :=
  s.cmpV (encRr 0x45 4 d a b) d fun s j => (s.elem a j).ult (s.sget32 b)

/-- vcmp_leu_s (R206). -/
def execVcmpLeuS (d : Reg) (a : Reg) (b : Reg) (s : State) : Res :=
  s.cmpV (encRr 0x45 5 d a b) d fun s j => (s.elem a j).ule (s.sget32 b)

/-! ### Major 0x4D (R214) -/

/-- vmov (R214). -/
def execVmov (d : Reg) (a : Reg) (s : State) : Res :=
  s.resultV (encRr 0x4D 0 d a 0) d fun s j => s.elem a j

/-- vbcs (R214). -/
def execVbcs (d : Reg) (a : Reg) (s : State) : Res :=
  s.resultV (encRr 0x4D 1 d a 0) d fun s _ => s.sget32 a

/-- vlid (R214). -/
def execVlid (d : Reg) (s : State) : Res :=
  s.resultV (encRr 0x4D 4 d 0 0) d fun _ j => BitVec.ofNat 32 j

/-- vperm (R214). -/
def execVperm (d : Reg) (a : Reg) (b : Reg) (s : State) : Res :=
  s.resultV (encRr 0x4D 5 d a b) d fun s j => s.elemAt a (s.elem b j).toNat

/-- vslup (R214). -/
def execVslup (d : Reg) (a : Reg) (b : Reg) (s : State) : Res :=
  s.resultV (encRr 0x4D 6 d a b) d fun s j => if (s.sget b).toNat ≤ j then s.elem a (j - (s.sget b).toNat) else 0

/-- vsldn (R214). -/
def execVsldn (d : Reg) (a : Reg) (b : Reg) (s : State) : Res :=
  s.resultV (encRr 0x4D 7 d a b) d fun s j => s.elemAt a (j + (s.sget b).toNat)

/-- vmrg (R214). -/
def execVmrg (d : Reg) (a : Reg) (b : Reg) (s : State) : Res :=
  s.resultV (encRr 0x4D 8 d a b) d fun s j => if j % 2 = 0 then s.elem a (j / 2) else s.elem b (j / 2)

/-- vext (R214). -/
def execVext (d : Reg) (a : Reg) (b : Reg) (s : State) : Res :=
  s.result (encRr 0x4D 2 d a b) d fun s => if (s.sget b).toNat < 96 then sext64 (s.elem a (s.sget b).toNat) else 0

/-- vins (R214). -/
def execVins (d : Reg) (a : Reg) (b : Reg) (s : State) : Res :=
  s.guarded (encRr 0x4D 3 d a b) fun s =>
    let i := (s.sget b).toNat
    .next (s.vsetIf d (fun j => j = i && s.active j) fun _ => s.sget32 a).adv

/-- vfree (R214). -/
def execVfree (d : Reg) (s : State) : Res :=
  s.guarded (encRr 0x4D 9 d 0 0) fun s => .next (s.vfreeReg d).adv

/-! ### Reductions and scans of integers (R215, R216) -/

/-- vradd (R215). -/
def execVradd (d : Reg) (a : Reg) (s : State) : Res :=
  s.reduceV (encRr 0x4E 0 d a 0) d a fun xs => BitVec.ofInt 64 ((xs.map BitVec.toInt).sum)

/-- vrmin (R215). -/
def execVrmin (d : Reg) (a : Reg) (s : State) : Res :=
  s.reduceV (encRr 0x4E 1 d a 0) d a fun xs => sext64 (xs.foldl sminB 0x7FFFFFFF)

/-- vrmax (R215). -/
def execVrmax (d : Reg) (a : Reg) (s : State) : Res :=
  s.reduceV (encRr 0x4E 2 d a 0) d a fun xs => sext64 (xs.foldl smaxB 0x80000000)

/-- vrminu (R215). -/
def execVrminu (d : Reg) (a : Reg) (s : State) : Res :=
  s.reduceV (encRr 0x4E 3 d a 0) d a fun xs => zext64 (xs.foldl uminB 0xFFFFFFFF)

/-- vrmaxu (R215). -/
def execVrmaxu (d : Reg) (a : Reg) (s : State) : Res :=
  s.reduceV (encRr 0x4E 4 d a 0) d a fun xs => zext64 (xs.foldl umaxB 0)

/-- vrand (R215). -/
def execVrand (d : Reg) (a : Reg) (s : State) : Res :=
  s.reduceV (encRr 0x4E 5 d a 0) d a fun xs => zext64 (xs.foldl (· &&& ·) 0xFFFFFFFF)

/-- vror (R215). -/
def execVror (d : Reg) (a : Reg) (s : State) : Res :=
  s.reduceV (encRr 0x4E 6 d a 0) d a fun xs => zext64 (xs.foldl (· ||| ·) 0)

/-- vrxor (R215). -/
def execVrxor (d : Reg) (a : Reg) (s : State) : Res :=
  s.reduceV (encRr 0x4E 7 d a 0) d a fun xs => zext64 (xs.foldl (· ^^^ ·) 0)

/-- vsadd (R216). -/
def execVsadd (d : Reg) (a : Reg) (s : State) : Res :=
  s.scanV (encRr 0x4F 0 d a 0) d a fun xs => xs.foldl (· + ·) 0

/-- vsaddx (R216). -/
def execVsaddx (d : Reg) (a : Reg) (s : State) : Res :=
  s.scanV (encRr 0x4F 1 d a 0) d a fun xs => xs.dropLast.foldl (· + ·) 0

/-- vsmax (R216). -/
def execVsmax (d : Reg) (a : Reg) (s : State) : Res :=
  s.scanV (encRr 0x4F 3 d a 0) d a fun xs => xs.foldl smaxB 0x80000000

/-- vsmin (R216). -/
def execVsmin (d : Reg) (a : Reg) (s : State) : Res :=
  s.scanV (encRr 0x4F 4 d a 0) d a fun xs => xs.foldl sminB 0x7FFFFFFF

/-! ### Hashing, partitioning and byte strings (R217, R218) -/

/-- vhcrc (R217). -/
def execVhcrc (d : Reg) (a : Reg) (b : Reg) (s : State) : Res :=
  s.resultV (encRr 0x50 0 d a b) d fun s j => crc32c (s.sget32 b) (s.elem a j)

/-- vhmix (R217). -/
def execVhmix (d : Reg) (a : Reg) (b : Reg) (s : State) : Res :=
  s.resultV (encRr 0x50 1 d a b) d fun s j => mix32 (s.elem a j) (s.elem b j)

/-- vpart (R217). -/
def execVpart (d : Reg) (a : Reg) (b : Reg) (s : State) : Res :=
  s.resultV (encRr 0x50 2 d a b) d fun s j => top32 (s.elem a j) ((s.sget b).toNat % 64)

/-- vbfz (R217). -/
def execVbfz (d : Reg) (a : Reg) (s : State) : Res :=
  s.resultV (encRr 0x50 4 d a 0) d fun s j => BitVec.ofNat 32 (firstZero (s.elem a j))

/-- vbdif (R217). -/
def execVbdif (d : Reg) (a : Reg) (b : Reg) (s : State) : Res :=
  s.resultV (encRr 0x50 5 d a b) d fun s j => strDiff (s.elem a j) (s.elem b j)

/-- vbeq (R217). -/
def execVbeq (d : Reg) (a : Reg) (b : Reg) (s : State) : Res :=
  s.cmpV (encRr 0x50 3 d a b) d fun s j => strEq (s.elem a j) (s.elem b j)

/-- vhist (R218). -/
def execVhist (d : Reg) (a : Reg) (s : State) : Res :=
  s.resultV (encRr 0x51 0 d a 0) d fun s j =>
    let same := s.activeLanes.filter fun i => s.elem a i = s.elem a j
    BitVec.ofNat 32 (same.length * 2 ^ 16 + (same.filter (· < j)).length)

end Sys2Proof.Machine
end

