-- ==== Sys2Proof/Machine/VectorFp.lean ====
section
/-! DEFINITION. Vector floating-point instructions and conversions: majors 0x46 to 0x4C, and the FP32 reductions and scan
of 0x4E and 0x4F (R127 to R138, R150, R151, R201, R207 to R213, R215, R216, R382). -/

namespace Sys2Proof.Machine

open Sys2Proof

/-! ### Shared operations -/

def State.rm (s : State) : Nat := s.th.frm.toNat % 4
def State.ftz (s : State) : Bool := s.th.frm.getLsbD 2

/-- An FP32 element as a floating-point instruction reads it (R134). -/
def State.fin (s : State) (x : W32) : FpVal := fp32.input s.ftz x.toNat

def orAll (fs : List Nat) : Nat := fs.foldl (· ||| ·) 0

/-- One 16-byte arithmetic-log record (R382): source 0 a vector instruction, 1 a Lattice command. -/
def arithRecord (pc : Word) (t : Thread) (events source : Nat) : List Byte :=
  leBytes 8 (pc.toNat / 64 * 64) ++ leBytes 2 (waveCode t) ++ leBytes 1 events ++ leBytes 1 source ++ leBytes 2 t.ctx ++ leBytes 2 0

/-- Events of a thread's instruction reach its context's arithmetic log where FLOGEN enables them (R382). -/
def State.logArith (s : State) (u : Nat) (pc : Word) (events source : Nat) : State :=
  let t := s.thread u
  let e := events &&& t.flogen.toNat
  if e = 0 then s
  else s.modCtx t.ctx fun c => { c with arith := c.arith.push s.logCap (arithRecord pc t e source) }

/-- Flags of the running thread's instruction become sticky, and reach the log (R132, R201, R382). A shadow wave's own instruction writes a
record besides its leader's (DESIGN CHOICE, log 83). -/
def State.flag (s : State) (f : Nat) : State :=
  let s := { s with th := { s.th with fstat := s.th.fstat ||| BitVec.ofNat 5 f } }
  s.logArith s.th.uid s.th.pc f 0

/-- A vector result with flags from the active lanes (R198, R201). -/
def State.resultF (s : State) (w : W32) (d : Reg) (f : State → Nat → Nat × Nat) : Res :=
  s.guarded w fun s =>
    let g := f s
    .next ((s.vset d fun j => BitVec.ofNat 32 (g j).1).flag (orAll (s.activeLanes.map fun j => (g j).2))).adv

/-- A comparison with flags (R211). -/
def State.cmpF (s : State) (w : W32) (d : Reg) (f : State → Nat → Bool × Nat) : Res :=
  s.guarded w fun s =>
    let g := f s
    .next ((s.tset d fun j => s.active j && (g j).1).flag (orAll (s.activeLanes.map fun j => (g j).2))).adv

/-- An operand of vector or broadcast scalar kind. -/
def State.opB (s : State) (sc : Bool) (b : Reg) (j : Nat) : W32 := if sc then s.sget32 b else s.elem b j

def State.fp2 (s : State) (w : W32) (d a b : Reg) (sc : Bool) (f : Nat → Bool → FpVal → FpVal → Nat × Nat) : Res :=
  s.resultF w d fun s j => f s.rm s.ftz (s.fin (s.elem a j)) (s.fin (s.opB sc b j))

def State.fp1 (s : State) (w : W32) (d a : Reg) (f : Nat → Bool → FpVal → Nat × Nat) : Res :=
  s.resultF w d fun s j => f s.rm s.ftz (s.fin (s.elem a j))

/-- `vfma` and its kin (R208): neg negates the product, sub the addend. -/
def State.fp3 (s : State) (w : W32) (d a b : Reg) (sc neg sub : Bool) : Res :=
  s.resultF w d fun s j =>
    let x := s.fin (s.elem a j)
    let z := s.fin (s.elem d j)
    fp32.fmaV s.rm s.ftz (if neg then x.neg else x) (s.fin (s.opB sc b j)) (if sub then z.neg else z)

def fpSub (rm : Nat) (ftz : Bool) (x y : FpVal) : Nat × Nat := fp32.addV rm ftz x y.neg

def fpMul (rm : Nat) (ftz : Bool) (x y : FpVal) : Nat × Nat :=
  match mulV x y with
  | (p, bad) => if bad then (fp32.nan, flagNV) else fp32.ofVal rm ftz p

/-- A value with a given sign, not rounded; a NaN is canonical with NV if it signals (R207, R209). -/
def withSign (neg : Bool) : FpVal → Nat × Nat
  | .nan s => (fp32.nan, nvIf s)
  | .inf _ => (fp32.top + (if neg then fp32.signBit else 0), 0)
  | .fin _ m e => ((fp32.ofVal 0 false (.fin neg m e)).1, 0)

def FpVal.sign : FpVal → Bool
  | .nan _ => false
  | .inf s => s
  | .fin s _ _ => s

/-- `vfcsign` and `vfnsign` (R207): the sign of y is read from its bits, a NaN's is positive. -/
def copySign (inv : Bool) (x y : FpVal) : Nat × Nat :=
  match withSign (y.sign != inv) x with
  | (r, f) => (r, f ||| nvIf y.isSnan)

def fpEq (x y : FpVal) : Bool := !x.isNan && !y.isNan && !x.lt false y && !y.lt false x

def cmpFeq (x y : FpVal) : Bool × Nat := (fpEq x y, nvIf (x.isSnan || y.isSnan))
def cmpFlt (x y : FpVal) : Bool × Nat := (x.lt false y, nvIf (x.isNan || y.isNan))
def cmpFle (x y : FpVal) : Bool × Nat := (x.lt false y || fpEq x y, nvIf (x.isNan || y.isNan))
def cmpFun (x y : FpVal) : Bool × Nat := (x.isNan || y.isNan, nvIf (x.isSnan || y.isSnan))

def State.fpCmp (s : State) (w : W32) (d a b : Reg) (sc : Bool) (f : FpVal → FpVal → Bool × Nat) : Res :=
  s.cmpF w d fun s j => f (s.fin (s.elem a j)) (s.fin (s.opB sc b j))

/-- A conversion between float formats of one element (R136, R212). -/
def State.cvtF (s : State) (w : W32) (d a : Reg) (src dst : FpFmt) : Res :=
  s.resultF w d fun s j => fpConvert src dst s.rm s.ftz ((s.elem a j).toNat % 2 ^ (src.eb + src.fb + 1))

/-- A two-for-one conversion (R138, R213). -/
def State.cvt2 (s : State) (w : W32) (d a : Reg) (dst : FpFmt) : Res :=
  s.resultF w d fun s j =>
    if 48 ≤ j then (0, 0)
    else
      let lo := fpConvert fp32 dst s.rm s.ftz (s.elem a (2 * j)).toNat
      let hi := fpConvert fp32 dst s.rm s.ftz (s.elem a (2 * j + 1)).toNat
      (lo.1 + 2 ^ 16 * hi.1, lo.2 ||| hi.2)

/-- One level of the tree of R150: neighbours are added, a missing one is skipped. Answers the next level and flags. -/
def treeLevel (rm : Nat) (ftz : Bool) : List (Option Nat) → List (Option Nat) × Nat
  | x :: y :: rest =>
    let r := treeLevel rm ftz rest
    match x, y with
    | some a, some b =>
      let z := fp32.addV rm ftz (fp32.input ftz a) (fp32.input ftz b)
      (some z.1 :: r.1, z.2 ||| r.2)
    | some a, none => (some a :: r.1, r.2)
    | none, b => (b :: r.1, r.2)
  | xs => (xs, 0)

/-- The sum of two positions that may be missing. -/
def addOpt (rm : Nat) (ftz : Bool) : Option Nat → Option Nat → Option Nat × Nat
  | some a, some b =>
    let z := fp32.addV rm ftz (fp32.input ftz a) (fp32.input ftz b)
    (some z.1, z.2)
  | some a, none => (some a, 0)
  | none, b => (b, 0)

/-- The tree sum of R150 over 96 positions. -/
def treeSum (rm : Nat) (ftz : Bool) (xs : List (Option W32)) : Nat × Nat :=
  let rd (x : W32) : Nat × Nat := let v := fp32.input ftz x.toNat; ((withSign v.sign v).1, nvIf v.isSnan)
  let l0 := xs.map fun o => o.map fun x => (rd x).1
  let f0 := orAll (xs.map fun o => match o with
    | some x => (rd x).2
    | none => 0)
  let l1 := treeLevel rm ftz l0
  let l2 := treeLevel rm ftz l1.1
  let l3 := treeLevel rm ftz l2.1
  let l4 := treeLevel rm ftz l3.1
  let l5 := treeLevel rm ftz l4.1
  let p := addOpt rm ftz (l5.1.getD 0 none) (l5.1.getD 1 none)
  let q := addOpt rm ftz p.1 (l5.1.getD 2 none)
  (q.1.getD 0, orAll [f0, l1.2, l2.2, l3.2, l4.2, l5.2, p.2, q.2])

/-- A scalar FP32 result with flags (R201, R215). -/
def State.resultSF (s : State) (w : W32) (d : Reg) (f : State → Nat × Nat) : Res :=
  s.guarded w fun s =>
    let g := f s
    .next ((s.sset d (BitVec.ofNat 64 g.1)).flag g.2).adv

/-- `vrfmin` and `vrfmax` (R130, R215). -/
def State.fpReduce (s : State) (isMax : Bool) (a : Reg) : Nat × Nat :=
  match s.activeLanes with
  | [] => (if isMax then fp32.top + fp32.signBit else fp32.top, 0)
  | j :: js =>
    js.foldl (fun acc i =>
      let r := fpMinMax isMax (fp32.val acc.1) (s.fin (s.elem a i))
      (r.1, acc.2 ||| r.2)) (withSign (s.fin (s.elem a j)).sign (s.fin (s.elem a j)))

/-! ### Majors 0x46 and 0x47 (R207) -/

/-- vfadd (R207). -/
def execVfadd (d : Reg) (a : Reg) (b : Reg) (s : State) : Res :=
  s.fp2 (encRr 0x46 0 d a b) d a b false fp32.addV

/-- vfsub (R207). -/
def execVfsub (d : Reg) (a : Reg) (b : Reg) (s : State) : Res :=
  s.fp2 (encRr 0x46 1 d a b) d a b false fpSub

/-- vfmul (R207). -/
def execVfmul (d : Reg) (a : Reg) (b : Reg) (s : State) : Res :=
  s.fp2 (encRr 0x46 2 d a b) d a b false fpMul

/-- vfdiv (R207). -/
def execVfdiv (d : Reg) (a : Reg) (b : Reg) (s : State) : Res :=
  s.fp2 (encRr 0x46 3 d a b) d a b false fp32.divV

/-- vfmin (R207). -/
def execVfmin (d : Reg) (a : Reg) (b : Reg) (s : State) : Res :=
  s.fp2 (encRr 0x46 4 d a b) d a b false (fun _ _ x y => fpMinMax false x y)

/-- vfmax (R207). -/
def execVfmax (d : Reg) (a : Reg) (b : Reg) (s : State) : Res :=
  s.fp2 (encRr 0x46 5 d a b) d a b false (fun _ _ x y => fpMinMax true x y)

/-- vfcsign (R207). -/
def execVfcsign (d : Reg) (a : Reg) (b : Reg) (s : State) : Res :=
  s.fp2 (encRr 0x46 6 d a b) d a b false (fun _ _ x y => copySign false x y)

/-- vfnsign (R207). -/
def execVfnsign (d : Reg) (a : Reg) (b : Reg) (s : State) : Res :=
  s.fp2 (encRr 0x46 7 d a b) d a b false (fun _ _ x y => copySign true x y)

/-- vfadd_s (R207). -/
def execVfaddS (d : Reg) (a : Reg) (b : Reg) (s : State) : Res :=
  s.fp2 (encRr 0x47 0 d a b) d a b true fp32.addV

/-- vfsub_s (R207). -/
def execVfsubS (d : Reg) (a : Reg) (b : Reg) (s : State) : Res :=
  s.fp2 (encRr 0x47 1 d a b) d a b true fpSub

/-- vfmul_s (R207). -/
def execVfmulS (d : Reg) (a : Reg) (b : Reg) (s : State) : Res :=
  s.fp2 (encRr 0x47 2 d a b) d a b true fpMul

/-- vfdiv_s (R207). -/
def execVfdivS (d : Reg) (a : Reg) (b : Reg) (s : State) : Res :=
  s.fp2 (encRr 0x47 3 d a b) d a b true fp32.divV

/-- vfmin_s (R207). -/
def execVfminS (d : Reg) (a : Reg) (b : Reg) (s : State) : Res :=
  s.fp2 (encRr 0x47 4 d a b) d a b true (fun _ _ x y => fpMinMax false x y)

/-- vfmax_s (R207). -/
def execVfmaxS (d : Reg) (a : Reg) (b : Reg) (s : State) : Res :=
  s.fp2 (encRr 0x47 5 d a b) d a b true (fun _ _ x y => fpMinMax true x y)

/-- vfcsign_s (R207). -/
def execVfcsignS (d : Reg) (a : Reg) (b : Reg) (s : State) : Res :=
  s.fp2 (encRr 0x47 6 d a b) d a b true (fun _ _ x y => copySign false x y)

/-- vfnsign_s (R207). -/
def execVfnsignS (d : Reg) (a : Reg) (b : Reg) (s : State) : Res :=
  s.fp2 (encRr 0x47 7 d a b) d a b true (fun _ _ x y => copySign true x y)

/-! ### Major 0x48 (R208) -/

/-- vfma (R208). -/
def execVfma (d : Reg) (a : Reg) (b : Reg) (s : State) : Res :=
  s.fp3 (encRr 0x48 0 d a b) d a b false false false

/-- vfms (R208). -/
def execVfms (d : Reg) (a : Reg) (b : Reg) (s : State) : Res :=
  s.fp3 (encRr 0x48 1 d a b) d a b false false true

/-- vfnma (R208). -/
def execVfnma (d : Reg) (a : Reg) (b : Reg) (s : State) : Res :=
  s.fp3 (encRr 0x48 2 d a b) d a b false true true

/-- vfnms (R208). -/
def execVfnms (d : Reg) (a : Reg) (b : Reg) (s : State) : Res :=
  s.fp3 (encRr 0x48 3 d a b) d a b false true false

/-- vfma_s (R208). -/
def execVfmaS (d : Reg) (a : Reg) (b : Reg) (s : State) : Res :=
  s.fp3 (encRr 0x48 4 d a b) d a b true false false

/-- vfms_s (R208). -/
def execVfmsS (d : Reg) (a : Reg) (b : Reg) (s : State) : Res :=
  s.fp3 (encRr 0x48 5 d a b) d a b true false true

/-- vfnma_s (R208). -/
def execVfnmaS (d : Reg) (a : Reg) (b : Reg) (s : State) : Res :=
  s.fp3 (encRr 0x48 6 d a b) d a b true true true

/-- vfnms_s (R208). -/
def execVfnmsS (d : Reg) (a : Reg) (b : Reg) (s : State) : Res :=
  s.fp3 (encRr 0x48 7 d a b) d a b true true false

/-! ### Major 0x49 (R209, R210) -/

/-- vfabs (R209). -/
def execVfabs (d : Reg) (a : Reg) (s : State) : Res :=
  s.fp1 (encRr 0x49 0 d a 0) d a (fun _ _ x => withSign false x)

/-- vfneg (R209). -/
def execVfneg (d : Reg) (a : Reg) (s : State) : Res :=
  s.fp1 (encRr 0x49 1 d a 0) d a (fun _ _ x => withSign (!x.sign) x)

/-- vfsqrt (R209). -/
def execVfsqrt (d : Reg) (a : Reg) (s : State) : Res :=
  s.fp1 (encRr 0x49 2 d a 0) d a fp32.sqrtV

/-- vexp2 (R209). -/
def execVexp2 (d : Reg) (a : Reg) (s : State) : Res :=
  s.fp1 (encRr 0x49 3 d a 0) d a fp32.exp2V

/-- vlog2 (R209). -/
def execVlog2 (d : Reg) (a : Reg) (s : State) : Res :=
  s.fp1 (encRr 0x49 4 d a 0) d a fp32.log2V

/-- vrcp (R209). -/
def execVrcp (d : Reg) (a : Reg) (s : State) : Res :=
  s.fp1 (encRr 0x49 5 d a 0) d a (fun rm ftz x => fp32.divV rm ftz (.fin false 1 0) x)

/-- vrsq (R209). -/
def execVrsq (d : Reg) (a : Reg) (s : State) : Res :=
  s.fp1 (encRr 0x49 6 d a 0) d a fp32.rsqV

/-- vfrint (R209). -/
def execVfrint (d : Reg) (a : Reg) (s : State) : Res :=
  s.fp1 (encRr 0x49 7 d a 0) d a (fun rm _ x => rint32 rm x)

/-- vfclass (R210). -/
def execVfclass (d : Reg) (a : Reg) (s : State) : Res :=
  s.resultV (encRr 0x49 8 d a 0) d fun s j => BitVec.ofNat 32 (fpClass (s.elem a j).toNat)

/-! ### Majors 0x4A and 0x4B (R211) -/

/-- vfcmp_feq (R211). -/
def execVfcmpFeq (d : Reg) (a : Reg) (b : Reg) (s : State) : Res :=
  s.fpCmp (encRr 0x4A 0 d a b) d a b false cmpFeq

/-- vfcmp_flt (R211). -/
def execVfcmpFlt (d : Reg) (a : Reg) (b : Reg) (s : State) : Res :=
  s.fpCmp (encRr 0x4A 1 d a b) d a b false cmpFlt

/-- vfcmp_fle (R211). -/
def execVfcmpFle (d : Reg) (a : Reg) (b : Reg) (s : State) : Res :=
  s.fpCmp (encRr 0x4A 2 d a b) d a b false cmpFle

/-- vfcmp_fun (R211). -/
def execVfcmpFun (d : Reg) (a : Reg) (b : Reg) (s : State) : Res :=
  s.fpCmp (encRr 0x4A 3 d a b) d a b false cmpFun

/-- vfcmp_feq_s (R211). -/
def execVfcmpFeqS (d : Reg) (a : Reg) (b : Reg) (s : State) : Res :=
  s.fpCmp (encRr 0x4B 0 d a b) d a b true cmpFeq

/-- vfcmp_flt_s (R211). -/
def execVfcmpFltS (d : Reg) (a : Reg) (b : Reg) (s : State) : Res :=
  s.fpCmp (encRr 0x4B 1 d a b) d a b true cmpFlt

/-- vfcmp_fle_s (R211). -/
def execVfcmpFleS (d : Reg) (a : Reg) (b : Reg) (s : State) : Res :=
  s.fpCmp (encRr 0x4B 2 d a b) d a b true cmpFle

/-- vfcmp_fun_s (R211). -/
def execVfcmpFunS (d : Reg) (a : Reg) (b : Reg) (s : State) : Res :=
  s.fpCmp (encRr 0x4B 3 d a b) d a b true cmpFun

/-! ### Major 0x4C (R117, R136 to R138, R212, R213) -/

/-- vcvt_i32_f32 (R137). -/
def execVcvtI32F32 (d : Reg) (a : Reg) (s : State) : Res :=
  s.resultF (encRr 0x4C 0 d a 0) d fun s j =>
    let r := fpToInt s.rm s.ftz (-(2 ^ 31)) (2 ^ 31 - 1) (s.elem a j).toNat
    ((BitVec.ofInt 32 r.1).toNat, r.2)

/-- vcvt_f32_i32 (R137). -/
def execVcvtF32I32 (d : Reg) (a : Reg) (s : State) : Res :=
  s.resultF (encRr 0x4C 1 d a 0) d fun s j => intToFp s.rm s.ftz (s.elem a j).toInt

/-- vcvt_n32_f32 (R137). -/
def execVcvtN32F32 (d : Reg) (a : Reg) (s : State) : Res :=
  s.resultF (encRr 0x4C 2 d a 0) d fun s j =>
    let r := fpToInt s.rm s.ftz 0 (2 ^ 32 - 1) (s.elem a j).toNat
    (r.1.toNat, r.2)

/-- vcvt_f32_n32 (R137). -/
def execVcvtF32N32 (d : Reg) (a : Reg) (s : State) : Res :=
  s.resultF (encRr 0x4C 3 d a 0) d fun s j => intToFp s.rm s.ftz (s.elem a j).toNat

/-- vcvt_bf16_f32 (R136). -/
def execVcvtBf16F32 (d : Reg) (a : Reg) (s : State) : Res :=
  s.cvtF (encRr 0x4C 4 d a 0) d a fp32 bf16

/-- vcvt_f32_bf16 (R136). -/
def execVcvtF32Bf16 (d : Reg) (a : Reg) (s : State) : Res :=
  s.cvtF (encRr 0x4C 5 d a 0) d a bf16 fp32

/-- vcvt_f16_f32 (R136). -/
def execVcvtF16F32 (d : Reg) (a : Reg) (s : State) : Res :=
  s.cvtF (encRr 0x4C 6 d a 0) d a fp32 fp16

/-- vcvt_f32_f16 (R136). -/
def execVcvtF32F16 (d : Reg) (a : Reg) (s : State) : Res :=
  s.cvtF (encRr 0x4C 7 d a 0) d a fp16 fp32

/-- vcvt_e4m3_f32 (R136). -/
def execVcvtE4m3F32 (d : Reg) (a : Reg) (s : State) : Res :=
  s.cvtF (encRr 0x4C 8 d a 0) d a fp32 e4m3

/-- vcvt_f32_e4m3 (R136). -/
def execVcvtF32E4m3 (d : Reg) (a : Reg) (s : State) : Res :=
  s.cvtF (encRr 0x4C 9 d a 0) d a e4m3 fp32

/-- vcvt_e5m2_f32 (R136). -/
def execVcvtE5m2F32 (d : Reg) (a : Reg) (s : State) : Res :=
  s.cvtF (encRr 0x4C 10 d a 0) d a fp32 e5m2

/-- vcvt_f32_e5m2 (R136). -/
def execVcvtF32E5m2 (d : Reg) (a : Reg) (s : State) : Res :=
  s.cvtF (encRr 0x4C 11 d a 0) d a e5m2 fp32

/-- vcvt_bf16x2_f32 (R213). -/
def execVcvtBf16x2F32 (d : Reg) (a : Reg) (s : State) : Res :=
  s.cvt2 (encRr 0x4C 12 d a 0) d a bf16

/-- vcvt_f16x2_f32 (R213). -/
def execVcvtF16x2F32 (d : Reg) (a : Reg) (s : State) : Res :=
  s.cvt2 (encRr 0x4C 13 d a 0) d a fp16

/-- vcvt_i8_i32 (R212). -/
def execVcvtI8I32 (d : Reg) (a : Reg) (s : State) : Res :=
  s.resultV (encRr 0x4C 14 d a 0) d fun s j => BitVec.ofInt 32 (max (-128) (min 127 (s.elem a j).toInt)) &&& 0xFF

/-! ### FP32 reductions and the FP32 scan (R150, R151, R215, R216) -/

/-- vrfadd (R150). -/
def execVrfadd (d : Reg) (a : Reg) (s : State) : Res :=
  s.resultSF (encRr 0x4E 8 d a 0) d fun s => treeSum s.rm s.ftz (lanes.map fun j => if s.active j then some (s.elem a j) else none)

/-- vrfmin (R215). -/
def execVrfmin (d : Reg) (a : Reg) (s : State) : Res :=
  s.resultSF (encRr 0x4E 9 d a 0) d fun s => s.fpReduce false a

/-- vrfmax (R215). -/
def execVrfmax (d : Reg) (a : Reg) (s : State) : Res :=
  s.resultSF (encRr 0x4E 10 d a 0) d fun s => s.fpReduce true a

/-- vsfadd (R151). -/
def execVsfadd (d : Reg) (a : Reg) (s : State) : Res :=
  s.scanV (encRr 0x4F 2 d a 0) d a fun xs => match xs with
    | [] => 0
    | x :: rest => BitVec.ofNat 32 (rest.foldl (fun acc y => fpAddRne fp32 acc y.toNat) (withSign (fp32.val x.toNat).sign (fp32.val x.toNat)).1)

end Sys2Proof.Machine
end

