-- ==== Sys2Proof/Machine/Lattice.lean ====
section
/-! DEFINITION. The Lattice: the checks of its commands, tiles, the sequencer queue and its arbitration, and the commands as
they are performed: majors 0x70 to 0x77 (R53, R303 to R336). -/

namespace Sys2Proof.Machine

open Sys2Proof

/-! ### Checks at issue (R313, R334) -/

/-- A trap found at issue: cause, TRAPADDR, TRAPINFO. -/
abbrev Fail := Nat × Nat × Nat

/-- A command ready to enter the queue: what it does, its cost, and whether what it read at issue lies under an error. -/
abbrev Ready := LatOp × Nat × Bool

/-- The tile a live handle names (R308): from the issue of its `accfree` a handle is stale (R328). -/
def Block.liveTile (b : Block) (h : Nat) : Except Fail Tile :=
  match b.tile h with
  | some t => if t.freeing then .error (cAccUnalloc, 0, 0) else .ok t
  | none => .error (cAccUnalloc, 0, 0)

def firstFail : List (Bool × Fail) → Option Fail
  | [] => none
  | (ok, f) :: rest => if ok then firstFail rest else some f

/-- The format block's first failing field (R305). -/
def formatFault (fb : List Byte) : Option Fail :=
  let u (o : Nat) : Nat := fld fb o 1
  let code (o : Nat) : Bool := isMille (u o) || isFloat (u o)
  let planes (side : Nat) : Bool :=
    if isMille (u (16 + side)) then decide (2 ≤ u (18 + side)) && decide (u (18 + side) ≤ 8) else u (18 + side) = 8
  let tag (side : Nat) : Bool :=
    if isMille (u (16 + side)) then u (22 + side) = 0x10 + side
    else u (22 + side) = 0 || u (22 + side) = 1 || u (22 + side) = 0x20
  let at' (off : Nat) (ok : Bool) : Bool × Fail := (ok, (cFormat, 0, off))
  firstFail [at' 16 (code 16), at' 17 (code 17), at' 18 (planes 0), at' 19 (planes 1), at' 20 (decide (u 20 ≤ 4)),
    at' 21 (decide (u 21 ≤ 4)), at' 22 (tag 0), at' 23 (tag 1), at' 28 (decide (u 28 < 4)), at' 29 (fld fb 29 3 = 0)]

/-- The combinations R144 forbids. -/
def combinationOk (a b : Operand) (la lb kg : Nat) (int32 : Bool) : Bool :=
  let one (o : Operand) (l : Nat) : Bool :=
    if o.mille then (if o.scale.isSome then decide (l ≠ 0) && decide (16 * kg % o.len = 0) && decide (16 * o.groups % o.len = 0) else l = 0)
    else o.scale.isNone && l = 0
  (a.mille == b.mille) && one a la && one b lb && (!(a.scale.isSome && b.scale.isSome) || la = lb) &&
    (!int32 || (a.mille && a.scale.isNone && b.scale.isNone))

/-- The page tag of an offset (R307). -/
def Block.tagAt (b : Block) (o : Nat) : Nat := b.tags.getD (o / 4096) 0xFF

/-- The page that holds an offset may be read under a layout tag (R307). -/
def Block.tagOk (b : Block) (tag o : Nat) : Bool := b.tagAt o = tag || (b.tagAt o = 0xFF && (tag = 0 || tag = 1))

/-- Set the tag of the pages of some offsets. -/
def Block.setTags (b : Block) (tag : Nat) (os : List Nat) : Block :=
  { b with tags := os.foldl (fun m o => m.set (o / 4096) tag) b.tags }

/-- The stored rows of A a command reads, without its zero rows. -/
def realRows (rows : List Nat) : List Nat := rows.filter (· ≠ 0xFFFF)

/-- The gather entries of a command (R314): row m of A for each m. -/
def Block.gatherRows (b : Block) (gather : Bool) (base m : Nat) : List Nat :=
  if gather then (List.range m).map fun i => b.lsRead (base + 2 * i) 2 else List.range m

/-- The checks of `mma` and `mmag` in their order (R313), and the command they allow. -/
def Block.mmaCheck (b : Block) (gather ow : Bool) (h fbo dims : Nat) : Except Fail Ready :=
  match b.liveTile h with
  | .error f => .error f
  | .ok t =>
    let fb := b.lsSlice fbo 32
    let aw := operandOf fb dims 0 t.wa
    let bw := operandOf fb dims 1 t.wb
    let kg := dimKG dims
    let m := dimM dims
    let gb := fld fb 24 4
    let order1 := firstFail [(decide (fbo % 32 = 0), (cMisaligned, fbo, 0)), (decide (fbo + 32 ≤ b.usable), (cLocalBounds, fbo, 5))]
    match order1.orElse fun _ => (formatFault fb).orElse fun _ => firstFail
      [(dimsOk dims gather, (cFormat, 0, 0x20)), (decide (m ≤ 32 * t.bands), (cAccUnalloc, 0, 1)),
        (combinationOk aw bw (fld fb 20 1) (fld fb 21 1) kg t.int32, (cFormat, 0, 0x22)),
        (!(aw.mille && decide (aw.planes < t.wa)) && !(bw.mille && decide (bw.planes < t.wb)), (cFormat, 0, 0x21)),
        (aw.base % 2 = 0 || (!aw.mille && aw.size = 1), (cMisaligned, aw.base, 0)),
        (bw.base % 2 = 0 || (!bw.mille && bw.size = 1), (cMisaligned, bw.base, 0)),
        (!gather || gb % 2 = 0, (cMisaligned, gb, 0)),
        (!gather || decide (gb + 2 * m ≤ b.usable), (cLocalBounds, gb, 3))] with
    | some f => .error f
    | none =>
      let rows := b.gatherRows gather gb m
      let ra := realRows rows
      let rd := aw.reads kg (ra.filter (· < aw.rows)) ++ bw.reads kg (List.range (dimN dims)) ++
        aw.scaleReads kg (ra.filter (· < aw.rows)) ++ bw.scaleReads kg (List.range (dimN dims))
      let top := (rd.map fun (p : Nat × Nat) => p.1 + p.2).foldl max 0
      match firstFail [(decide (top ≤ b.usable), (cLocalBounds, top - 1, 3)),
        (ra.all fun e => decide (e < aw.rows), (cLocalBounds, 0, 4)),
        ((aw.reads kg ra).all fun (p : Nat × Nat) => b.tagOk aw.tag p.1, (cLayout, 0, 0)),
        ((bw.reads kg (List.range (dimN dims))).all fun (p : Nat × Nat) => b.tagOk bw.tag p.1, (cLayout, 0, 1))] with
      | some f => .error f
      | none => .ok (.mma h rows fb dims t.wa t.wb ow, kg * aw.width * bw.width + 8,
          b.lsBad fbo 32 || (gather && b.lsBad gb (2 * m)))

/-- `acczero` names a live tile (R329). -/
def Block.zeroCheck (b : Block) (h : Nat) : Except Fail Ready := (b.liveTile h).map fun _ => (.zero h, 8, false)

/-! ### Plane control records (R333, R334) -/

def ctlBase (c : List Byte) : Nat := fld c 0 4
def ctlScale (c : List Byte) : Nat := fld c 4 4
def ctlG (c : List Byte) : Nat := fld c 8 2
def ctlR (c : List Byte) : Nat := fld c 10 1
def ctlRow (c : List Byte) : Nat := fld c 11 1
def ctlG0 (c : List Byte) : Nat := fld c 12 1
def ctlW (c : List Byte) : Nat := fld c 13 1 % 16
def ctlN (c : List Byte) : Bool := hasBit (fld c 13 1) 7
def ctlLen (c : List Byte) : Nat := blockLen (fld c 14 1)
def ctlTag (c : List Byte) : Nat := fld c 15 1

/-- Offset of the word of plane p for group g of the record's row. -/
def ctlWord (c : List Byte) (p g : Nat) : Nat := planeAt (ctlBase c) (ctlR c) (ctlG c) p (ctlRow c) g

/-- Orders 1 to 3 of R334. -/
def Block.ctlFault (b : Block) (o : Nat) (qnt tag : Bool) : Option Fail :=
  let c := b.lsSlice o 16
  let wd := fld c 13 1
  let at' (off : Nat) (ok : Bool) : Bool × Fail := (ok, (cFormat, 0, 0x30 + off))
  firstFail [(decide (o % 16 = 0), (cMisaligned, o, 0)), (decide (o + 16 ≤ b.usable), (cLocalBounds, o, 5)),
    at' 0 (ctlBase c % 2 = 0), at' 8 (decide (1 ≤ ctlG c) && decide (ctlG c ≤ 256)), at' 10 (decide (1 ≤ ctlR c)),
    at' 11 (decide (ctlRow c < ctlR c)), at' 13 (decide (2 ≤ wd % 16) && decide (wd % 16 ≤ 8) && decide (wd / 16 % 8 = 0)),
    at' 14 (!qnt || (decide (1 ≤ fld c 14 1) && decide (fld c 14 1 ≤ 4))), at' 15 (!tag || ctlTag c = 0x10 || ctlTag c = 0x11)]

/-- Offsets of the plane words for some groups. -/
def ctlWords (c : List Byte) (gs : List Nat) : List Nat :=
  (List.range (ctlW c)).flatMap fun p => gs.map fun g => ctlWord c p g

/-- Every word of a list of offsets of 2 bytes lies in the window (R334, order 6). -/
def Block.wordsFault (b : Block) (os : List Nat) : Option Fail :=
  let top := (os.map (· + 2)).foldl max 0
  if top ≤ b.usable then none else some (cLocalBounds, top - 1, 3)

/-- The checks of `qnt` (R334, R335). -/
def Block.qntCheck (b : Block) (src o : Nat) (d : Reg) : Except Fail Ready :=
  let c := b.lsSlice o 16
  let l := ctlLen c
  let gs := (List.range (l / 16)).map (ctlG0 c + ·)
  match (b.ctlFault o true true).orElse fun _ => (firstFail [(decide (src % 4 = 0), (cMisaligned, src, 0)),
      (decide (ctlG0 c + l / 16 ≤ ctlG c), (cLocalBounds, 0, 6)), (decide (src + 4 * l ≤ b.usable), (cLocalBounds, src + 4 * l - 1, 3))]).orElse fun _ =>
      (b.wordsFault (ctlWords c gs)).orElse fun _ =>
        if ctlScale c = noBase || decide (ctlScale c < b.usable) then none else some (cLocalBounds, ctlScale c, 3) with
  | some f => .error f
  | none => .ok (.quant src c d, 3 * l / 16 + 8, b.lsBad o 16)

/-- The groups of the active lanes of `plpack` and `plunp`. -/
def laneGroups (c : List Byte) (mask : List Nat) : List Nat := ((mask.map (· / 16)).eraseDups).map (ctlG0 c + ·)

/-- The checks of `plpack` and `plunp` (R334, R336). -/
def Block.planeCheck (b : Block) (o : Nat) (mask : List Nat) (tag : Bool) : Except Fail (List Byte) :=
  let c := b.lsSlice o 16
  let gs := laneGroups c mask
  match (b.ctlFault o false tag).orElse fun _ =>
      (if gs.all fun g => decide (g < ctlG c) then none else some (cLocalBounds, 0, 6)).orElse fun _ => b.wordsFault (ctlWords c gs) with
  | some f => .error f
  | none => .ok c

/-! ### The queue (R53, R313) -/

/-- Commands in the sequencer queue of a core. -/
def Core.queued (c : Core) : Nat := (c.latq.filter fun x => x.order = 0).length

/-- A command enters the queue (R313). -/
def State.enqueue (s : State) (u : Nat) (r : Ready) (granule : Nat) (token : Option Nat) (list : Option ListId) (seq : Nat) (pc : Word)
    (record : Nat × Nat) : State :=
  let t := s.thread u
  let c : LatCmd := ⟨s.nextUid, u, t.blk, r.1, r.2.1, granule, token, list, seq, pc, record, 0, r.2.2, 0, []⟩
  { s.modCore t.core fun x => { x with latq := x.latq ++ [c] } with nextUid := s.nextUid + 1 }

/-- The token of a direct command among its wave's accesses; its place is no memory. -/
def tokenPart : Part := ⟨127, 0, .seed (2 ^ 41), 0, 0, 0, 0, .idle⟩

/-- A direct command (R313, R321): it stalls while the queue is full or MX at its limit, and traps on a failed check. `claim`
is what it does at issue to its destination and its pages. -/
def State.latIssue (s : State) (granule : Nat) (check : State → Except Fail Ready) (claim : State → Ready → State) (dest : List Nat) : Res :=
  if 64 ≤ (s.core s.th.core).queued || ctrLimit .mx ≤ s.th.count .mx then .next (s.waitAt .counter)
  else match check s with
    | .error (c, a, i) => s.raise c (BitVec.ofNat 64 a) (BitVec.ofNat 64 i)
    | .ok r => ((claim s r).enqueue s.th.uid r granule (some s.th.seq) none s.th.seq s.th.pc (0, 0)).issue .mx .command .llc [tokenPart] dest false

/-- An instruction that reads n bytes of local store at issue waits for its wave's earlier local-store accesses (R71); the
read finds planted errors (R405). -/
def State.afterLocal (s : State) (o n : Nat) (k : State → Res) : Res :=
  if s.th.readsNow 0 n (.loc o) then k (s.readLocal s.th.blk o n) else .next (s.waitAt .memory)

/-- One round of the sequencer (R53) for one wave: commands are given to the Lattice while the deficit pays for them. -/
def issueHeads (u : Nat) : List LatCmd → Nat → Nat → List LatCmd × Nat × Nat
  | [], deficit, n => ([], deficit, n)
  | c :: rest, deficit, n =>
    if c.thr = u && c.order = 0 then
      if c.cost ≤ deficit then
        let r := issueHeads u rest (deficit - c.cost) (n + 1)
        ({ c with order := n } :: r.1, r.2)
      else (c :: rest, deficit, n)
    else
      let r := issueHeads u rest deficit n
      (c :: r.1, r.2)

/-- The effective priority of a wave's task (R48, R49). -/
def State.effPrio (s : State) (u : Nat) : Nat :=
  match s.tasks.get? (s.block (s.thread u).blk).task with
  | some k => k.eff
  | none => (s.thread u).prio

/-- Waves with queued commands at the highest effective priority, in wave-slot order (R53). -/
def State.roundWaves (s : State) (core : Nat) : List Nat :=
  let us := (((s.core core).latq.filter fun c => c.order = 0).map (·.thr)).eraseDups
  let top := (us.map s.effPrio).foldl max 0
  (List.range 32).flatMap fun w => us.filter fun u => s.effPrio u = top && (s.thread u).wslot = w

/-- LATTICE_SEQUENCER_ROUND (R53). -/
def State.latRound (s : State) (core : Nat) : State :=
  (s.roundWaves core).foldl (fun s u =>
    let c := s.core core
    let r := issueHeads u c.latq (c.deficit.getD u 0 + 256) s.nextUid
    let left := if r.1.any fun x => x.thr = u && x.order = 0 then r.2.1 else 0
    { s.modCore core fun c => { c with latq := r.1, deficit := c.deficit.set u left } with nextUid := r.2.2 }) s

/-! ### Which command runs next (R317 to R319) -/

/-- Accesses of a wave to local store that are not yet performed, below a program-order number (R281, R318). -/
def Thread.localBefore (t : Thread) (seq : Nat) : Bool := t.out.any fun a => decide (a.seq < seq) && a.parts.any fun p =>
  !p.phase.final && match p.place with
    | .loc _ => true
    | _ => false

/-- An `accrd` of the tile issued before stamp x is outstanding in the block (R319, R331). -/
def State.tileRead (s : State) (blk slot x : Nat) : Bool := s.allThreads.any fun t => t.blk = blk && t.out.any fun a =>
  match a.kind with
  | .accrd _ h _ _ _ => h % 32 = slot && !a.finished && a.parts.any fun p => decide (p.x < x)
  | _ => false

/-- A command comes before another in its own wave's order (R317). -/
def LatCmd.waveFirst (x c : LatCmd) : Bool := x.thr = c.thr && (if x.order = 0 then decide (x.uid < c.uid) else decide (x.order < c.order))

/-- An `accrd` issued before the command has not read its tile: the command adds into what that leaves (R331). -/
def State.tileHeld (s : State) (c : LatCmd) : Bool := c.op.slot.any fun h => s.tileRead c.blk h c.uid

/-- A command waits for such a read, or its wave has an earlier one that does. -/
def State.readHeld (s : State) (core : Nat) (c : LatCmd) : Bool :=
  s.tileHeld c || (s.core core).latq.any fun x => x.uid ≠ c.uid && x.waveFirst c && s.tileHeld x

/-- A command may run: its wave's earlier commands, and the commands on its tile that come before it, are performed, and so are its
wave's earlier local-store accesses and the `accrd` of its tile issued before it. A command that such an `accrd` holds up does not hold up
those of other waves, which may be what the `accrd` waits for (R317 to R319, R331). -/
def State.latEnabled (s : State) (core : Nat) (c : LatCmd) : Bool :=
  decide (c.order ≠ 0) && !(s.thread c.thr).localBefore c.seq && !s.tileHeld c &&
    (s.core core).latq.all fun x => x.uid = c.uid || !(x.waveFirst c ||
      (decide (x.order ≠ 0) && decide (x.order < c.order) && x.blk = c.blk && x.op.slot.isSome && x.op.slot = c.op.slot && !s.readHeld core x))

/-- The enabled command that was issued to the Lattice first. -/
def State.nextCommand (s : State) (core : Nat) : Option LatCmd :=
  ((s.core core).latq.filter (s.latEnabled core)).foldl (fun best c => match best with
    | none => some c
    | some b => if c.order < b.order then some c else some b) none

/-! ### Performing (R303, R314 to R316, R321, R329, R332, R335, R336) -/

/-- Poison a tile (R316). -/
def Tile.poisoned (t : Tile) : Tile := { t with poison := true, elems := [], bad := [] }

/-- Events of a command become sticky in its wave and reach the arithmetic log (R135, R312, R382): bits as in FLOGEN. -/
def State.latEvents (s : State) (c : LatCmd) (fl : Nat) (sat check : Bool) : State :=
  let s := s.modThread c.thr fun t => { t with
    fstat := t.fstat ||| BitVec.ofNat 5 (fl &&& 5)
    mstat := t.mstat ||| BitVec.ofNat 3 ((if sat then 2 else 0) + (if check then 4 else 0)) }
  s.logArith c.thr c.pc ((fl &&& 5) + (if sat then 2 ^ 5 else 0) + (if check then 2 ^ 6 else 0)) 1

/-- A list ends at the record of a command that failed: that record's trap stands, and the commands of later records are dropped
(R265, R295). -/
def State.endList (s : State) (c : LatCmd) : State :=
  s.modCore (s.thread c.thr).core fun x => { x with
    latq := x.latq.filter fun y => !(y.thr = c.thr && y.list = c.list && decide (c.uid < y.uid)) }

/-- The deferred cause of a command goes where its source takes it (R265, R295, R316). -/
def State.latCause (s : State) (c : LatCmd) (cause : Nat) : State :=
  match c.list with
  | none => match c.token with
    | some q => s.modThread c.thr fun t => match t.access q .mx with
      | some a => { t with pending := t.pending ++ [⟨q, .mx, a.k, cause, c.pc, 0, 0, none, false, false⟩] }
      | none => t
    | none => s
  | some (.follow id) => (s.endList c).modCore (s.thread c.thr).core fun x => { x with barrow := x.barrow.map fun b =>
      if b.id = id then { b with followList := b.followList.map fun l => { l with trap := some (cause, c.record.1, c.record.2) } } else b }
  | some _ => (s.endList c).modThread c.thr fun t => { t with latList := t.latList.map fun l =>
      { l with trap := some (cause, c.record.1, c.record.2) } }

/-- A direct command is complete: MX may fall (R189, R190). -/
def State.latDone (s : State) (c : LatCmd) : State :=
  match c.token with
  | some q => match (s.thread c.thr).access q .mx with
    | some a => s.settle c.thr { a with parts := a.parts.map fun p => { p with phase := .done } }
    | none => s
  | none => s

/-- A direct command still owns its destination (R173). -/
def State.latOwns (s : State) (c : LatCmd) (d : Nat) : Bool :=
  match c.token with
  | some q => match (s.thread c.thr).access q .mx with
    | some a => a.dest = [d]
    | none => false
  | none => false

/-- Write the result of a command in its wave, and in the wave's shadow (R398). -/
def State.latWrite (s : State) (c : LatCmd) (f : Thread → Thread) : State :=
  let s := s.modThread c.thr f
  match (s.thread c.thr).partner with
  | some v => s.modThread v f
  | none => s

/-- Read local-store ranges as a command does: planted errors show (R405), and whether a word lies under an error. -/
def State.latRead (s : State) (blk : Nat) (rs : List (Nat × Nat)) : State × Bool :=
  let s := if s.err.plant.isNone then s else rs.foldl (fun s p => s.readLocal blk p.1 p.2) s
  (s, !(s.block blk).lsPoison.isEmpty && rs.any fun p => (s.block blk).lsBad p.1 p.2)

/-- A command finds an uncorrectable error, or fails its check: its tile is poisoned (R316). -/
def State.latPoison (s : State) (c : LatCmd) (cause : Nat) : State :=
  let s := match c.op.slot with
    | some h => s.modBlock c.blk fun b => { b with tiles := b.tiles.adjust h Tile.poisoned }
    | none => s
  s.latCause c cause

/-- Output positions of a product, row by row. -/
def mmaCells (rows : List Nat) (n : Nat) : List Nat := (List.range rows.length).flatMap fun m => (List.range n).map fun j => 64 * m + j

/-- The stored row of A that a position's row reads; 0xFFFF: a zero row (R314). -/
def cellRow (rows : List Nat) (q : Nat) : Nat := rows.getD (q / 64) 0xFFFF

/-- A product takes its K-groups up to g1 - 1 (R303, R320): the sums so far, and whether it has met a word under an error. -/
def State.mmaGroups (s : State) (c : LatCmd) (t : Tile) (rows : List Nat) (fb : List Byte) (dims wa wb : Nat) (ow : Bool) (g1 : Nat) : State × LatCmd :=
  let a := operandOf fb dims 0 wa
  let b := operandOf fb dims 1 wb
  let n := dimN dims
  let cells := mmaCells rows n
  let r := s.latRead c.blk (a.readsIn c.at' g1 (realRows rows) ++ b.readsIn c.at' g1 (List.range n) ++
    a.scaleReads g1 (realRows rows) ++ b.scaleReads g1 (List.range n))
  let blk := r.1.block c.blk
  let sums := if c.at' = 0 then cells.map fun q => PartSum.start (if ow then 0 else t.elems.getD q 0) else c.sums
  let gs := (List.range (g1 - c.at')).map (c.at' + ·)
  let step (x : Nat × PartSum) : PartSum :=
    let row := cellRow rows x.1
    if row = 0xFFFF then x.2 else gs.foldl (PartSum.group blk a b t.int32 row (x.1 % 64)) x.2
  (r.1, { c with at' := g1, bad := c.bad || r.2, sums := (cells.zip sums).map step })

/-- The product of a command, added into its tile (R303, R314, R324): the K-groups that are left, and the elements written. -/
def State.runMma (s : State) (c : LatCmd) (h : Nat) (rows : List Nat) (fb : List Byte) (dims wa wb : Nat) (ow check : Bool) : State :=
  match (s.block c.blk).tiles.get? (h % 32) with
  | none => s
  | some t =>
    let cells := mmaCells rows (dimN dims)
    let r := s.mmaGroups c t rows fb dims wa wb ow (dimKG dims)
    let s := r.1
    let c := r.2
    if t.poison then s
    else if c.bad || (!ow && cells.any t.bad.has) then s.latPoison c cUeConsumed
    else
      let step (acc : Map W32 × Nat × Bool) (x : Nat × PartSum) : Map W32 × Nat × Bool :=
        if cellRow rows x.1 = 0xFFFF then (if ow then (acc.1.erase x.1, acc.2) else acc)
        else
          let y := x.2.done t.int32
          (acc.1.put x.1 y.1 0, acc.2.1 ||| y.2.1, acc.2.2 || y.2.2)
      let out := (cells.zip c.sums).foldl step (t.elems, 0, false)
      let bad := if ow then t.bad.filter fun p => !cells.contains p.1 else t.bad
      let s := s.modBlock c.blk fun b => b.setTile (h % 32) { t with elems := out.1, bad := bad }
      let s := s.latEvents c out.2.1 out.2.2 check
      if check then s.latPoison c cLatticeCheck else s

/-- K-groups between the split points of a granule (R320); 0: none within the command. -/
def splitGroups (granule : Nat) : Nat :=
  match granule with
  | 1 => 1
  | 2 => 4
  | 3 => 16
  | _ => 0

/-- A product that may run advances by k split points of its granule, short of its end (R320). -/
def State.latAdvance (s : State) (core uid k : Nat) : State :=
  match (s.core core).latq.find? fun c => c.uid = uid with
  | none => s
  | some c => match c.op with
    | .mma h rows fb dims wa wb ow =>
      let g := splitGroups c.granule
      let g1 := (c.at' / max g 1 + k) * g
      if g = 0 || k = 0 || decide (dimKG dims ≤ g1) || !s.latEnabled core c then s
      else match (s.block c.blk).tiles.get? (h % 32) with
        | none => s
        | some t =>
          let r := s.mmaGroups c t rows fb dims wa wb ow g1
          r.1.modCore core fun x => { x with latq := x.latq.map fun y => if y.uid = uid then r.2 else y }
    | _ => s

/-- `accwr` into its band (R332). -/
def State.runWrite (s : State) (c : LatCmd) (h band col : Nat) (v : VReg) (mask : List Nat) : State :=
  s.modBlock c.blk fun b => { b with tiles := b.tiles.adjust (h % 32) fun t =>
    if t.poison then t
    else (mask.filter fun j => decide (col + j / 32 < 64)).foldl (fun t j =>
      let q := 64 * (32 * band + j % 32) + (col + j / 32)
      { t with elems := t.elems.put q (lane v j) 0, bad := t.bad.erase q }) t }

/-- Write one bit of a plane word. -/
def Block.setPlaneBit (b : Block) (o j : Nat) (v : Bool) : Block :=
  let x := b.lsRead o 2
  b.lsWrite o 2 (if v then x ||| 2 ^ j else x &&& (0xFFFF - 2 ^ j))

/-- The poison of local-store words that writes have covered goes (R392). -/
def Block.lsClean (b : Block) (ws : List Nat) : Block := { b with lsPoison := b.lsPoison.filter fun p => !ws.contains p.1 }

/-- `qnt` (R335): every source word is read before any write. A 4-byte word whose two plane words are written is written whole, which
clears an error in it; one that is written in part stays poisoned, and the cause is deferred (R392; log 37). -/
def State.runQuant (s : State) (c : LatCmd) (src : Nat) (ctl : List Byte) (d : Reg) : State :=
  let l := ctlLen ctl
  let w := ctlW ctl
  let r := s.latRead c.blk ((List.range l).map fun t => (src + 4 * t, 4))
  let s := r.1
  if r.2 || c.bad then s.latCause c cUeConsumed
  else
    let q := sieve ((List.range l).map fun t => (s.block c.blk).lsRead (src + 4 * t) 4) w (ctlN ctl)
    let word (p g : Nat) : Nat := ((List.range 16).map fun j => if planeOf (q.2.1.getD (16 * g + j) 0) w p then 2 ^ j else 0).sum
    let dst := ctlWords ctl ((List.range (l / 16)).map (ctlG0 ctl + ·))
    let full := (dst.filter fun o => o % 4 = 0 && dst.contains (o + 2)).map (· / 4)
    let part := ((dst.map fun o => (o, 2)) ++ (if ctlScale ctl = noBase then [] else [(ctlScale ctl, 1)])).filter fun x => !full.contains (x.1 / 4)
    let s := full.foldl (fun s x => s.coverLocal c.blk (4 * x) 4) s
    let r := s.latRead c.blk part
    let s := r.1.modBlock c.blk fun b =>
      let b := (List.range w).foldl (fun b p => (List.range (l / 16)).foldl (fun b g => b.lsWrite (ctlWord ctl p (ctlG0 ctl + g)) 2 (word p g)) b) b
      (if ctlScale ctl = noBase then b else b.lsWrite (ctlScale ctl) 1 q.1).lsClean full
    let s := s.latEvents c (nvIf q.2.2) false false
    let s := if r.2 then s.latCause c cUeConsumed else s
    if s.latOwns c d.toNat then s.latWrite c fun t => t.writeScalar false d.toNat (BitVec.ofNat 64 q.1) else s

/-- `plpack` (R336). -/
def State.runPack (s : State) (c : LatCmd) (ctl : List Byte) (v : VReg) (mask : List Nat) : State :=
  let w := ctlW ctl
  let r := s.latRead c.blk ((ctlWords ctl (laneGroups ctl mask)).map fun o => (o, 2))
  if r.2 || c.bad then r.1.latCause c cUeConsumed
  else r.1.modBlock c.blk fun b => mask.foldl (fun b j => (List.range w).foldl (fun b p =>
    b.setPlaneBit (ctlWord ctl p (ctlG0 ctl + j / 16)) (j % 16) ((lane v j).getLsbD (w - 1 - p))) b) b

/-- `plunp` (R336). -/
def State.runUnpack (s : State) (c : LatCmd) (ctl : List Byte) (d : Nat) (mask : List Nat) : State :=
  let w := ctlW ctl
  let r := s.latRead c.blk ((ctlWords ctl (laneGroups ctl mask)).map fun o => (o, 2))
  let s := r.1
  if r.2 || c.bad then s.latCause c cUeConsumed
  else if s.latOwns c (1000 + d) then
    let b := s.block c.blk
    let val (j : Nat) : W32 := BitVec.ofInt 32 (planeInt (ctlN ctl) w
      ((List.range w).map fun p => b.planeBit (ctlWord ctl p (ctlG0 ctl + j / 16)) (j % 16)))
    s.latWrite c fun t => if t.vreg.has d then t.vwriteA d mask.contains val else t
  else s

/-- LATTICE_COMMAND_PERFORMED (R317): one enabled command is performed; `bad`: its check row and column differ (R315). -/
def State.latPerform (s : State) (core : Nat) (c : LatCmd) (bad : Bool) : State :=
  let s := match c.op with
    | .mma h rows fb dims wa wb ow => s.runMma c h rows fb dims wa wb ow bad
    | .zero h => s.modBlock c.blk fun b => { b with tiles := b.tiles.adjust (h % 32) fun t => { t with elems := [], poison := false, bad := [] } }
    | .write h band col v mask => s.runWrite c h band col v mask
    | .quant src ctl d => s.runQuant c src ctl d
    | .pack ctl v mask => s.runPack c ctl v mask
    | .unpack ctl d mask => s.runUnpack c ctl d mask
  (s.modCore core fun x => { x with latq := x.latq.filter fun y => y.uid ≠ c.uid }).latDone c

/-! ### Tiles (R308, R309, R325 to R332) -/

/-- Banks of a core that no tile of a resident block holds (R308). -/
def State.freeBanks (s : State) (core : Nat) : List Nat :=
  let used := (s.blocksOn core).flatMap fun b => (b.tiles.vals.filter (·.used)).flatMap (·.banks)
  (List.range 32).filter fun i => !used.contains i

/-- Banks a block's tiles hold. -/
def Block.banksHeld (b : Block) : Nat := ((b.tiles.vals.filter (·.used)).map (·.bands)).sum

/-- The lowest tile slot that is free. -/
def Block.freeTile (b : Block) : Option Nat := (List.range 32).find? fun i => !(b.tiles.getD i Tile.reset).used

/-- `accalloc` (R327): the handle, or 0xFFFF_FFFF. -/
def State.allocTile (s : State) (bands : Nat) (int32 : Bool) : State × Nat :=
  let b := s.blk
  let free := s.freeBanks s.th.core
  match b.freeTile with
  | none => (s, 0xFFFFFFFF)
  | some i =>
    if b.accBanks < b.banksHeld + bands || free.length < bands then (s, 0xFFFFFFFF)
    else
      let g := (b.tiles.getD i Tile.reset).gen
      (s.modBlock s.th.blk fun b => b.setTile i ⟨g, true, int32, free.take bands, 0, 0, [], false, [], [], false⟩, g * 2 ^ 8 + i)

/-- `twset` (R325). -/
def Block.setWidths (b : Block) (h wa wb : Nat) : Except Fail Block :=
  match b.liveTile h with
  | .error f => .error f
  | .ok t => if 8 < wa || 8 < wb then .error (cFormat, 0, 0x21) else .ok (b.setTile (h % 32) { t with wa := wa, wb := wb })

/-- Nothing issued before a stamp is outstanding on the tile (R328). -/
def State.tileIdle (s : State) (h stamp : Nat) : Bool :=
  !s.tileBusy s.th.core s.th.blk h stamp && !s.tileRead s.th.blk (h % 32) stamp

/-- The tile's slot is free again, with its next generation (R328). -/
def State.freeTile (s : State) (h : Nat) : State :=
  s.modBlock s.th.blk fun b => b.setTile (h % 32) { Tile.reset with gen := ((b.tiles.getD (h % 32) Tile.reset).gen + 1) % 256 }

/-- The stamp a waiting `accfree` was issued at. -/
def State.freeStamp (s : State) : Option Nat := match s.th.wait with
  | some w => if w.kind = .engine then (w.args[1]?).map (·.toNat) else none
  | none => none

/-- A claim by another wave on a band of a tile (R311, R330). -/
def Tile.heldBy (t : Tile) (band wib : Nat) : Option Nat := (t.claims.get? band).bind fun w => if w = wib then none else some w

def bandInfo (band holder : Nat) : Nat := band + holder * 2 ^ 8

/-- The checks of `accwr` (R332). -/
def State.writeCheck (s : State) (h sel : Nat) (v : VReg) (mask : List Nat) : Except Fail Ready :=
  match s.blk.liveTile h with
  | .error f => .error f
  | .ok t =>
    let band := sel / 2 ^ 8 % 2 ^ 8
    if t.bands ≤ band then .error (cAccUnalloc, 0, 2)
    else match t.heldBy band s.th.wib with
      | some w => .error (cAccBand, 0, bandInfo band w)
      | none => .ok (.write h band (sel % 2 ^ 8) v mask, 8, false)

/-- `accrd` (R331): each active lane is a part of one LD-counted access, stamped with its place in issue order; a handle
that is stale at issue stays so. -/
def State.accRead (s : State) (w : W32) (d a b : Reg) (clear : Bool) : Res :=
  s.guarded w fun s =>
    let h := (s.sget a).toNat
    let sel := (s.sget b).toNat
    let band := sel / 2 ^ 8 % 2 ^ 8
    let live := s.blk.liveTile h
    let stale := match live with
      | .ok _ => false
      | .error _ => true
    let held := match live with
      | .ok t => if band < t.bands then t.heldBy band s.th.wib else none
      | .error _ => none
    match held with
    | some x => s.raise cAccBand 0 (BitVec.ofNat 64 (bandInfo band x))
    | none =>
      let ps : List Part := s.activeLanes.map fun j => ⟨j, 0, .seed (2 ^ 41 + 64 * (j + 1)), 4, 0, s.nextUid, if stale then 1 else 0, .idle⟩
      ({ s with nextUid := s.nextUid + 1 }).issueLd (State.claimVector (s.varch d))
        (.accrd (s.varch d) h band (sel % 2 ^ 8) clear) .l1 ps [s.varch d] false

/-- The scalar destination of `qnt` is claimed (R173): earlier uncovered loads and commands into it lose it. -/
def State.claimCommand (s : State) (d : Nat) : State :=
  { s with th := { s.th with out := s.th.out.map (dropScalar (BitVec.ofNat 7 d) false) } }

def scalarToken (d : Reg) : List Nat := if d = 0 then [] else [d.toNat]

/-- `mma` and `mmag` (R324). -/
def State.mmaIssue (s : State) (w : W32) (gather ow : Bool) (g : Nat) (d a b : Reg) : Res :=
  s.guarded w fun s =>
    s.afterLocal (s.sget a).toNat 32 fun s => s.latIssue g (fun s => s.blk.mmaCheck gather ow (s.sget d).toNat (s.sget a).toNat (s.sget b).toNat) (fun s _ => s) []

/-- Raise a failed check. -/
def State.failWith (s : State) (f : Fail) : Res := s.raise f.1 (BitVec.ofNat 64 f.2.1) (BitVec.ofNat 64 f.2.2)

/-! ### Instructions -/

/-- mma (R324). -/
def execMma (d : Reg) (a : Reg) (b : Reg) (g : BitVec 2) (o : Bool) (s : State) : Res :=
  s.mmaIssue (encRr 0x70 (g.toNat + 8 * o.toNat) d a b) false o g.toNat d a b

/-- mmag (R324). -/
def execMmag (d : Reg) (a : Reg) (b : Reg) (g : BitVec 2) (o : Bool) (s : State) : Res :=
  s.mmaIssue (encRr 0x71 (g.toNat + 8 * o.toNat) d a b) true o g.toNat d a b

/-- twset (R325). -/
def execTwset (d : Reg) (a : Reg) (b : Reg) (s : State) : Res :=
  s.guarded (encRr 0x72 0 d a b) fun s =>
    match s.blk.setWidths (s.sget d).toNat ((s.sget a).toNat % 16) ((s.sget b).toNat % 16) with
    | .error f => s.failWith f
    | .ok x => .next (s.modBlock s.th.blk fun _ => x).adv

/-- accalloc (R327). -/
def execAccalloc (d : Reg) (a : Reg) (b : Reg) (s : State) : Res :=
  s.guarded (encRr 0x73 0 d a b) fun s =>
    let bands := (s.sget a).toNat
    let ty := (s.sget b).toNat
    if bands < 1 || 4 < bands || 1 < ty then s.raise cFormat 0 0x23
    else match s.allocTile bands (ty = 1) with
      | (s, h) => .next (s.sset d (BitVec.ofNat 64 h)).adv

/-- accfree (R328): from its issue the handle is stale; it waits for what was issued before it. -/
def execAccfree (a : Reg) (s : State) : Res :=
  s.guarded (encRr 0x73 1 0 a 0) fun s =>
    let h := (s.src 0 a).toNat
    match s.freeStamp with
    | some x => if s.tileIdle h x then .next (s.freeTile h).adv else .next s
    | none => match s.blk.liveTile h with
      | .error f => s.failWith f
      | .ok t =>
        if s.tileIdle h s.nextUid then .next (s.freeTile h).adv
        else
          let x := s.nextUid
          let s := ({ s with nextUid := x + 1 }).modBlock s.th.blk fun b => b.setTile (h % 32) { t with freeing := true }
          .next (s.waitWith .engine [s.src 0 a, BitVec.ofNat 64 x])

/-- acczero (R329). -/
def execAcczero (a : Reg) (s : State) : Res :=
  s.guarded (encRr 0x73 2 0 a 0) fun s => s.latIssue 0 (fun s => s.blk.zeroCheck (s.sget a).toNat) (fun s _ => s) []

/-- accclaim (R330). -/
def execAccclaim (a : Reg) (b : Reg) (s : State) : Res :=
  s.guarded (encRr 0x73 3 0 a b) fun s =>
    let h := (s.sget a).toNat
    let band := (s.sget b).toNat % 2 ^ 8
    match s.blk.liveTile h with
    | .error f => s.failWith f
    | .ok t =>
      if t.bands ≤ band then s.raise cAccUnalloc 0 2
      else if (s.sget b).getLsbD 8 then
        .next (if t.claims.get? band = some s.th.wib then
          s.modBlock s.th.blk fun b => b.setTile (h % 32) { t with claims := t.claims.erase band } else s).adv
      else match t.heldBy band s.th.wib with
        | some x => s.raise cAccBand 0 (BitVec.ofNat 64 (bandInfo band x))
        | none => .next (s.modBlock s.th.blk fun b => b.setTile (h % 32) { t with claims := t.claims.set band s.th.wib }).adv

/-- accrd (R331). -/
def execAccrd (d : Reg) (a : Reg) (b : Reg) (s : State) : Res :=
  s.accRead (encRr 0x74 0 d a b) d a b false

/-- accrd_clr (R331). -/
def execAccrdClr (d : Reg) (a : Reg) (b : Reg) (s : State) : Res :=
  s.accRead (encRr 0x74 1 d a b) d a b true

/-- accwr (R332). -/
def execAccwr (d : Reg) (a : Reg) (b : Reg) (s : State) : Res :=
  s.guarded (encRr 0x75 0 d a b) fun s =>
    s.latIssue 0 (fun s => s.writeCheck (s.sget d).toNat (s.sget b).toNat (s.vget a) s.activeLanes) (fun s _ => s) []

/-- qnt (R335). -/
def execQnt (d : Reg) (a : Reg) (b : Reg) (s : State) : Res :=
  s.guarded (encRr 0x76 0 d a b) fun s =>
    s.afterLocal (s.sget b).toNat 16 fun s => s.latIssue 0 (fun s => s.blk.qntCheck (s.sget a).toNat (s.sget b).toNat d) (fun s _ =>
      let c := s.blk.lsSlice (s.sget b).toNat 16
      s.claimCommand d.toNat |>.modBlock s.th.blk fun x =>
        x.setTags (ctlTag c) (ctlWords c ((List.range (ctlLen c / 16)).map (ctlG0 c + ·)))) (scalarToken d)

/-- plpack (R336). -/
def execPlpack (a : Reg) (b : Reg) (s : State) : Res :=
  s.guarded (encRr 0x77 0 0 a b) fun s =>
    s.afterLocal (s.sget b).toNat 16 fun s => s.latIssue 0
      (fun s => (s.blk.planeCheck (s.sget b).toNat s.activeLanes true).map fun c =>
        (.pack c (s.vget a) s.activeLanes, ctlW c + 8, s.blk.lsBad (s.sget b).toNat 16))
      (fun s _ => let c := s.blk.lsSlice (s.sget b).toNat 16
        s.modBlock s.th.blk fun x => x.setTags (ctlTag c) (ctlWords c (laneGroups c s.activeLanes))) []

/-- plunp (R336). -/
def execPlunp (d : Reg) (b : Reg) (s : State) : Res :=
  s.guarded (encRr 0x77 1 d 0 b) fun s =>
    s.afterLocal (s.sget b).toNat 16 fun s => s.latIssue 0
      (fun s => (s.blk.planeCheck (s.sget b).toNat s.activeLanes false).map fun c =>
        (.unpack c (s.varch d) s.activeLanes, ctlW c + 8, s.blk.lsBad (s.sget b).toNat 16))
      (fun s _ => State.claimVector (s.varch d) s) [1000 + s.varch d]

/-! ### Events -/

/-- lattice sequencer round (R53). -/
def execLatticeSequencerRound (core : Nat) (s : State) : Res :=
  .next (s.latRound core)

/-- lattice command performed (R317). -/
def execLatticeCommandPerformed (core : Nat) (uid : Nat) (bad : Bool) (s : State) : Res :=
  match (s.core core).latq.find? fun c => c.uid = uid with
  | some c => .next (if s.latEnabled core c then s.latPerform core c bad else s)
  | none => .next s

end Sys2Proof.Machine
end

