-- ==== Sys2Proof/Machine/Turns.lean ====
section
/-! DEFINITION. Around one instruction: which thread runs, the fetch of its word, the passing of time, errors that arise
in an array (R21, R51, R52, R69, R177, R109, R273, R391; log 3). -/

namespace Sys2Proof.Machine

open Sys2Proof

/-! ### The running thread -/

def State.exists (s : State) (u : Nat) : Bool := u = s.th.uid || s.threads.has u || (decide (512 ≤ u) && decide (u < 544))

/-- Another thread becomes the running one. -/
def State.switchTo (s : State) (u : Nat) : State :=
  if u = s.th.uid || !s.exists u then s
  else { s with th := s.thread u, threads := (s.threads.set s.th.uid s.th).erase u }

/-- Key of a buffered instruction word: context and word number. -/
def bufKey (ctx pc : Nat) : Nat := ctx * 2 ^ 54 + pc % 2 ^ 56 / 4

/-- The word at the running thread's pc, if its core's instruction buffers hold it (R273). -/
def State.fetched (s : State) : Option W32 :=
  if s.th.pc.toNat / 2 ^ 56 ≠ 0 then none else (s.core s.th.core).ibuf.get? (bufKey s.th.ctx s.th.pc.toNat)

/-- Majors held back by throttling (R52). -/
def memoryIssue (op : Nat) : Bool :=
  (decide (0x30 ≤ op) && decide (op ≤ 0x3D)) || (decide (0x54 ≤ op) && decide (op ≤ 0x5E)) || (decide (0x78 ≤ op) && decide (op ≤ 0x7A))

/-- The waves of a core that take part of its allowance before a thread: every C wave, and the older ones of the others, whose blocks
started earlier, or at the same time with a lower number (R51, R52). -/
def State.wavesBefore (s : State) (t : Thread) : Nat :=
  (s.allThreads.filter fun o => o.core = t.core && !o.frailor && o.life = .running && o.uid != t.uid &&
    (o.cls = 0 || decide ((s.block o.blk).startedAt < (s.block t.blk).startedAt) ||
      (decide ((s.block o.blk).startedAt = (s.block t.blk).startedAt) && decide (o.uid < t.uid)))).length

/-- Throttling keeps the thread from issuing this word (R52). -/
def State.throttled (s : State) (w : W32) : Bool :=
  !s.th.frailor && decide (s.th.cls ≠ 0) && memoryIssue (w.toNat % 128) && decide ((s.core s.th.core).allowance ≤ s.wavesBefore s.th)

def Thread.stalled (t : Thread) : Bool := match t.wait with
  | some w => w.kind = .fault
  | none => false

/-- The running thread may take its instruction now: after a failure of bring-up none does (R12, R418). -/
def State.runs (s : State) : Bool :=
  !s.frozen && s.host.code = 0 && s.th.life = .running && !s.th.stalled && (match s.fetched with
    | some w => !s.throttled w
    | none => true)

def State.waiting (s : State) : Bool := s.th.wait.isSome

/-! ### Time and errors -/

/-- Reference ticks and cycles pass; a frozen package sees none (R21, R403). -/
def State.elapse (s : State) (ticks cycles svc : Nat) : State :=
  if s.frozen then s
  else { s with now := s.now + ticks, cycles := s.cycles + cycles, svcCycles := s.svcCycles + svc }

/-- The clock of one core counts on alone (R177). -/
def State.clockOn (s : State) (core n : Nat) : State :=
  if s.frozen then s else s.modCore core fun c => { c with clk := c.clk + n }

/-- The reference counter of one die moves against the Frailor chiplet's (R21). -/
def State.drift (s : State) (die : Nat) (n : Int) : State :=
  if s.frozen then s else { s with skew := s.skew.set die (s.skew.getD die 0 + n) }

/-- A slot of a stage queue that holds data lies under an error (R391). -/
def Queue.upset (q : Queue) (n : Nat) : Queue := if q.head ≤ n ∧ n < q.head + q.count then { q with bad := n :: q.bad } else q

/-- An uncorrectable error arises (R391): a copy that can be fetched again is dropped, any other word is poisoned. Space 7:
a corrected error waits in a tier-1 row (R395). -/
def State.upset (s : State) (space unit index : Nat) : State :=
  match space with
  | 0 =>
    match s.home.get? index with
    | some (.registered _) => s
    | _ => match s.lines.get? (lineOf index) with
      | some l => if l.dirty then { s with lines := s.lines.set (lineOf index) { l with ue := some true } } else s
      | none => { s with memPoison := s.memPoison.set index true }
  | 1 => s.modCore unit fun c => match c.l1.get? index with
    | some e => if e.registered then { c with l1 := c.l1.set index { e with bad := true } } else { c with l1 := c.l1.erase index }
    | none => c
  | 2 => s.modBlock unit fun b => { b with lsPoison := b.lsPoison.set index true }
  | 3 => if index = 0 then s else s.modThread unit fun t => { t with sPoison := t.sPoison.set index true }
  | 4 => s.modThread unit fun t => if t.vreg.has (index / 96) then { t with vPoison := t.vPoison.set index true } else t
  | 5 => { s with seedPoison := s.seedPoison.set index true }
  | 6 => s.modBlock unit fun b => { b with tiles := b.tiles.adjust (index / 2 ^ 14) fun t =>
      if t.used then { t with bad := t.bad.set (index % 2 ^ 14) true } else t }
  | 8 => s.modCore unit fun c => { c with ibuf := c.ibuf.erase index }
  | 9 => s.modCore unit fun c => { c with tlb := c.tlb.erase index }
  | 10 => { s with dieTlb := s.dieTlb.set unit ((s.dieTlbOf unit).erase index) }
  | 11 => s.modThread unit fun t => if t.trapMode && index ≠ 0 then { t with tPoison := t.tPoison.set index true } else t
  | 12 => s.modBlock unit fun b => { b with queues := b.queues.adjust (index / 2 ^ 32) (·.upset (index % 2 ^ 32)) }
  | _ => s.setErr fun e => { e with rows := index :: e.rows }

/-- The next listed thread after the running one, in rising number, round again. -/
def State.nextThread (s : State) : Nat :=
  match s.threads.keys.find? fun u => decide (s.th.uid < u) with
  | some u => u
  | none => s.threads.keys.headD s.th.uid

/-! ### A program put before the running thread (log 5) -/

/-- A wave that stands for bring-up, context creation and the launch of one block of one wave of class C (R40, R417). -/
def State.withWave (s : State) : State :=
  if !s.th.frailor then s
  else
    let u := s.nextUid
    let r : Record := ⟨0x10000, 0, 1, 1, 0, 0, false, 0, false, false, false, 65536, 4, 64, 0, 0, 1, [⟨0x10000, 1, false, 64, 32, 0, 0⟩], [], 0⟩
    let task : Task := ⟨u + 32, r, 0, some 0, 0, u, 1, 0, 0, 0, false, none, 0, none, none, 0, false, 0⟩
    let b := s.seat (mkBlock u 0 task false) 0
    let s := { s with nextUid := u + 64, tasks := s.tasks.set task.uid task, host := { s.host with ready := true, stage := 7 } }
    let s := s.modCtx 1 fun c => { c with live := true, privBytes := max c.privBytes 4096 }
    let s := s.startBlock b r
    s.switchTo (u + 1)

/-- The running thread finds this word in its instruction buffer, and nothing else is due first. -/
def State.withWord (s : State) (w : W32) : State :=
  let s := s.withWave
  let s := { s with agenda := [], walked := [], frozen := false, host := { s.host with code := 0 }, err := { s.err with found := [] }, th := { s.th with life := .running, wait := none, pc := s.th.pc % 2 ^ 56 } }
  let s := s.modCore s.th.core fun c => { c with ibuf := c.ibuf.set (bufKey s.th.ctx s.th.pc.toNat) w, allowance := 32 }
  if s.th.frailor || decide (s.th.cls = 0) then s else { s with th := { s.th with cls := 0 } }

end Sys2Proof.Machine
end

