-- ==== Sys2Proof/Machine/Barrow.lean ====
section
/-! DEFINITION. Barrow: copy templates, ctld, copy and copym, how their elements are read, staged and delivered by sectors, the
transfers of `.own`, faults, aborts and follow-on blocks: majors 0x78 to 0x7A (R167, R275 to R300). -/

namespace Sys2Proof.Machine

open Sys2Proof

/-! ### Templates (R276 to R278) -/

def sextInt (x n : Nat) : Int := sextNat x n

/-- The fields of a template's bytes. -/
def templateOf (b : List Byte) : Template where
  esize := fld b 0 1
  dims := fld b 1 1
  xform := fld b 2 1
  tag := fld b 3 1
  planes := fld b 4 1
  ext := (List.range 4).map fun k => fld b (8 + 4 * k) 4
  sstride := (List.range 4).map fun k => sextInt (fld b (24 + 4 * k) 4) 32
  dstride := (List.range 4).map fun k => sextInt (fld b (40 + 4 * k) 4) 32
  valid0 := fld b 56 4
  valid1 := fld b 60 4

/-- The first field that breaks R276, by its offset (R278). -/
def templateFault (b : List Byte) : Option Nat :=
  let t := templateOf b
  let e (k : Nat) : Nat := t.ext.getD k 0
  let tags : List Nat := [0x00, 0x01, 0x10, 0x11, 0x20, 0xFF]
  let extOk (k : Nat) : Bool := decide (1 ≤ e k) && (decide (k < t.dims) || e k = 1) &&
    (k ≠ 0 || t.xform = 0 || (e 0 % 16 = 0 && decide (e 0 ≤ 4096)))
  let dOk (k : Nat) : Bool := t.xform = 0 || fld b (40 + 4 * k) 4 = 0
  let checks : List (Nat × Bool) :=
    [(0, if t.xform = 0 then t.esize = 1 || t.esize = 2 || t.esize = 4 else t.esize = 1),
      (1, decide (1 ≤ t.dims) && decide (t.dims ≤ 4) && (t.xform = 0 || t.dims = 2)), (2, decide (t.xform ≤ 2)),
      (3, tags.contains t.tag && (t.xform = 0 || t.tag = 0x0F + t.xform)),
      (4, if t.xform = 0 then t.planes = 0 else decide (2 ≤ t.planes) && decide (t.planes ≤ 8)), (5, fld b 5 3 = 0)] ++
    (List.range 4).map (fun k => (8 + 4 * k, extOk k)) ++ [(8, decide (e 0 * e 1 * e 2 * e 3 ≤ 2 ^ 24))] ++
    (List.range 4).map (fun k => (40 + 4 * k, dOk k)) ++ [(56, decide (t.valid0 ≤ e 0)), (60, decide (t.valid1 ≤ e 1))]
  (checks.find? fun p => !p.2).map (·.1)

/-- A block's template number receives a template; the slot it takes is the core's most recently used (R277). -/
def State.loadTemplate (s : State) (blk n : Nat) (t : Template) : State :=
  let s := s.modBlock blk fun b => { b with tmpls := b.tmpls.set n t }
  s.modCore (s.block blk).core fun c => { c with tmplSlots := ((blk, n) :: c.tmplSlots.filter (· ≠ (blk, n))).take 64 }

/-- The pointer checks of `ctld` that come before the read (R278). -/
def ctldFault (p : Nat) : Option Fail :=
  let ok := (p / 2 ^ 60 = 0 && p / 2 ^ 56 = 0) || (p / 2 ^ 60 = 1 && p % 2 ^ 60 / 2 ^ 20 = 0)
  firstFail [(ok, (cAccessFault, p, (faultInfo .record 127 14).toNat)), (p % 64 = 0, (cMisaligned, p, 0))]

/-! ### Elements (R282 to R284) -/

def Template.total (t : Template) : Nat := t.ext.foldl (· * ·) 1

/-- The index tuple of a linear index, i0 fastest. -/
def Template.index (t : Template) (n k : Nat) : Nat := n / (t.ext.take k).foldl (· * ·) 1 % max (t.ext.getD k 1) 1

def Template.inRange (t : Template) (n : Nat) : Bool := decide (t.index n 0 < t.valid0) && decide (t.index n 1 < t.valid1)

/-- Linear indices of the in-range elements. -/
def Template.live (t : Template) : List Nat := (List.range t.total).filter t.inRange

def Template.offset (t : Template) (strides : List Int) (n : Nat) : Int :=
  ((List.range t.dims).map fun k => (t.index n k : Int) * strides.getD k 0).sum

def addrMod (x : Int) : Nat := (x % 2 ^ 64).toNat

def Template.src (t : Template) (base n : Nat) : Nat := addrMod (base + t.offset t.sstride n)

def isLocal (a : Nat) : Bool := a / 2 ^ 60 = 1

def Template.dst (t : Template) (base n : Nat) : Nat :=
  let a := addrMod (base + t.offset t.dstride n)
  if t.tag = 0x20 && isLocal a then swz a else a

/-- The plane bits of an element: byte address and bit, plane by plane (R284). -/
def Template.planeBits (t : Template) (base n : Nat) : List (Nat × Nat) :=
  let i0 := t.index n 0
  (List.range t.planes).map fun p =>
    (planeAt base (t.ext.getD 1 1) (t.ext.getD 0 16 / 16) p (t.index n 1) (i0 / 16) + i0 % 16 / 8, i0 % 8)

/-- The destination addresses of bytes an element writes. -/
def Template.bytes (t : Template) (base n : Nat) : List Nat :=
  if t.xform = 0 then (List.range t.esize).map (t.dst base n + ·) else (t.planeBits base n).map (·.1)

/-- The sectors an element writes (R286). -/
def Template.sectors (t : Template) (base n : Nat) : List Nat := ((t.bytes base n).map (· / 32)).eraseDups

def Template.sectorSet (t : Template) (base : Nat) : List Nat := (t.live.flatMap (t.sectors base)).eraseDups

/-! ### Checks at issue (R280, R296) -/

/-- Must-be-zero bits of a pointer (R65). -/
def mbzOk (a : Nat) : Bool :=
  match a / 2 ^ 60 with
  | 0 => a / 2 ^ 56 = 0
  | 1 => a % 2 ^ 60 / 2 ^ 20 = 0
  | 2 => a % 2 ^ 60 / 2 ^ 28 = 0
  | _ => false

/-- The least and the greatest in-range address of one side, modulo 2^64. -/
def Template.ends (t : Template) (base : Nat) (strides : List Int) : List Nat :=
  let v (k : Nat) : Int := (match k with
    | 0 => t.valid0
    | 1 => t.valid1
    | _ => t.ext.getD k 1 : Nat) - 1
  let lo := ((List.range t.dims).map fun k => min 0 (v k * strides.getD k 0)).sum
  let hi := ((List.range t.dims).map fun k => max 0 (v k * strides.getD k 0)).sum
  [addrMod (base + lo), addrMod (base + hi)]

def maxOf (l : List Nat) : Nat := l.foldl max 0
def minOf (l : List Nat) : Nat := match l with
  | [] => 0
  | x :: r => r.foldl min x

/-- Least and greatest byte of local-store source and destination meet; a transform's destination counts whole plane words of
16 bits (R296). -/
def Template.meets (t : Template) (src dst : Nat) : Bool :=
  let ss := t.live.map (t.src src)
  let ds := t.live.flatMap (t.bytes dst)
  let (lo, hi) := if t.xform = 0 then (minOf ds, maxOf ds) else (minOf ds / 2 * 2, maxOf ds / 2 * 2 + 1)
  isLocal src && isLocal dst && t.live ≠ [] && decide (minOf ss ≤ hi) && decide (lo < maxOf ss + t.esize)

/-- OWNER of an `.own` command with a global destination (R280, check 7). -/
def ownerOk (o : BitVec 32) (pkg : Nat) : Bool := (oKind o = 0 || oKind o = 2) && oPkg o = pkg && o.toNat % 16 = 0

/-- The checks of R280 in their order; the template they accept. -/
def State.copyCheck (s : State) (blk : Block) (follow own : Bool) (dval src dst : Nat) : Except Fail Template :=
  match blk.tmpls.get? (dval % 64) with
  | none => .error (cFormat, 0, 0x40)
  | some t =>
    let info (k : AccessKind) (code : Nat) : Nat := (faultInfo k 127 code).toNat
    let okAp (a : Nat) : Bool := decide (a / 2 ^ 60 ≤ 2)
    let ends := if t.xform = 0 then t.ends dst t.dstride else [dst, maxOf ((t.live).flatMap (t.bytes dst))]
    let inside (base : Nat) (a : Nat) : Bool := a / 2 ^ 60 = base / 2 ^ 60 && mbzOk a
    let mult (x : Int) : Bool := x % (t.esize : Int) = 0
    let strides (l : List Int) : Bool := (List.range t.dims).all fun k => mult (l.getD k 0)
    let next := dval / 2 ^ 16 % 2 ^ 16 * 32
    let within' (as : List Nat) (n : Nat) : Bool := as.all fun a => decide (a % 2 ^ 60 + n ≤ blk.usable)
    match firstFail [(decide (dval / 2 ^ 6 % 2 ^ 10 < blk.barCount), (cLocalBounds, 0, 1)),
        (okAp src, (cAccessFault, src, info .barrowSrc 6)), (okAp dst, (cAccessFault, dst, info .barrowDst 6)),
        (t.xform = 0 || isLocal dst, (cFormat, dst, 6))] with
    | some f => .error f
    | none =>
      if t.live = [] then .ok t
      else match firstFail [((t.ends src t.sstride).all (inside src), (cAccessFault, src, info .barrowSrc 7)),
          (ends.all (inside dst), (cAccessFault, dst, info .barrowDst 7)),
          (src % t.esize = 0 && strides t.sstride, (cMisaligned, src, 0)),
          (if t.xform = 0 then dst % t.esize = 0 && strides t.dstride else dst % 2 = 0, (cMisaligned, dst, 0)),
          (!isLocal src || within' (t.live.map (t.src src)) t.esize, (cLocalBounds, src, 3)),
          (!isLocal dst || within' (t.live.flatMap (t.bytes dst)) 1, (cLocalBounds, dst, 3)),
          (!follow || decide (next < blk.usable), (cLocalBounds, dst, 3)),
          (!own || dst / 2 ^ 60 ≠ 0 || ownerOk (BitVec.ofNat 32 (dval / 2 ^ 32)) s.pkg, (cAccessFault, dst, info .barrowDst 5)),
          (!t.meets src dst || (t.dims = 1 && t.xform = 0), (cOverlap, dst, 0))] with
        | some f => .error f
        | none => .ok t

/-! ### Entering the engine (R275, R281, R285, R294) -/

/-- The list a follow-on block is (R294). -/
def followList (o : Nat) (pc : Word) (seq : Nat) : EList := ⟨o, o, none, 0, 0, false, none, pc, seq⟩

/-- A command whose checks passed enters the engine; its pages take their tag. A `copy` without a sector is complete. -/
def State.enterCopy (s : State) (u : Nat) (t : Template) (word : W32) (dval src dst : Nat) (follow own : Bool) (granule : Nat)
    (fromList : Bool) (seq : Nat) (pc : Word) : State :=
  let th := s.thread u
  let s := if isLocal dst then s.modBlock th.blk fun b => b.setTags t.tag ((t.live.flatMap (t.bytes dst)).map (· % 2 ^ 60)) else s
  let secs := t.sectorSet dst
  let next := dval / 2 ^ 16 % 2 ^ 16 * 32
  if secs = [] && !follow then s
  else
    let c : BarCmd := { id := s.nextUid, thr := u, blk := th.blk, ctx := th.ctx, seq := seq, pc := pc, word := word
                        dval := dval, own := own && dst / 2 ^ 60 = 0, granule := granule, src := src, dst := dst
                        owner := BitVec.ofNat 32 (dval / 2 ^ 32), follow := if follow then some next else none
                        bar := dval / 2 ^ 6 % 2 ^ 10, tmpl := t, fromList := fromList, sectors := secs.map fun x => (x, .waiting)
                        next := 0, staged := [], skip := [], whole := t.meets src dst, suspended := none, held := [], ask := none, told := false
                        followList := if secs = [] && follow then some (followList next pc seq) else none }
    { s.modCore th.core fun x => { x with barrow := x.barrow ++ [c] } with nextUid := s.nextUid + 1 }

/-- `copy` and `copym` (R279): a full engine stalls them at issue. -/
def State.copyIssue (s : State) (w : W32) (follow own : Bool) (g : Nat) (d a b : Reg) : Res :=
  s.guarded w fun s =>
    if 64 ≤ (s.core s.th.core).barrow.length then .next (s.waitAt .counter)
    else match s.copyCheck s.blk follow own (s.sget d).toNat (s.sget a).toNat (s.sget b).toNat with
      | .error f => s.failWith f
      | .ok t => .next (s.enterCopy s.th.uid t w (s.sget d).toNat (s.sget a).toNat (s.sget b).toNat follow own g false s.th.seq s.th.pc).adv

/-! ### The commands of a core -/

def State.barCmd (s : State) (core id : Nat) : Option BarCmd := (s.core core).barrow.find? fun c => c.id = id

def State.setBarCmd (s : State) (core : Nat) (c : BarCmd) : State :=
  s.modCore core fun x => { x with barrow := x.barrow.map fun y => if y.id = c.id then c else y }

def State.modBarCmd (s : State) (core id : Nat) (f : BarCmd → BarCmd) : State :=
  s.modCore core fun x => { x with barrow := x.barrow.map fun y => if y.id = id then f y else y }

def State.dropBarCmd (s : State) (core id : Nat) : State := s.modCore core fun x => { x with barrow := x.barrow.filter fun y => y.id ≠ id }

/-- Every earlier access of the wave is performed (R281). -/
def State.barReady (s : State) (c : BarCmd) : Bool :=
  (s.thread c.thr).out.all fun a => decide (c.seq ≤ a.seq) || a.ctr = .mx || a.kind = .record || a.finished

def BarCmd.setSector (c : BarCmd) (sec : Nat) (p : SectorPhase) : BarCmd :=
  { c with sectors := c.sectors.map fun x => if x.1 = sec then (sec, p) else x }

def BarCmd.phaseOf (c : BarCmd) (sec : Nat) : Option SectorPhase := (c.sectors.find? fun x => x.1 = sec).map (·.2)

/-- A deferred cause of a copy: taken at the wave's next `rel` or `exit` (R289). -/
def State.barPend (s : State) (c : BarCmd) (cause va : Nat) (info : Word) : State :=
  s.modThread c.thr fun t => { t with pending := t.pending ++ [⟨c.seq, .fence, 2 ^ 64, cause, c.pc, BitVec.ofNat 64 va, info, none, false, false⟩] }

/-- A race that an element of a command meets (R88, R289): of several the wave takes the first. -/
def State.barRace (s : State) (c : BarCmd) (cause va need found : Nat) (o : BitVec 32) : State :=
  s.barPend c cause va (BitVec.ofNat 64 (127 + need * 2 ^ 8 + found * 2 ^ 11 + o.toNat * 2 ^ 32))

/-! ### Writing (R286, R289) -/

/-- How one piece of a command's work ended. -/
inductive BarStep where
  | ok
  | wait
  /-- A translation fault (R298): destination side, address, cause, code. -/
  | fault (dst : Bool) (addr cause code : Nat)
  | abort
  deriving DecidableEq, Repr

def isBarFault (cause code : Nat) : Bool := cause = 4 || (cause = 5 && (code = 11 || code = 13))

/-- Staged bytes of a command by key. -/
def BarCmd.stagedIn (c : BarCmd) (p : Nat → Bool) : List (Nat × Byte) := c.staged.filter fun x => p x.1

/-- The place a started element was translated to, found by any byte it writes (R373). -/
def BarCmd.heldAt (c : BarCmd) (k : Nat) : Option Place := c.held.get? (k - k % c.tmpl.esize)

/-- A place's aligned word. -/
def Place.word : Place → Place
  | .mem pa r => .mem (pa - pa % 4) r
  | .loc o => .loc (o - o % 4)
  | .seed o => .seed (o - o % 4)
  | .host i a => .host i (a - a % 4)
  | .remote g o r => .remote g (o - o % 4) r

/-- Bytes of one destination word that elements of one translation write: those that go with byte a. -/
def BarCmd.withByte (c : BarCmd) (a k : Nat) : Bool := k / 4 = a / 4 && (c.heldAt k).map Place.word = (c.heldAt a).map Place.word

def State.unstage (s : State) (core id : Nat) (p : Nat → Bool) : State :=
  s.modBarCmd core id fun c => { c with staged := c.staged.filter fun x => !p x.1 }

/-- The staged plane bits of some bytes, written into local store word by word (R284); one that leaves part of a poisoned word
is not performed (R392). -/
def State.writeBits (s : State) (core : Nat) (c : BarCmd) (p : Nat → Bool) : State :=
  let xs := c.stagedIn fun k => p (k / 8)
  let words := (xs.map fun x => x.1 / 32).eraseDups
  (words.foldl (fun s w =>
    let o := 4 * w % 2 ^ 60
    let ys := xs.filter fun x => x.1 / 32 = w
    let s := if ys.length = 32 then s.coverLocal c.blk o 4 else s.readLocal c.blk o 4
    if ys.length < 32 && (s.block c.blk).lsBad o 4 then s.barPend c cUeConsumed (4 * w) 0
    else
      let v := ys.foldl (fun v x => if x.2 = 1 then v ||| 2 ^ (x.1 % 32) else v &&& (2 ^ 32 - 1 - 2 ^ (x.1 % 32))) ((s.block c.blk).lsRead o 4)
      s.modBlock c.blk fun b =>
        if ys.length = 32 then b.lsWrite o 4 v
        else (ys.map fun x => x.1 / 8).eraseDups.foldl (fun b a => b.lsWrite (a % 2 ^ 60) 1 (v / 2 ^ (8 * (a % 4)) % 256)) b) s).unstage core c.id
    fun k => p (k / 8)

/-- The address of the element that wrote the first of some staged bytes. -/
def BarCmd.elemOf (c : BarCmd) (bs : List (Nat × Byte)) (wa : Nat) : Nat := (bs.headD (wa, 0)).1 / c.tmpl.esize * c.tmpl.esize

/-- The staged bytes of one aligned word go to memory as l1 stores of the block (R289). -/
def State.writeWordAs (s : State) (c : BarCmd) (pa region wa : Nat) (bs : List (Nat × Byte)) : State :=
  let s := s.readLine (pa / 4)
  let p := s.who (s.thread c.thr)
  let pieces := if bs.length = 4 then [(0, 4, leNat (bs.map (·.2)))] else bs.map fun x => (x.1 - wa, 1, x.2.toNat)
  let r := pieces.foldl (fun (acc : State × WordRes) (q : Nat × Nat × Nat) => match acc.2 with
    | .ok _ => acc.1.storeWord p c.thr .l1 (pa / 4) region q.1 q.2.1 q.2.2
    | _ => acc) (s, .ok 0)
  if (s.thread c.thr).life = .stopped then s else match r with
  | (s, .ok _) => s
  | (s, .nak need found o) => s.barRace c 7 (c.elemOf bs wa) need found o
  | (s, .bad) => s.barPend c cUeConsumed wa 0

/-- What the answer to bytes sent to another package leaves its wave (R289, R392); a refusal leaves nothing (R369). -/
def State.sentEnds (s : State) (c : BarCmd) (p : Part) : State :=
  let a := p.va / c.tmpl.esize * c.tmpl.esize
  match p.phase with
  | .nak need found y => s.barRace c 7 a need found y
  | .poisoned => s.barPend c cUeConsumed a 0
  | _ => s

/-- The first run of some bytes, which follow each other. -/
def firstRun (bs : List (Nat × Byte)) : List Byte :=
  let a := (bs.headD (0, 0)).1
  ((bs.zip (List.range bs.length)).filter fun x => x.1.1 = a + x.2).map (·.1.2)

/-- A packet with bytes of one word for another package. -/
def State.sendRun (s : State) (core : Nat) (c : BarCmd) (pkg o region wa : Nat) (bs : List (Nat × Byte)) : State :=
  let a := (bs.headD (wa, 0)).1
  if !s.canSend pkg 1 then s
  else match s.sendPacket pkg c.ctx (s.ownerOf (s.thread c.thr)) c.pc (o + (a - wa)) (.store (firstRun bs)) none (s.ctx c.ctx).phase with
    | (s, q) => s.modBarCmd core c.id fun c => { c with ask := some ⟨127, a, .remote pkg o region, (firstRun bs).length, 1, 0, 0, .sent pkg q⟩ }

/-- Bytes of a word sent to another package: one packet of a command at a time, and its answer; that of another word is taken first. -/
def State.sendBytes (s : State) (core : Nat) (c : BarCmd) (pkg o region wa : Nat) (bs : List (Nat × Byte)) : State × BarStep :=
  match c.ask with
  | some p =>
    if p.off = 1 && p.phase.final then
      let s := ((s.sentEnds c p).modBarCmd core c.id fun c => { c with ask := none }).unstage core c.id fun k =>
        decide (p.va ≤ k) && decide (k < p.va + p.n)
      if p.va / 4 = wa / 4 then (s, .ok) else (s.sendRun core c pkg o region wa bs, .wait)
    else (s, .wait)
  | none => (s.sendRun core c pkg o region wa bs, .wait)

/-- The place of a destination byte: the one its element was translated to. -/
def State.destPlace (s : State) (c : BarCmd) (a : Nat) : State × Except BarStep Place :=
  match c.heldAt a with
  | some pl => (s, .ok pl)
  | none => match s.reach (s.thread c.thr) .barrowDst none a 1 with
    | (s, .ok pl) => (s, .ok pl)
    | (s, .error .stall) => (s, .error .wait)
    | (s, .error (.trap cause code)) => (s, .error (if isBarFault cause code then .fault true a cause code else .abort))

/-- Write what is staged of one aligned destination word, under one translation. -/
def State.writeStagedWord (s : State) (core id wa : Nat) : State × BarStep :=
  match s.barCmd core id with
  | none => (s, .ok)
  | some c =>
    match c.stagedIn fun k => k / 4 = wa / 4 with
    | [] => (s, .ok)
    | (a, _) :: _ =>
      let bs := c.stagedIn (c.withByte a)
      let gone (s : State) : State × BarStep := (s.unstage core id (c.withByte a), .ok)
      match s.destPlace c a with
      | (s, .error e) => (s, e)
      | (s, .ok pl) => if !s.placeReady core c.thr pl.word 4 then (s, .wait) else match pl.word with
        | .mem pa r => gone (s.writeWordAs c pa r wa bs)
        | .loc o =>
          let s := if bs.length = 4 then s.coverLocal c.blk o 4 else s.readLocal c.blk o 4
          if bs.length < 4 && (s.block c.blk).lsBad o 1 then gone (s.barPend c cUeConsumed a 0)
          else gone (s.modBlock c.blk fun b => if bs.length = 4 then b.lsWrite o 4 (leNat (bs.map (·.2)))
            else bs.foldl (fun b x => b.lsWrite (o + x.1 % 4) 1 x.2.toNat) b)
        | .seed o => if s.seedBad o then gone (s.barPend c cUeConsumed a 0)
          else gone ((bs.foldl (fun s x => s.seedWrite (o + x.1 % 4) 1 x.2.toNat) s).touchDie c.ctx (o / 2 ^ 26))
        | .host i h => gone (bs.foldl (fun s x => s.hostSet c.ctx i (h + x.1 % 4) 1 x.2.toNat) s)
        | .remote pkg o r => s.sendBytes core c pkg o r wa bs

/-- Write what is staged of some words, in order, until one cannot be. -/
def State.writeWords (s : State) (core id : Nat) : List Nat → State × BarStep
  | [] => (s, .ok)
  | wa :: rest => match s.writeStagedWord core id wa with
    | (s, .ok) => s.writeWords core id rest
    | r => r

/-- The aligned words of a sector. -/
def sectorWords (sec : Nat) : List Nat := (List.range 8).map fun i => 32 * sec + 4 * i

/-- The words of a sector, each as often as elements of different translations can lie in it. -/
def Template.wordTurns (t : Template) (sec : Nat) : List Nat := (sectorWords sec).flatMap fun w => List.replicate (4 / max t.esize 1) w

/-- Write what is staged of a sector. -/
def State.writeSector (s : State) (core : Nat) (c : BarCmd) (sec : Nat) : State × BarStep :=
  if c.tmpl.xform = 0 then s.writeWords core c.id (c.tmpl.wordTurns sec)
  else (s.writeBits core c fun a => a / 32 = sec, .ok)

/-! ### The transfer of `.own` (R291 to R293) -/

def State.engineId (s : State) (core : Nat) : BitVec 32 := mkOwner 1 s.pkg (dieOf core) (core % 128) 0

/-- The receiver accepts (R293): a resident block of the context in OWNER's slot, or a Frailor core of the context. -/
def State.accepts (s : State) (o : BitVec 32) (ctx : Nat) : Bool :=
  if oKind o = 2 then (s.thread (oCore o)).ctx = ctx
  else s.blocks.vals.any fun b => b.resident && b.core = oCore o && b.slot = oSlot o && b.ctx = ctx && decide (b.waves ≠ [])

/-- REG-XFER of one word with its staged bytes (R292, steps 1 to 3): the issuing block keeps no copy. -/
def State.xferWord (s : State) (core : Nat) (c : BarCmd) (pa region wa : Nat) (bs : List (Nat × Byte)) : State :=
  let w := pa / 4
  let x := s.ownerOf (s.thread c.thr)
  let s := s.homeLine c.ctx w
  if (s.thread c.thr).life = .stopped then s else match s.raceCheck x w with
  | some (need, found, y) => (s.logRace x w 7 need found y).barRace c 7 (c.elemOf bs wa) need found y
  | none =>
    if s.wordBad w && decide (bs.length < 4) then s.barPend c cUeConsumed wa 0
    else
      let v := bs.foldl (fun v q => mergeWord v (q.1 - wa) 1 q.2.toNat) (s.homeVal w)
      let s := s.giveUp w
      let s := s.modCore core fun k => { k with l1 := k.l1.erase w }
      if s.accepts c.owner c.ctx then
        let s := { s with home := s.home.set w (.registered (s.engineId core)), memPoison := s.memPoison.erase w }.wakeWord w
        s.l1Put (oCore c.owner) c.thr w ⟨true, v, oSlot c.owner, 0, region, false⟩
      else s.writeHome w v c.ctx

/-- REG-XFER of some words of a sector. -/
def State.xferWords (s : State) (core id : Nat) : List Nat → State × BarStep
  | [] => (s, .ok)
  | wa :: rest =>
    match s.barCmd core id with
    | none => (s, .ok)
    | some c =>
      match c.stagedIn fun k => k / 4 = wa / 4 with
      | [] => s.xferWords core id rest
      | (a, _) :: _ => match s.destPlace c a with
        | (s, .error e) => (s, e)
        | (s, .ok pl) => if !s.placeReady core c.thr pl.word 4 then (s, .wait) else match pl.word with
          | .mem pa r =>
            ((s.xferWord core c pa r wa (c.stagedIn (c.withByte a))).unstage core id (c.withByte a)).xferWords core id rest
          | _ => match s.writeStagedWord core id wa with
            | (s, .ok) => s.xferWords core id rest
            | r => r

/-- Package memory words of a sector that the command holds places of. -/
def BarCmd.heldWords (c : BarCmd) (sec : Nat) : List Nat := (c.held.filterMap fun x =>
  if x.1 / 32 ≠ sec then none
  else match x.2 with
    | .mem pa _ => some (pa / 4)
    | _ => none).eraseDups

/-- One record of a refused transfer, with the sector's home address and OWNER (R293). -/
def State.logRefused (s : State) (c : BarCmd) (w : Nat) : State := s.logCtx c.ctx 0x04 (w / 8 * 32) c.owner.toNat

/-- REG-XFER of what is staged of a sector (R292, steps 1 to 3). -/
def State.xferSector (s : State) (core : Nat) (c : BarCmd) (sec : Nat) : State × BarStep :=
  let ws := c.heldWords sec
  let moved := (c.stagedIn fun k => k / 32 = sec) ≠ []
  match s.xferWords core c.id (c.tmpl.wordTurns sec) with
  | (s, r) => (if moved && !ws.isEmpty && !s.accepts c.owner c.ctx then s.logRefused c (ws.headD 0) else s, r)

/-- REG-ACK (R292, step 4): the engine's words in the receiver's L1 become the receiver's, or go home (R293). -/
def State.ackWords (s : State) (core : Nat) (c : BarCmd) (sec : Nat) : State :=
  let e := s.engineId core
  let ws := (c.heldWords sec).filter fun w => s.home.get? w = some (.registered e)
  if s.accepts c.owner c.ctx then
    ws.foldl (fun s w => { s with home := s.home.set w (.registered c.owner) }) s
  else if ws.isEmpty then s
  else (ws.foldl (fun s w => s.writeBack w false) s).logRefused c (ws.headD 0)

/-! ### Reading elements (R282, R289) -/

/-- A remote source element (R369): its packet, or its answer. -/
def State.askElem (s : State) (core : Nat) (c : BarCmd) (pkg o region a : Nat) : State × Except BarStep (Option Nat) :=
  match c.ask with
  | some p =>
    if p.off = 0 && p.va = a && (p.phase.final || (match p.phase with
        | .got _ => true
        | _ => false)) then
      let s := s.modBarCmd core c.id fun c => { c with ask := none }
      match p.phase with
      | .got v => (s, .ok (some v))
      | .nak need found y => (s.barRace c 6 a need found y, .ok none)
      | .refused => (s.barPend c cAccessFault a (faultInfo .barrowSrc 127 18), .ok none)
      | .poisoned => (s, .error .abort)
      | _ => (s, .ok none)
    else (s, .error .wait)
  | none =>
    if !s.canSend pkg 1 then (s, .error .wait)
    else match s.sendPacket pkg c.ctx (s.ownerOf (s.thread c.thr)) c.pc o (.load c.tmpl.esize) none (s.ctx c.ctx).phase with
    | (s, q) => (s.modBarCmd core c.id fun c => { c with ask := some ⟨127, a, .remote pkg o region, c.tmpl.esize, 0, 0, 0, .sent pkg q⟩ }, .error .wait)

/-- The value of a source element; none: it met a race or a refusal and is not performed. -/
def State.readElem (s : State) (core : Nat) (c : BarCmd) (a : Nat) (pl : Place) : State × Except BarStep (Option Nat) :=
  let n := c.tmpl.esize
  if !s.placeReady core c.thr pl n then (s, .error .wait) else match pl with
  | .mem pa _ =>
    let s := s.readLine (pa / 4)
    if (s.thread c.thr).life = .stopped then (s, .error .wait)
    else match s.loadHome (s.who (s.thread c.thr)) (pa / 4) with
    | (s, .ok v) => (s, .ok (some (subWord v (pa % 4) n)))
    | (s, .nak need found o) => (s.barRace c 6 a need found o, .ok none)
    | (s, .bad) => (s, .error .abort)
  | .loc o =>
    let s := s.readLocal c.blk o n
    if (s.block c.blk).lsBad o n then (s, .error .abort) else (s, .ok (some ((s.block c.blk).lsRead o n)))
  | .seed o => if s.seedBad o then (s, .error .abort) else (s.touchDie c.ctx (o / 2 ^ 26), .ok (some (s.seedRead o n)))
  | .host i h => (s.touchDie c.ctx i, .ok (some (s.hostGet i h n)))
  | .remote pkg o r => s.askElem core c pkg o r a

/-- What an element's value stages: bytes by address, or plane bits. -/
def BarCmd.stage (c : BarCmd) (n v : Nat) : BarCmd :=
  if c.tmpl.xform = 0 then
    { c with staged := ((List.range c.tmpl.esize).foldl (fun m i => m.set (c.tmpl.dst c.dst n + i) (BitVec.ofNat 8 (v / 2 ^ (8 * i)))) c.staged) }
  else
    { c with staged := (((c.tmpl.planeBits c.dst n).zip (List.range c.tmpl.planes)).foldl (fun m (q : (Nat × Nat) × Nat) =>
        m.set (8 * q.1.1 + q.1.2) (if v / 2 ^ (c.tmpl.planes - 1 - q.2) % 2 = 1 then 1 else 0)) c.staged) }

/-- `pgres` EMULATED treats the element as performed (R298). -/
def BarCmd.skips (c : BarCmd) (n : Nat) : Bool := c.skip.any fun x =>
  let a := if x.1 then (c.tmpl.bytes c.dst n).headD 0 else c.tmpl.src c.src n
  decide (x.2.1 ≤ a) && decide (a < x.2.1 + x.2.2)

/-- The checks of one address of an element when it starts (R298). -/
def State.elemReach (s : State) (c : BarCmd) (k : AccessKind) (dstSide : Bool) (a n : Nat) : State × Except BarStep Place :=
  match s.reach (s.thread c.thr) k none a n with
  | (s, .ok pl) => (s, .ok pl)
  | (s, .error .stall) => (s, .error .wait)
  | (s, .error (.trap cause code)) => (s, .error (if isBarFault cause code then .fault dstSide a cause code else .abort))

/-- A started element keeps the place of its destination (R373); apertures without translation need none kept. -/
def BarCmd.holds (c : BarCmd) (d : Nat) (pl : Place) : BarCmd := if d / 2 ^ 60 = 0 then { c with held := c.held.set d pl } else c

/-- The command has asked another package for the source element at an address: its places are settled (R373). -/
def BarCmd.asked (c : BarCmd) (a : Nat) : Option (Nat × Nat × Nat) := c.ask.bind fun p => match p.place with
  | .remote g o r => if p.off = 0 && p.va = a then some (g, o, r) else none
  | _ => none

/-- The next element starts: its addresses are translated, its source is read, its bytes are staged. -/
def State.startElem (s : State) (core : Nat) (c : BarCmd) : State × BarStep :=
  let n := c.next
  let step (s : State) (f : BarCmd → BarCmd) : State × BarStep := (s.modBarCmd core c.id fun x => { f x with next := n + 1 }, .ok)
  if !c.tmpl.inRange n || c.skips n then step s id
  else
    let src := c.tmpl.src c.src n
    let (d, m) := if c.tmpl.xform = 0 then (c.tmpl.dst c.dst n, c.tmpl.esize) else ((c.tmpl.bytes c.dst n).headD 0, 1)
    match c.asked src with
    | some (g, o, r) => (match s.askElem core c g o r src with
      | (s, .error e) => (s, e)
      | (s, .ok none) => step s id
      | (s, .ok (some v)) => step s fun x => x.stage n v)
    | none => match s.elemReach c .barrowDst true d m with
      | (s, .error e) => (s, e)
      | (s, .ok dp) => match s.elemReach c .barrowSrc false src c.tmpl.esize with
        | (s, .error e) => (s, e)
        | (s, .ok pl) => match s.readElem core c src pl with
          | (s, .error e) => (if pl.pkg.isSome then s.modBarCmd core c.id fun x => x.holds d dp else s, e)
          | (s, .ok none) => step s id
          | (s, .ok (some v)) => step s fun x => (x.holds d dp).stage n v

/-- Start up to k elements in linear order. -/
def State.startElems (s : State) (core id : Nat) : Nat → State × BarStep
  | 0 => (s, .ok)
  | k + 1 => match s.barCmd core id with
    | none => (s, .ok)
    | some c => match s.startElem core c with
      | (s, .ok) => s.startElems core id k
      | r => r

/-! ### Suspension and abort (R287, R298, R299) -/

/-- An abort: no further sector counts, and the barrier's STATUS becomes ABANDONED (R287). -/
def State.barAbort (s : State) (core id : Nat) : State :=
  match s.barCmd core id with
  | none => s
  | some c =>
    let s := (c.sectors.filter fun x => x.2 == .transferring).foldl (fun s x => s.ackWords core c x.1) s
    let b := (s.block c.blk).bar c.bar
    (s.setBar c.blk c.bar { b with status := if b.status = 0 then 1 else b.status }).dropBarCmd core id

/-- One more than the last linear index that must start before a sector can be written. -/
def BarCmd.until (c : BarCmd) (sec : Nat) : Nat :=
  if c.whole then c.tmpl.total
  else (c.tmpl.live.filter fun n => (c.tmpl.sectors c.dst n).contains sec).foldl (fun m n => max m (n + 1)) 0

/-- A sector whose last write is complete counts (R286, R298, R300). -/
def State.countDone (s : State) (core id sec : Nat) : State :=
  match s.barCmd core id with
  | none => s
  | some c =>
    if c.phaseOf sec == some .delivered || decide (c.next < c.until sec) ||
      (c.staged.any fun x => (if c.tmpl.xform = 0 then x.1 else x.1 / 8) / 32 = sec) then s
    else (s.setBarCmd core (c.setSector sec .delivered)).countBar c.blk c.bar

/-- A planted CRC error of TARGET 3 (R404, R405): whether this core's next sector meets one, and of which kind. -/
def State.crcPlant (s : State) (core : Nat) : Option Bool :=
  match s.err.plant with
  | some p => if p.target = 3 && p.addr / 2 ^ 20 % 2 ^ 9 = core then some p.ue else none
  | none => none

/-- The end-to-end CRC of a sector (R299): a planted error is met, and a second mismatch in a row aborts the command; none: the
sector may be written. -/
def State.sectorCrc (s : State) (core : Nat) (c : BarCmd) (sec crcBad : Nat) : State × Bool :=
  let bad := if s.crcPlant core = some true then 2 else crcBad
  let s := if (s.crcPlant core).isSome then s.setErr fun e => { e with status := 2, plant := none } else s
  if 2 ≤ bad then ((s.logCtx c.ctx 0x05 (32 * sec) (s.ownerOf (s.thread c.thr)).toNat).barAbort core c.id, false) else (s, true)

/-- Bytes of a sector wait to be written. -/
def BarCmd.stages (c : BarCmd) (sec : Nat) : Bool := c.staged.any fun x => (if c.tmpl.xform = 0 then x.1 else x.1 / 8) / 32 = sec

/-- What is staged of one sector goes out, if its CRC is right (R299), and the sector counts if it is complete. -/
def State.flushSector (s : State) (core id sec : Nat) : State :=
  match s.barCmd core id with
  | none => s
  | some c => match (if c.stages sec then s.sectorCrc core c sec 0 else (s, true)) with
    | (s, false) => s
    | (s, true) => (if c.own then ((s.xferSector core c sec).1).ackWords core c sec else (s.writeSector core c sec).1).countDone core id sec

/-- Every element before a point is written and the sectors thereby complete count (R298, R300): staged bytes go out as far as
they can. A copy that must read every source element first writes nothing before it has (R296; DESIGN CHOICE, log 82). -/
def State.barFlush (s : State) (core id : Nat) : State :=
  match s.barCmd core id with
  | none => s
  | some c => if c.whole && decide (c.next < c.tmpl.total) then s
    else c.sectors.foldl (fun s x => s.flushSector core id x.1) s

/-- Nothing of a copy is under way; what a copy that reads its whole source first has read waits with it (R296). -/
def BarCmd.rests (c : BarCmd) : Bool :=
  (c.staged = [] || (c.whole && decide (c.next < c.tmpl.total))) && c.ask.isNone &&
    c.sectors.all fun x => !(x.2 == .transferring || x.2 == .acked)

/-- The fault at which a command is suspended is reported, once every element before it is written (R298, R375, R379). -/
def State.barReport (s : State) (core id : Nat) : State :=
  let s := s.barFlush core id
  match s.barCmd core id with
  | none => s
  | some c => match c.suspended with
    | none => s
    | some (dst, addr, cause, code) =>
      if c.told || !c.rests then s
      else
        let s := s.setBarCmd core { c with told := true }
        let t := s.thread c.thr
        let k : AccessKind := if dst then .barrowDst else .barrowSrc
        if isTranslation cause (faultInfo k 127 code) && !s.selfHandling t then
          s.faultRecord t (faultBytes cause k.code 1 t addr [] c.next c.pc c.word.toNat (c.dval % 2 ^ 32)) (some (core, id))
        else s.postAsync c.thr ⟨cause, BitVec.ofNat 64 addr, faultInfo k 127 code, some id⟩

/-- A translation fault suspends the command (R298). -/
def State.barSuspend (s : State) (core id : Nat) (dst : Bool) (addr cause code : Nat) : State :=
  (s.modBarCmd core id fun c => { c with suspended := some (dst, addr, cause, code), told := false }).barReport core id

/-- What follows a piece of work. -/
def State.barAfter (s : State) (core id : Nat) (e : BarStep) : State :=
  match e with
  | .fault dst addr cause code => s.barSuspend core id dst addr cause code
  | .abort => s.barAbort core id
  | _ => s

/-! ### Sectors (R286, R292, R299) -/

/-- Every sector is delivered: the command is over, or its follow-on block starts (R281, R294). -/
def State.barFinish (s : State) (core id : Nat) : State :=
  match s.barCmd core id with
  | none => s
  | some c =>
    if c.sectors.all fun x => x.2 == .delivered then
      match c.follow with
      | none => s.dropBarCmd core id
      | some o => if c.followList.isNone then s.setBarCmd core { c with followList := some (followList o c.pc c.seq) } else s
    else s

/-- A sector of a suspended command goes on only where all its elements have started (R298). -/
def BarCmd.opens (c : BarCmd) (sec : Nat) : Bool := c.suspended.isNone || decide (c.until sec ≤ c.next)

/-- SECTOR_DELIVERY (R286, R299): the sector's elements are started, written and counted. crcBad: CRC mismatches in a row; under
`.own` they come before the transfer, and what was transferred is only counted. -/
def State.deliver' (s : State) (core id sec crcBad : Nat) : State :=
  match s.barCmd core id with
  | none => s
  | some c =>
    match c.phaseOf sec with
    | none => s
    | some ph =>
      if !s.barReady c || !c.opens sec || ph == .delivered || ph == .transferring || (c.own && ph == .waiting && decide (crcBad < 2)) then s
      else match s.startElems core id (c.until sec - c.next) with
        | (s, .ok) =>
          match (if ph == .acked then (s, true) else s.sectorCrc core c sec crcBad) with
          | (s, false) => s
          | (s, true) => match (if c.own then (s, BarStep.ok) else match s.barCmd core id with
              | some c => s.writeSector core c sec
              | none => (s, .ok)) with
            | (s, .ok) =>
              let s := s.modBarCmd core id fun c => c.setSector sec .delivered
              (s.countBar c.blk c.bar).barFinish core id
            | (s, e) => s.barAfter core id e
        | (s, e) => s.barAfter core id e

/-- Sectors of a core's engine between the transfer and the count: at most 512 (R15, R275). -/
def State.inFlight (s : State) (core : Nat) : Nat :=
  (((s.core core).barrow.map fun c => (c.sectors.filter fun x => x.2 == .transferring || x.2 == .acked).length)).sum

/-- REG_XFER (R292, steps 1 to 3). -/
def State.regXfer (s : State) (core id sec : Nat) : State :=
  match s.barCmd core id with
  | none => s
  | some c =>
    if !s.barReady c || !c.opens sec || !c.own || !(c.phaseOf sec == some .waiting) || decide (512 ≤ s.inFlight core) then s
    else match s.startElems core id (c.until sec - c.next) with
      | (s, .ok) => match s.sectorCrc core c sec 0 with
        | (s, false) => s
        | (s, true) => match s.barCmd core id with
          | none => s
          | some c => match s.xferSector core c sec with
            | (s, .ok) => s.modBarCmd core id fun c => c.setSector sec .transferring
            | (s, e) => s.barAfter core id e
      | (s, e) => s.barAfter core id e

/-- REG_ACK (R292, step 4). -/
def State.regAck (s : State) (core id sec : Nat) : State :=
  match s.barCmd core id with
  | none => s
  | some c =>
    if c.phaseOf sec == some .transferring then
      (s.ackWords core c sec).modBarCmd core id fun c => c.setSector sec .acked
    else s

/-- The next step of a command, chosen by the model where the manual leaves the order open (log 3). -/
def State.barNext (s : State) (core : Nat) (c : BarCmd) : State :=
  if c.suspended.isSome && !c.told then s.barReport core c.id else match c.sectors.find? fun x => !(x.2 == .delivered) && c.opens x.1 with
  | none => s.barFinish core c.id
  | some (sec, ph) =>
    if c.own then (match ph with
      | .waiting => s.regXfer core c.id sec
      | .transferring => s.regAck core c.id sec
      | _ => s.deliver' core c.id sec 0)
    else s.deliver' core c.id sec 0

/-- BARROW_TRANSLATION_FAULT (R298): the next element faults, and the command is suspended there. -/
def State.barFaultNow (s : State) (core id : Nat) : State :=
  match s.barCmd core id with
  | none => s
  | some c =>
    if !s.barReady c || c.suspended.isSome || decide (c.tmpl.total ≤ c.next) then s
    else match s.startElem core c with
      | (s', .fault dst addr cause code) => s'.barSuspend core id dst addr cause code
      | _ => s

/-- FOLLOW_ON_END (R294, R295): the block ended, or trapped; its arrival is counted and the command is over. -/
def State.followEnd (s : State) (core id : Nat) : State :=
  match s.barCmd core id with
  | none => s
  | some c => match c.followList with
    | none => s
    | some l =>
      if (s.core core).latq.any fun x => x.list = some (.follow id) then s
      else match l.trap with
        | some (cause, a, i) =>
          let s := s.modThread c.thr fun t => { t with pending := t.pending ++
            [⟨c.seq, .fence, 2 ^ 64, cause, c.pc, BitVec.ofNat 64 a, BitVec.ofNat 64 i, some c.bar, false, false⟩] }
          let s := s.countBar c.blk c.bar
          let b := (s.block c.blk).bar c.bar
          (s.setBar c.blk c.bar { b with status := if b.status = 0 then 1 else b.status }).dropBarCmd core id
        | none => if l.ended then (s.countBar c.blk c.bar).dropBarCmd core id else s

/-! ### Resolution of a suspended element (R271, R298) -/

/-- The size, as a power of two, of the page of the leaf at which a walk ends. -/
def State.leafBits (s : State) (va : Nat) : List (Nat × Nat × Nat) → Nat → Nat
  | [], _ => 16
  | (_, sh, n) :: rest, tbl =>
    match s.readEntry (tbl + 8 * (va / 2 ^ sh % 2 ^ n)) with
    | .stall => 16
    | .ask .. => 16
    | .entry e => if bits e 54 54 = 1 || e % 2 = 0 || bits e 53 52 ≠ 0 || bits e 7 1 ≠ 0 || rest = [] then sh
      else s.leafBits va rest (bits e 51 8 * 2 ^ 8)

/-- The range EMULATED treats as performed: the leaf's page, or the aligned 64 KiB (R298). -/
def State.faultRange (s : State) (ctx addr cause : Nat) : Nat × Nat :=
  let n := if cause = 4 then 16 else s.leafBits (addr % 2 ^ 56) levels (s.ctx ctx).ptroot
  (addr / 2 ^ n * 2 ^ n, 2 ^ n)

/-- What RETRY and EMULATED make of a suspended command. -/
def State.resumeCmd (s : State) (c : BarCmd) (emulated : Bool) : BarCmd :=
  match c.suspended with
  | none => c
  | some (dst, addr, cause, _) =>
    if !emulated then { c with suspended := none }
    else
      let r := s.faultRange c.ctx addr cause
      { c with
        suspended := none, skip := (dst, r.1, r.2) :: c.skip
        staged := if dst then c.staged.filter fun x => !(decide (r.1 ≤ x.1) && decide (x.1 < r.1 + r.2)) else c.staged }

/-- `pgres` on a command of a block that is saved (R298, R384). -/
def State.savedResolve (s : State) (id action : Nat) : State :=
  match s.blocks.vals.find? fun b => b.savedBar.any fun c => c.id = id && c.suspended.isSome with
  | none => s
  | some b =>
    if action = 2 then
      match b.savedBar.find? fun c => c.id = id with
      | some c =>
        let x := b.bar c.bar
        (s.setBar b.uid c.bar { x with status := if x.status = 0 then 1 else x.status }).modBlock b.uid fun b =>
          { b with savedBar := b.savedBar.filter fun y => y.id ≠ id }
      | none => s
    else if action = 3 then s
    else s.modBlock b.uid fun b => { b with savedBar := b.savedBar.map fun c => if c.id = id then s.resumeCmd c (action = 1) else c }

/-- `pgres` on a suspended command (R298): 0 RETRY, 1 EMULATED, 2 ABORT. -/
def State.barResolve (s : State) (core id action : Nat) : State :=
  match s.barCmd core id with
  | none => s.savedResolve id action
  | some c =>
    if c.suspended.isNone || !c.told || action = 3 then s
    else if action = 2 then s.barAbort core id
    else s.setBarCmd core (s.resumeCmd c (action = 1))

/-! ### Instructions -/

/-- ctld (R278). -/
def execCtld (a : Reg) (b : Reg) (s : State) : Res :=
  s.guarded (encRr 0x78 0 0 a b) fun s =>
    let p := s.src 0 a
    let n := s.src 1 b
    match ctldFault p.toNat with
    | some f => s.failWith f
    | none => s.withRecord p.toNat 8 [p, n] fun s bs => match templateFault bs with
      | some off => s.dropRecords.raise cFormat 0 (BitVec.ofNat 64 off)
      | none => .next (s.dropRecords.loadTemplate s.th.blk (n.toNat % 64) (templateOf bs)).adv

/-- copy (R279). -/
def execCopy (d : Reg) (a : Reg) (b : Reg) (o : Bool) (g : BitVec 2) (s : State) : Res :=
  s.copyIssue (encRr 0x79 (o.toNat + 4 * g.toNat) d a b) false o g.toNat d a b

/-- copym (R294). -/
def execCopym (d : Reg) (a : Reg) (b : Reg) (o : Bool) (g : BitVec 2) (s : State) : Res :=
  s.copyIssue (encRr 0x7A (o.toNat + 4 * g.toNat) d a b) true o g.toNat d a b

/-! ### Events -/

/-- sector delivery (R286). -/
def execSectorDelivery (core : Nat) (cmd : Nat) (sector : Nat) (crcBad : Nat) (s : State) : Res :=
  .next (s.deliver' core cmd sector crcBad)

/-- barrow translation fault (R298). -/
def execBarrowTranslationFault (core : Nat) (cmd : Nat) (s : State) : Res :=
  .next (s.barFaultNow core cmd)

/-- follow on end (R294). -/
def execFollowOnEnd (core : Nat) (cmd : Nat) (s : State) : Res :=
  .next (s.followEnd core cmd)

/-- reg xfer (R292). -/
def execRegXfer (core : Nat) (cmd : Nat) (sector : Nat) (s : State) : Res :=
  .next (s.regXfer core cmd sector)

/-- reg ack (R292). -/
def execRegAck (core : Nat) (cmd : Nat) (sector : Nat) (s : State) : Res :=
  .next (s.regAck core cmd sector)

end Sys2Proof.Machine
end

