-- ==== Sys2Proof/Machine/Lists.lean ====
section
/-! DEFINITION. Command lists and follow-on blocks: their records and how the engines run them (R262 to R265, R294, R295). -/

namespace Sys2Proof.Machine

open Sys2Proof

/-! ### Where a list stands -/

/-- A running list of a wave (R263), or a follow-on block of one of its commands (R294). -/
def State.list (s : State) (u : Nat) (w : ListId) : Option EList :=
  match w with
  | .lattice => (s.thread u).latList
  | .barrow => (s.thread u).barList
  | .follow id => (s.barCmd (s.thread u).core id).bind fun c => if c.thr = u then c.followList else none

def State.setList (s : State) (u : Nat) (w : ListId) (l : EList) : State :=
  match w with
  | .lattice => s.modThread u fun t => { t with latList := some l }
  | .barrow => s.modThread u fun t => { t with barList := some l }
  | .follow id => s.modBarCmd (s.thread u).core id fun c => { c with followList := some l }

/-- A wave's own list runs while its wave does, and stops at its halt; the follow-on block of an issued command completes even then (R294,
R389), unless its block is saved or ended. -/
def Thread.listLives (t : Thread) (w : ListId) : Bool := match w, t.life with
  | _, .running => true
  | .follow _, .halted => true
  | .follow _, .exited => true
  | _, _ => false

/-- A list that may read its next record: it has not ended, no trap stopped it, no command of it is suspended (R265), and
the local-store accesses before its start are performed (R71, R318). -/
def State.listRuns (s : State) (u : Nat) (w : ListId) : Option EList :=
  match s.list u w with
  | some l =>
    if l.ended || l.trap.isSome || !(s.thread u).listLives w || (s.thread u).localBefore l.seq || (w = .barrow && (s.core (s.thread u).core).barrow.any fun c => c.thr = u && c.fromList && c.suspended.isSome)
    then none else some l
  | none => none

/-- A trap stops the list at its record (R265). -/
def State.listTrap (s : State) (u : Nat) (w : ListId) (l : EList) (cause word : Nat) : State :=
  s.setList u w { l with trap := some (cause, l.next, word) }

/-! ### Records (R262, R263) -/

/-- A record as an engine reads it. -/
inductive Rec where
  | endRec
  | loopRec (count len d a b : Nat)
  | base (isB : Bool) (v : Nat)
  | command (word d a b : Nat)
  /-- It breaks the rules of R263: a cause, and its word. -/
  | bad (cause word : Nat)
  deriving DecidableEq, Repr

/-- The words an engine's list accepts (R263): every register field is zero, and F is one the instruction has. -/
def listAccepts (w : ListId) (word : Nat) : Bool :=
  let op := word % 128
  let f := word / 2 ^ 28
  word / 2 ^ 7 % 2 ^ 21 = 0 &&
    match w with
    | .barrow => (op = 0x78 && f = 0) || ((op = 0x79 || op = 0x7A) && f % 4 = 0)
    | _ => ((op = 0x70 || op = 0x71) && f / 4 % 2 = 0) || ((op = 0x72 || op = 0x76) && f = 0) || (op = 0x73 && f = 2)

/-- The 16 bytes of a record; inLoop: the record stands in the body of an open LOOP. -/
def recordOf (w : ListId) (b : List Byte) (inLoop : Bool) : Rec :=
  let word := fld b 0 4
  let count := word / 2 ^ 16
  let len := word / 2 ^ 10 % 2 ^ 6
  if word % 128 ≠ 0 then
    (if listAccepts w word then .command word (fld b 4 4) (fld b 8 4) (fld b 12 4) else .bad cFormat word)
  else match word / 2 ^ 7 % 8 with
    | 0 => if count = 0 && len = 0 then .endRec else .bad cFormat word
    | 1 => if inLoop || len = 0 then .bad cFormat word else .loopRec count len (fld b 4 4) (fld b 8 4) (fld b 12 4)
    | 2 => if inLoop || w ≠ .barrow || count ≠ 0 || len ≠ 0 || fld b 4 4 ≠ 0 then .bad cFormat word else .base false (fld b 8 8)
    | 3 => if inLoop || w ≠ .barrow || count ≠ 0 || len ≠ 0 || fld b 4 4 ≠ 0 then .bad cFormat word else .base true (fld b 8 8)
    | _ => .bad cFormat word

/-- The record a running list has reached (R263). Beyond the usable window no word is read, and TRAPINFO's word is 0 (DESIGN CHOICE, log
79). -/
def State.record (s : State) (u : Nat) (w : ListId) (l : EList) : State × Rec :=
  let blk := (s.thread u).blk
  if (s.block blk).usable < l.next + 16 then (s, .bad cLocalBounds 0)
  else
    let s := s.readLocal blk l.next 16
    let b := s.block blk
    if b.lsBad l.next 16 then (s, .bad cUeConsumed 0) else (s, recordOf w (b.lsSlice l.next 16) l.loop.isSome)

/-- The list goes on behind its record: round an open LOOP, or past it. -/
def EList.advance (l : EList) : EList :=
  let n := l.next + 16
  match l.loop with
  | none => { l with next := n }
  | some p =>
    if n < p.first + 16 * p.len then { l with next := n }
    else if p.iter + 1 < p.count then { l with next := p.first, loop := some { p with iter := p.iter + 1 } }
    else { l with next := n, loop := none }

/-- An operand value in its loop iteration, modulo 2^32. -/
def EList.value (l : EList) (v : Nat) (stride : ListLoop → Nat) : Nat :=
  match l.loop with
  | some p => (v + p.iter * stride p) % 2 ^ 32
  | none => v

/-! ### Command records -/

/-- Commands of a list that are not complete. -/
def State.listBusy (s : State) (u : Nat) (w : ListId) : Bool :=
  let core := s.core (s.thread u).core
  match w with
  | .barrow => core.barrow.any fun c => c.thr = u && c.fromList
  | _ => core.latq.any fun c => c.thr = u && c.list = some w

/-- A Lattice command of a list (R263, R264): checked as a direct one, and queued. -/
def State.listLattice (s : State) (u : Nat) (w : ListId) (l : EList) (word d a b : Nat) : State :=
  let t := s.thread u
  let blk := s.block t.blk
  let op := word % 128
  let f := word / 2 ^ 28
  let next := l.advance
  let put (s : State) (r : Except Fail Ready) (g : Nat) (tags : Block → Block) : State :=
    match r with
    | .error x => s.listTrap u w l x.1 word
    | .ok r => ((s.modBlock t.blk tags).enqueue u r g none (some w) l.seq l.pc (l.next, word)).setList u w next
  if op = 0x72 then
    match blk.setWidths d (a % 16) (b % 16) with
    | .error x => s.listTrap u w l x.1 word
    | .ok x => (s.modBlock t.blk fun _ => x).setList u w next
  else if 64 ≤ (s.core t.core).queued then s
  else if op = 0x73 then put s (blk.zeroCheck d) 0 id
  else if op = 0x76 then
    let s := s.readLocal t.blk b 16
    let blk := s.block t.blk
    put s (blk.qntCheck a b 0) 0 fun x =>
      let c := blk.lsSlice b 16
      x.setTags (ctlTag c) (ctlWords c ((List.range (ctlLen c / 16)).map (ctlG0 c + ·)))
  else
    let s := s.readLocal t.blk a 32
    put s ((s.block t.blk).mmaCheck (op = 0x71) (hasBit f 3) d a b) (f % 4) id

/-- Read a record of memory for a wave that may not be the running one, at a place of its program order (R263). -/
def State.readFor (s : State) (u seq va n : Nat) : State × RecordRes :=
  let cur := s.th.uid
  let s := s.switchTo u
  let now := s.th.seq
  let back (s : State) : State := { s with th := { s.th with seq := now } }.switchTo cur
  match { s with th := { s.th with seq := seq } }.recordWords va n with
  | (s, .wait) => (back s, .wait)
  | (s, r) => (back { s with th := { s.th with out := s.th.out.filter fun a => a.kind ≠ .record || a.seq ≠ seq } }, r)

/-- A Barrow command of a list (R263, R280): D is 32 bits, A and B are offsets from the bases. -/
def State.listBarrow (s : State) (u : Nat) (l : EList) (word d a b : Nat) : State :=
  let t := s.thread u
  let op := word % 128
  let g := word / 2 ^ 30
  let ptr (base v : Nat) : Nat := addrMod (base + sextInt v 32)
  let src := ptr l.baseA a
  let dst := ptr l.baseB b
  if op = 0x78 then
    match ctldFault src with
    | some x => s.listTrap u .barrow l x.1 word
    | none => match s.readFor u l.seq src 8 with
      | (s, .wait) => s
      | (s, .stop x _) => s.listTrap u .barrow l x.cause word
      | (s, .bytes bs) => match templateFault bs with
        | some _ => s.listTrap u .barrow l cFormat word
        | none => (s.loadTemplate t.blk (dst % 64) (templateOf bs)).setList u .barrow l.advance
  else if 64 ≤ (s.core t.core).barrow.length then s
  else match s.copyCheck (s.block t.blk) (op = 0x7A) false d src dst with
    | .error x => s.listTrap u .barrow l x.1 word
    | .ok tm => (s.enterCopy u tm (BitVec.ofNat 32 word) d src dst (op = 0x7A) false g true l.seq l.pc).setList u .barrow l.advance

/-- One record of a list is run, where it is of a kind `sel` names (R263). The record of a LOOP's body is read each time the list reaches it,
and again where a full queue held its command (DESIGN CHOICE, log 79). -/
def State.listStep (s : State) (u : Nat) (w : ListId) (sel : Rec → Bool) : State :=
  match s.listRuns u w with
  | none => s
  | some l => match s.record u w l with
    | (s, r) =>
      if !sel r then s
      else match r with
        | .endRec => if s.listBusy u w then s else s.setList u w { l with ended := true }
        | .loopRec count len d a b =>
          if count = 0 then s.setList u w { l with next := l.next + 16 * (len + 1) }
          else s.setList u w { l with next := l.next + 16, loop := some ⟨l.next + 16, len, count, 0, d, a, b⟩ }
        | .base isB v => s.setList u w (if isB then { l with next := l.next + 16, baseB := v } else { l with next := l.next + 16, baseA := v })
        | .bad cause word => s.listTrap u w l cause word
        | .command word d a b =>
          let d := l.value d (·.d)
          let a := l.value a (·.a)
          let b := l.value b (·.b)
          match w with
          | .barrow => s.listBarrow u l word d a b
          | _ => s.listLattice u w l word d a b

def Rec.isEnd : Rec → Bool
  | .endRec => true
  | _ => false

def Rec.isLoop : Rec → Bool
  | .loopRec .. => true
  | _ => false

def Rec.isBase (b : Bool) : Rec → Bool
  | .base x _ => x == b
  | _ => false

/-- Command records, and records that break the rules. -/
def Rec.isCommand : Rec → Bool
  | .command .. => true
  | .bad .. => true
  | _ => false

/-! ### Events -/

/-- list command record (R263). -/
def execListCommandRecord (uid : Nat) (which : ListId) (s : State) : Res :=
  .next (s.listStep uid which Rec.isCommand)

/-- list end record (R263). -/
def execListEndRecord (uid : Nat) (which : ListId) (s : State) : Res :=
  .next (s.listStep uid which Rec.isEnd)

/-- list loop record (R263). -/
def execListLoopRecord (uid : Nat) (which : ListId) (s : State) : Res :=
  .next (s.listStep uid which Rec.isLoop)

/-- list basea record (R263). -/
def execListBaseaRecord (uid : Nat) (which : ListId) (s : State) : Res :=
  .next (s.listStep uid which (Rec.isBase false))

/-- list baseb record (R263). -/
def execListBasebRecord (uid : Nat) (which : ListId) (s : State) : Res :=
  .next (s.listStep uid which (Rec.isBase true))

end Sys2Proof.Machine
end

