-- ==== Sys2Proof/Machine/Dispatcher.lean ====
section
/-! DEFINITION. The dispatcher and the planner: aging, placement, pre-emption, resume and rotation of blocks, starvation and
throttling, queue extension, the wait-graph walk, quota moves, budget windows, energy and the arithmetic clock (R45 to R60,
R300, R320, R383, R384, R406, R407). -/

namespace Sys2Proof.Machine

open Sys2Proof

/-! ### Periodic events -/

/-- A periodic event happens at most once in each period of its clock; unit tells apart what it concerns. -/
def State.periodic (s : State) (event unit clock period : Nat) (f : State → State) : State :=
  let key := unit * 64 + event
  if s.marks.getD key 0 < clock / period then { f s with marks := s.marks.set key (clock / period) } else s

/-! ### Aging of pending tasks (R49) -/

/-- A comes before B in the pending list and at the dispatcher: higher effective priority, then older. -/
def taskFirst (a b : Task) : Bool := decide (b.eff < a.eff) || (a.eff = b.eff && decide (a.born ≤ b.born))

/-- Accepted tasks without a slot; a gang's reservation is not one of them. -/
def State.pendingTasks (s : State) : List Task :=
  s.tasks.vals.filter fun t => t.slot.isNone && !t.isOver && t.reserved = 0 && decide (t.ended < t.record.blocks)

/-- PENDING_AGING_TICK: every pending task gains a level, up to 7, and free or taken slots go to the first of them. -/
def State.agingTick (s : State) : State :=
  let s := s.pendingTasks.foldl (fun s t => s.modTask t.uid fun t => { t with eff := min 7 (t.eff + 1) }) s
  (sortBy taskFirst s.pendingTasks).foldl (fun s t => s.assignSlot t.uid) s

/-! ### Saving a block (R300, R320, R383, R384) -/

/-- Elements between two points of a copy's granule (R300). -/
def granuleStep (g : Nat) : Nat := match g with
  | 1 => 1024
  | 2 => 16384
  | _ => 262144

/-- A copy stands at a point: before its first element, after its last, at its granule's step, or at a faulting element. -/
def BarCmd.atPoint (c : BarCmd) : Bool :=
  (c.suspended.isSome && c.told && c.rests) || (c.next = 0 && c.sectors.all fun x => x.2 == .waiting) || (c.sectors.all fun x => x.2 == .delivered) ||
    (c.granule ≠ 0 && c.rests &&
      (decide (c.tmpl.total ≤ c.next) || ((List.range c.next).filter c.tmpl.inRange).length % granuleStep c.granule = 0))

/-- Elements of a running copy are started up to its next point. -/
def State.runToPoint (s : State) (core id : Nat) : Nat → State
  | 0 => s
  | n + 1 => match s.barCmd core id with
    | none => s
    | some c =>
      if c.suspended.isSome || decide (c.tmpl.total ≤ c.next) ||
        ((List.range c.next).filter c.tmpl.inRange).length % granuleStep c.granule = 0 then s
      else match s.startElem core c with
        | (s, .ok) => s.runToPoint core id n
        | (s, e) => s.barAfter core id e

/-- A command of granule 0 runs until it is over. -/
def State.runToEnd (s : State) (core id : Nat) : Nat → State
  | 0 => s
  | n + 1 => match s.barCmd core id with
    | none => s
    | some c => if c.atPoint then s else (s.barNext core c).runToEnd core id n

/-- A running command goes to its next point, with every element before it written. -/
def State.barToPoint (s : State) (core id : Nat) : State :=
  match s.barCmd core id with
  | none => s
  | some c =>
    if c.atPoint then s
    else if c.suspended.isSome then s.barReport core id
    else if c.granule = 0 then s.runToEnd core id (3 * c.sectors.length + 1)
    else (s.runToPoint core id (c.tmpl.total - c.next)).barFlush core id

/-- Threads of a block, shadows among them. -/
def State.blockThreads (s : State) (blk : Nat) : List Thread := s.allThreads.filter fun t => t.blk = blk && !t.frailor

/-- What a saved wave keeps (R384): nothing counted in LD or ST is outstanding. -/
def Thread.saved (t : Thread) : Thread :=
  { t with life := if t.life = .running then .saved else t.life, out := t.out.filter fun a => a.ctr = .mx }

/-- Work of LD and ST that is still outstanding. -/
def Thread.draining (t : Thread) : Bool := t.out.any fun a => (a.ctr = .ld || a.ctr = .st) && !a.finished

/-- Pre-emption up to the point where all work rests (R383, steps 1 to 5). -/
def State.quiesce (s : State) (b : Block) : State :=
  let us := (s.blockThreads b.uid).map (·.uid)
  let s := us.foldl (fun s u => (s.modThread u fun t => t.abortAll 5).drain u) s
  let ids := ((s.core b.core).barrow.filter fun c => c.blk = b.uid).map (·.id)
  ids.foldl (fun s id => s.barToPoint b.core id) s

/-- All work of a block rests: its commands stand at points, its accesses are performed, its pairs are level. -/
def State.atRest (s : State) (b : Block) : Bool :=
  (s.blockThreads b.uid).all (fun t => !t.draining && (t.gone || s.pairLevel t)) && (s.core b.core).barrow.all fun c => c.blk ≠ b.uid || c.atPoint

/-- The saved block leaves its core (R383, steps 5 and 6). -/
def State.unseat (s : State) (blk : Nat) : State :=
  let b := s.block blk
  let s := s.writeBackAll (mkOwner 0 s.pkg (dieOf b.core) (b.core % 128) b.slot)
  let us := (s.blockThreads blk).map (·.uid)
  let s := us.foldl (fun s u => (s.txUnlock u).modThread u Thread.saved) s
  let k := s.core b.core
  let s := { s with watch := s.watch.filter fun w => !us.contains w.1 }
  let s := s.modCore b.core fun c => { c with
    latq := c.latq.filter (·.blk ≠ blk), barrow := c.barrow.filter (·.blk ≠ blk)
    tmplSlots := c.tmplSlots.filter (·.1 ≠ blk), idleSince := s.cycles }
  s.modBlock blk fun b => { b with
    resident := false, pages := [], savedLat := k.latq.filter (·.blk = blk), savedBar := k.barrow.filter (·.blk = blk) }

/-- PREEMPTION (R383); none: some work of the block cannot reach its point yet. -/
def State.trySave (s : State) (blk : Nat) : Option State :=
  let b := s.block blk
  if !b.resident || !b.started then none
  else
    let s := s.quiesce b
    if (s.block blk).resident && s.atRest (s.block blk) then some (s.unseat blk) else none

/-! ### Resume (R47, R246, R384) -/

/-- A core's engines have room for the commands a saved block brings (R275, R317). -/
def State.commandRoom (s : State) (core : Nat) (b : Block) : Bool :=
  decide ((s.core core).barrow.length + b.savedBar.length ≤ 64) && decide ((s.core core).queued + b.savedLat.length ≤ 64)

/-- A core's free resources take the block. -/
def State.takes (s : State) (core : Nat) (b : Block) : Bool :=
  s.dieOnline (dieOf core) && s.coreFits core (s.slotsUsed b) b.lsBytes b.accBanks b.regs b.cls b.dual && s.commandRoom core b

/-- The tiles of a resuming block take other banks (R320). -/
def rebank : List (Nat × Tile) → List Nat → List (Nat × Tile)
  | [], _ => []
  | (k, t) :: rest, free =>
    if t.used then (k, { t with banks := free.take t.banks.length }) :: rebank rest (free.drop t.banks.length) else (k, t) :: rebank rest free

/-- Wave slots for the threads of a resuming block, and the running state again. -/
def State.reseatThreads (s : State) (core : Nat) : List Nat → List Nat → State
  | u :: us, w :: ws =>
    (s.modThread u fun t => { t with
      core := core, wslot := w, life := if t.life = .saved then .running else t.life, score := 0, lastIssue := s.cycles, starved := 0 }).reseatThreads core us ws
  | _, _ => s

/-- A wave that resumes on another core finds cold L1 and instruction buffers (R384): the core's Valid copies and buffered words go. -/
def State.coldCore (s : State) (core : Nat) : State :=
  (s.selfInvalidate core (BitVec.allOnes 64)).modCore core fun c => { c with ibuf := [], unfilled := [], fetching := [] }

/-- The block is restored on a core (R384): its waiting waves make their check of R44 anew, and its sleepers evaluate again (R243,
R246). Of a dual block each wave and its shadow take slots of one issue slot (R397). -/
def State.restore (s : State) (blk core : Nat) : State :=
  let b := s.block blk
  let free := s.freeBanks core
  let ls := b.waves.filter fun u => (s.thread u).life ≠ .exited
  let us := ls ++ (if b.dual then ls.filterMap fun u => (s.thread u).partner else [])
  let ws := s.waveSlots core ls.length b.dual
  let s := if core = b.core then s else s.coldCore core
  let b' := { s.seat b core with tiles := rebank b.tiles free, savedLat := [], savedBar := [] }
  let s := { s with blocks := s.blocks.set blk b' }
  let s := s.reseatThreads core us ws
  let ids := b.savedBar.map (·.id)
  let s := s.modCore core fun c => { c with latq := c.latq ++ b.savedLat, barrow := c.barrow ++ b.savedBar }
  let s := s.modCtx b.ctx fun c => { c with faults := c.faults.map fun f =>
    { f with barrow := f.barrow.map fun (x : Nat × Nat) => if ids.contains x.2 then (core, x.2) else x } }
  us.foldl (fun s u => (s.sleepResume u).checkWait u) (s.touchDie b.ctx (dieOf core))

/-- A pre-empted block of a task that holds a slot, outside the rotation lists. -/
def State.mayResume (s : State) (b : Block) : Bool :=
  !b.resident && b.started && b.waves ≠ [] && !(s.core b.core).rotation.contains b.uid && (s.tasks.get? b.task).any (·.slot.isSome)

/-- BLOCK_RESUME (R47). -/
def State.resume (s : State) (blk core : Nat) : State :=
  if s.mayResume (s.block blk) && decide (core < 512) && s.takes core (s.block blk) then s.restore blk core else s

/-! ### Placement (R50) -/

def State.taskOf (s : State) (b : Block) : Option Task := s.tasks.get? b.task

/-- Pre-empted blocks of a die's tasks. -/
def State.waitingResume (s : State) (die : Nat) : List Block :=
  s.blocks.vals.filter fun b => s.mayResume b && (s.taskOf b).any fun t => t.die = die

/-- The lowest resident block of a class-C task that has not started. -/
def State.placedC (s : State) (t : Task) : Option Block :=
  (s.blocks.vals.filter fun b => b.task = t.uid && b.resident && !b.started).foldl (fun best b => match best with
    | none => some b
    | some x => if b.idx < x.idx then some b else some x) none

/-- A task with unplaced blocks, which its die's dispatcher may choose. -/
def State.hasUnplaced (s : State) (t : Task) : Bool :=
  t.slot.isSome && t.reserved = 0 && !t.isOver && (if t.record.cls = 0 then (s.placedC t).isSome else decide (t.placed < t.record.blocks))

/-- The order of R50: effective priority, then C before P before W, then age. -/
def placeFirst (a b : Task) : Bool :=
  decide (b.eff < a.eff) || (a.eff = b.eff && (decide (a.record.cls < b.record.cls) || (a.record.cls = b.record.cls && decide (a.born ≤ b.born))))

/-- A block that waits to resume goes before a task's unplaced ones: one of the same task always (R49), a P block before every
task of equal or lower priority (R47). -/
def State.resumesFirst (s : State) (b : Block) (t : Task) : Bool :=
  b.task = t.uid || (b.cls = 1 && (s.taskOf b).any fun x => decide (t.eff ≤ x.eff))

/-- A core of the die that fits a block of the record, in the order of R50. -/
def State.coreFor (s : State) (die : Nat) (r : Record) : Option Nat := s.bestCore die r.slots r.lsBytes r.accBanks r.regs r.cls r.dual

/-- The next block of a task stands before a die's dispatcher: of its own die's tasks, or offered since neither its own die nor one before
this has a core that fits (R50). -/
def State.offered (s : State) (t : Task) (die : Nat) : Bool :=
  t.die = die || (t.record.cls ≠ 0 && (t.die :: List.range die).all fun d => (s.coreFor d t.record).isNone)

/-- Tasks whose next block a die's dispatcher may place now (R47, R50). -/
def State.candidates (s : State) (die : Nat) : List Task :=
  sortBy placeFirst (s.tasks.vals.filter fun t => s.hasUnplaced t && s.offered t die &&
    !(s.waitingResume die ++ s.waitingResume t.die).any fun b => s.resumesFirst b t)

/-- The next block of a task is placed by a die's dispatcher and starts; none: it fits nowhere on the die now. -/
def State.placeOne (s : State) (die : Nat) (t : Task) : Option State :=
  if t.record.cls = 0 then (s.placedC t).map fun b => (s.startBlock b t.record).noteBegun b.uid
  else if !s.fitsWindow t.record.ctx t.record.energy || !s.hasAreas t.record then none
  else match (s.coreFor die t.record).map (s.placeOn t (t.idxBase + t.placed) false) with
    | none => none
    | some (s, u) =>
      let s := (s.charge t.record.ctx t.record.energy).modTask t.uid fun t => { t with placed := t.placed + 1 }
      some ((s.startBlock (s.block u) t.record).noteBegun u)

/-- BLOCK_PLACEMENT: the first task in order whose next block fits. -/
def State.placement (s : State) (die : Nat) : Option State := (s.candidates die).findSome? (s.placeOne die)

/-- The first block, in the order of R50, that can resume somewhere. -/
def State.resumeNext (s : State) (die : Nat) : Option State :=
  let first (a b : Block) : Bool := match s.taskOf a, s.taskOf b with
    | some x, some y => placeFirst x y
    | _, _ => true
  (sortBy first (s.waitingResume die)).findSome? fun b =>
    ((s.findCore die (s.slotsUsed b) b.lsBytes b.accBanks b.regs b.cls b.dual).filter fun c => s.commandRoom c b).map (s.restore b.uid)

/-! ### Who may be pre-empted (R43, R49) -/

/-- The task has work that seeks a place: it holds no slot, or has blocks to place or to resume. -/
def State.seeks (s : State) (t : Task) : Bool :=
  !t.isOver && t.reserved = 0 && (t.slot.isNone || s.hasUnplaced t || s.blocks.vals.any fun b => b.task = t.uid && s.mayResume b)

/-- The table of R43; a task that has lost its slot has its started blocks pre-empted (R49). -/
def State.mayPreempt (s : State) (b : Block) : Bool :=
  match s.taskOf b with
  | none => false
  | some t =>
    if t.record.cls = 0 then false
    else t.slot.isNone || s.tasks.vals.any fun x => s.seeks x &&
      (if t.record.cls = 1 then x.eff = 7 || x.record.cls = 0 else decide (t.eff ≤ x.eff))

/-- PREEMPTION of a block that may be pre-empted. -/
def State.preempt (s : State) (blk : Nat) : State := if s.mayPreempt (s.block blk) then (s.trySave blk).getD s else s

/-- The started blocks of tasks that have lost their slot are pre-empted as soon as their work rests (R49). -/
def State.evictSlotless (s : State) : State :=
  (s.blocks.vals.filter fun b => b.resident && b.started && (s.taskOf b).any fun t => t.slot.isNone && !t.isOver).foldl
    (fun s b => s.preempt b.uid) s

/-! ### Rotation (R45, R46) -/

/-- The resident rotating block of a core that entered rotation earliest. -/
def State.rotationVictim (s : State) (core : Nat) : Option Block :=
  ((s.blocksOn core).filter fun b => b.rotating && b.started).foldl (fun best b => match best with
    | none => some b
    | some x => if b.residentSince < x.residentSince then some b else some x) none

/-- A listed block may run: its task holds a slot. -/
def State.listedReady (s : State) (u : Nat) : Bool := (s.taskOf (s.block u)).any fun t => t.slot.isSome && t.reserved = 0

/-- A listed block takes the core: it starts, or goes on. -/
def State.enterFromList (s : State) (core u : Nat) : State :=
  let s := s.modCore core fun c => { c with rotation := c.rotation.filter (· ≠ u) }
  let b := s.block u
  if b.started then s.restore u core
  else match s.taskOf b with
    | some t => (s.startBlock (s.seat b core) t.record).noteBegun u
    | none => s

/-- ROTATION: the earliest rotating block is saved, and the block that waited longest comes in; where it would not fit, nothing
changes (DESIGN CHOICE, log 66). A die that is not ONLINE restores and starts nothing (R402). -/
def State.rotate (s : State) (core : Nat) : State :=
  match (s.core core).rotation.find? s.listedReady with
  | none => s
  | some u =>
    if !s.dieOnline (dieOf core) || s.now - (s.core core).lastRotate < 1000000 then s
    else
      let out := match s.rotationVictim core with
        | none => some s
        | some v => (s.trySave v.uid).map fun (s : State) => s.modCore core fun c => { c with rotation := c.rotation ++ [v.uid] }
      match out with
      | none => s
      | some s' =>
        let b := s'.block u
        if s'.coreFits core (s'.slotsUsed b) b.lsBytes b.accBanks b.regs b.cls b.dual && s'.commandRoom core b then
          (s'.enterFromList core u).modCore core fun c => { c with lastRotate := s.now }
        else s

/-! ### Starvation and throttling (R48, R52) -/

/-- A class-C wave that is ready to issue. -/
def Thread.readyC (t : Thread) : Bool := !t.frailor && t.cls = 0 && t.life = .running && t.wait.isNone

def State.starveBoost (s : State) (u : Nat) : State :=
  let t := s.thread u
  if t.readyC && decide (65536 ≤ s.cycles - t.lastIssue) then s.setThread { t with boost := true } else s

/-- One event for each 2^24 cycles without issue. -/
def State.starvationEvent (s : State) (u : Nat) : State :=
  let t := s.thread u
  if t.readyC && decide (2 ^ 24 * (t.starved + 1) ≤ s.cycles - t.lastIssue) then
    (s.setThread { t with starved := t.starved + 1 }).logCtx t.ctx 0x01 t.pc.toNat (s.ownerOf t).toNat
  else s

def State.wavesOn (s : State) (core : Nat) : List Thread := s.allThreads.filter fun t => t.core = core && !t.frailor && t.life = .running

def State.halveScores (s : State) (core : Nat) : State :=
  (s.wavesOn core).foldl (fun s t => s.modThread t.uid fun t => { t with score := t.score / 2 }) s

def stepDown (a : Nat) : Nat := if a = 32 then 24 else if a = 24 then 16 else if a = 16 then 8 else 4

def stepUp (a : Nat) : Nat := if a = 4 then 8 else if a = 8 then 16 else if a = 16 then 24 else 32

def State.stepAllowance (s : State) (core : Nat) : State :=
  let sum := ((s.wavesOn core).map (·.score)).sum
  s.modCore core fun c => { c with allowance := if 1024 < sum then stepDown c.allowance else if sum < 512 then stepUp c.allowance else c.allowance }

def State.resetAllowance (s : State) (core : Nat) : State :=
  if s.blocksOn core = [] && decide (1024 ≤ s.cycles - (s.core core).idleSince) then s.modCore core fun c => { c with allowance := 32 } else s

/-! ### Blocked waves (R55, R56) -/

/-- The wave is blocked in a wait that the walk of R56 follows. -/
def Block.blocked (b : Block) (t : Thread) : Bool :=
  !t.gone && !t.trapMode && match t.wait with
  | none => false
  | some w => w.result.isNone && w.fail.isNone && match w.kind with
    | .bar => true
    | .queuePush q => (b.queues.get? q).any (·.full)
    | .queuePop q => (b.queues.get? q).any fun x => x.count = 0
    | .nb n _ => !(b.bar n).sector
    | _ => false

/-- Waves that could unblock a blocked wave. -/
def State.unblockers (s : State) (b : Block) (t : Thread) : List Nat :=
  let alive := b.waves.filter fun u => !(s.thread u).gone
  match (t.wait.map fun (w : Wait) => w.kind : Option WaitKind) with
  | some .bar => alive.filter fun u => !b.atBar.contains (s.thread u).wib
  | some (.queuePush q) => (s.roleWaves b (((b.queues.get? q).map (·.consumer)).getD 0)).filter alive.contains
  | some (.queuePop q) => (s.roleWaves b (((b.queues.get? q).map (·.producer)).getD 0)).filter alive.contains
  | some (.nb n _) => alive.filter fun u => !(b.bar n).amask.contains (s.thread u).wib
  | _ => []

/-- The largest set of blocked waves in which every edge from a member leads to a member: n rounds of removal. -/
def State.deadSet (s : State) (b : Block) : Nat → List Nat → List Nat
  | 0, l => l
  | n + 1, l => s.deadSet b n (l.filter fun u => (s.unblockers b (s.thread u)).all l.contains)

/-- The waves joined to a part by edges in either direction: n rounds of growth. -/
def State.partOf (s : State) (b : Block) (dead : List Nat) : Nat → List Nat → List Nat
  | 0, l => l
  | n + 1, l => s.partOf b dead n (dead.filter fun u => l.contains u || l.any fun v =>
      (s.unblockers b (s.thread u)).contains v || (s.unblockers b (s.thread v)).contains u)

/-- A trap is found for a waiting wave: it takes it at its waiting instruction (R56). -/
def State.failWait (s : State) (u cause info : Nat) : State :=
  s.modThread u fun t => { t with wait := t.wait.map fun w => { w with fail := some (2 ^ 40 * cause + info) } }

/-- WAIT_GRAPH_WALK; exhausted: the producer that found the pool empty. -/
def State.waitWalk (s : State) (blk : Nat) (exhausted : Option Nat) : State :=
  let b := s.block blk
  let dead := s.deadSet b 16 (b.waves.filter fun u => b.blocked (s.thread u))
  let s' := dead.foldl (fun (t : State) u => t.failWait u cDeadlock (s.partOf b dead 16 [u]).length) s
  match exhausted with
  | some u => if dead.contains u then s' else s'.failWait u cQueuePool 0
  | none => s'

/-- A wave has been blocked for 2^20 cycles. -/
def State.longBlocked (s : State) (blk : Nat) : Bool :=
  let b := s.block blk
  b.waves.any fun u => b.blocked (s.thread u) && (s.thread u).wait.any fun w => decide (2 ^ 20 ≤ s.cycles - w.cycle)

/-- A wave of a queue's producer role that has been blocked on it for more than 10,000 cycles (R55). -/
def State.blockedProducer (s : State) (b : Block) (q : Nat) : Option Nat :=
  (s.roleWaves b (((b.queues.get? q).map (·.producer)).getD 0)).find? fun u => b.blocked (s.thread u) && (s.thread u).wait.any fun w => w.kind = .queuePush q && decide (10000 < s.cycles - w.cycle)

/-- QUEUE_EXTENSION (R55): a segment from the overflow pool, or the walk. -/
def State.extendQueue (s : State) (blk q : Nat) : State :=
  let b := s.block blk
  match b.queues.get? q, s.blockedProducer b q with
  | some x, some u =>
    if !(s.roleWaves b x.consumer).any fun v => b.blocked (s.thread v) then s
    else if (s.ctx b.ctx).overFree < x.segBytes then s.waitWalk blk (some u)
    else (s.modCtx b.ctx fun c => { c with overFree := c.overFree - x.segBytes }).modBlock blk fun b =>
      { b with queues := b.queues.set q { x with segs := x.segs ++ [(false, [])] } }
  | _, _ => s

/-! ### Quota moves (R59) -/

/-- The wave of a role with the largest quota, lowest index first; smallest with `least`. Waves that have exited count with the
others (DESIGN CHOICE, log 67). -/
def State.quotaWave (s : State) (us : List Nat) (least : Bool) : Option Nat :=
  us.foldl (fun best u => match best with
    | none => some u
    | some v =>
      let a := (s.thread u).quota
      let b := (s.thread v).quota
      if (if least then decide (a < b) else decide (b < a)) then some u else some v) none

/-- Eight registers move from one role to another, unless the giver would fall below its least quota. -/
def State.moveQuota (s : State) (b : Block) (giver taker : Nat) : State :=
  match s.quotaWave (s.roleWaves b giver) false, s.quotaWave (s.roleWaves b taker) true with
  | some u, some v =>
    let least := match b.roles[giver]? with
      | some r => r.minQuota
      | none => 8
    if (s.thread u).quota < least + 8 then s
    else (s.setQuota u ((s.thread u).quota - 8) false).setQuota v ((s.thread v).quota + 8) false
  | _, _ => s

/-- QUOTA_MOVE for one queue. -/
def State.queueQuota (s : State) (blk q : Nat) : State :=
  let b := s.block blk
  match b.queues.get? q with
  | none => s
  | some x =>
    let waits (role : Nat) (k : WaitKind) : Bool := (s.roleWaves b role).any fun u => b.blocked (s.thread u) && (s.thread u).wait.any fun w => w.kind = k
    if (s.roleWaves b x.producer ++ s.roleWaves b x.consumer).any fun u => (s.thread u).fixq then s
    else if x.full && waits x.producer (.queuePush q) then s.moveQuota b x.producer x.consumer
    else if x.count = 0 && waits x.consumer (.queuePop q) then s.moveQuota b x.consumer x.producer
    else s

/-! ### Budget and clock (R406, R407) -/

/-- ENERGY_CHARGE: whole µJ are charged, the remainder is carried (nJ). -/
def State.chargeEnergy (s : State) (ctx nj : Nat) : State :=
  s.modCtx ctx fun c => { c with energy := c.energy + (c.remainder + nj) / 1000, remainder := (c.remainder + nj) % 1000 }

/-- CLOCK_PLANNER_STEP. -/
def State.planClock (s : State) (watts : Nat) : State :=
  { s with mhz := if 2400 < watts then max 950 (s.mhz - 95) else if watts < 2300 then min 1900 (s.mhz + 95) else s.mhz }

/-! ### Events -/

/-- pending aging tick (R49). -/
def execPendingAgingTick (s : State) : Res :=
  .next (s.periodic 0 0 s.now 10000000 State.agingTick)

/-- block placement (R50). -/
def execBlockPlacement (die : Nat) (s : State) : Res :=
  .next ((s.placement die).getD s)

/-- rotation (R46). -/
def execRotation (core : Nat) (s : State) : Res :=
  .next (s.rotate core)

/-- starvation boost (R48). -/
def execStarvationBoost (uid : Nat) (s : State) : Res :=
  .next (s.starveBoost uid)

/-- starvation (R48). -/
def execStarvation (uid : Nat) (s : State) : Res :=
  .next (s.starvationEvent uid)

/-- locality score halving (R52). -/
def execLocalityScoreHalving (core : Nat) (s : State) : Res :=
  .next (s.periodic 1 core s.cycles 4096 fun s => s.halveScores core)

/-- allowance step (R52). -/
def execAllowanceStep (core : Nat) (s : State) : Res :=
  .next (s.periodic 2 core s.cycles 1024 fun s => s.stepAllowance core)

/-- allowance reset (R52). -/
def execAllowanceReset (core : Nat) (s : State) : Res :=
  .next (s.resetAllowance core)

/-- queue extension (R55). -/
def execQueueExtension (blk : Nat) (q : Nat) (s : State) : Res :=
  .next (s.extendQueue blk q)

/-- wait graph walk (R56). -/
def execWaitGraphWalk (blk : Nat) (s : State) : Res :=
  .next (if s.longBlocked blk then s.waitWalk blk none else s)

/-- quota move (R59). -/
def execQuotaMove (blk : Nat) (q : Nat) (s : State) : Res :=
  .next (s.periodic 3 (blk * 16 + q) s.cycles 1024 fun s => s.queueQuota blk q)

/-- preemption (R43, R383). -/
def execPreemption (blk : Nat) (s : State) : Res :=
  .next (s.preempt blk)

/-- block resume (R47). -/
def execBlockResume (blk : Nat) (core : Nat) (s : State) : Res :=
  .next (s.resume blk core)

/-- budget window start (R407). -/
def execBudgetWindowStart (s : State) : Res :=
  .next s.newWindow

/-- energy charge (R406). -/
def execEnergyCharge (ctx : Nat) (nj : Nat) (s : State) : Res :=
  .next (s.chargeEnergy ctx nj)

/-- clock planner step (R407). -/
def execClockPlannerStep (watts : Nat) (s : State) : Res :=
  .next (s.periodic 4 0 s.now 1000000 fun s => s.planClock watts)

end Sys2Proof.Machine
end

