-- ==== Sys2Proof/Machine/Csr.lean ====
section
/-! DEFINITION. Control and status registers: csrr and csrw, and the register writes that the opcode table lists as events
(R10, R11, R21, R30, R42, R122 to R124, R131, R132, R176, R177, R192, R194, R241, R244, R268, R312, R347, R369, R370, R376,
R382, R401, R404 to R406). -/

namespace Sys2Proof.Machine

open Sys2Proof

def num (b : Bool) : Nat := if b then 1 else 0

/-! ### Reading -/

/-- WCNT (R192): the wave's own counters, frozen in trap mode (R378). -/
def Thread.wcnt (t : Thread) : Nat :=
  let n (c : Ctr) : Nat := (t.out.filter fun a => a.ctr = c && (c = .mx || !a.inTrap)).length
  n .mx * 2 ^ 16 + n .st * 2 ^ 8 + n .ld

/-- TXSTAT (R241). -/
def Tx.stat (t : Tx) : Nat :=
  num t.isOpen * 2 ^ 31 + t.ncommit * 2 ^ 24 + t.nabort * 2 ^ 17 + t.lane * 2 ^ 10 + t.reason * 2 ^ 4 + num t.mixed * 2 ^ 3

/-- TASKID (R42): 0 while the task holds no slot. -/
def State.taskId (s : State) (t : Thread) : Nat :=
  match s.tasks.get? (s.block t.blk).task with
  | some k => match k.slot with
    | some i => k.die * 2 ^ 8 + i
    | none => 0
  | none => 0

/-- DIEID (R11). -/
def State.dieId (s : State) (t : Thread) : Nat :=
  s.pkg * 2 ^ 10 + (if t.frailor then 2 ^ 9 + (t.core - 512) * 4 else t.core % 128 * 4 + dieOf t.core)

/-- DIECTL (R401). -/
def DieCtl.value (d : DieCtl) : Nat :=
  d.short % 2 ^ 24 * 2 ^ 16 + ((List.range 4).map fun i => d.states.getD i 0 * 2 ^ (8 + 2 * i)).sum + d.result * 2 ^ 4 + d.die

/-- CYCLE counts the clock of the thread's own core (R177). -/
def State.cycleFor (s : State) (t : Thread) : Nat := (if t.frailor then s.svcCycles else s.cycles) + (s.core t.core).clk

/-- The value of an unprivileged CSR for a thread (R122); none: the number is not assigned. -/
def State.csrUser (s : State) (t : Thread) (n : Nat) : Option Nat :=
  match n with
  | 0x000 => some (t.wib * 2 ^ 7 + t.wslot / 8 * 2 ^ 5 + t.wslot)
  | 0x001 => some (s.block t.blk).idx
  | 0x002 => some (s.taskId t)
  | 0x003 => some t.ctx
  | 0x004 => some (t.prio * 2 ^ 4 + num t.shadow * 2 ^ 3 + num t.succ * 2 ^ 2 + t.cls)
  | 0x005 => some (s.dieId t)
  | 0x006 => some (dieOf t.core)
  | 0x008 => some t.vbase
  | 0x009 => some t.fstat.toNat
  | 0x00A => some t.frm.toNat
  | 0x00B => some t.wcnt
  | 0x00C => some t.mstat.toNat
  | 0x00D => some t.flogen.toNat
  | 0x010 => some (s.timeOf t)
  | 0x011 => some (s.cycleFor t)
  | 0x012 => some (s.ctx t.ctx).energy
  | 0x013 => some (s.ctx t.ctx).budget
  | 0x014 => some (s.ctx t.ctx).tdmask.toNat
  | 0x018 => some t.trapcause.toNat
  | 0x019 => some t.trappc.toNat
  | 0x01A => some t.trapaddr.toNat
  | 0x01B => some t.trapinfo.toNat
  | 0x01C => some t.tvec.toNat
  | 0x020 => some (num t.fixq * 2 ^ 10 + t.quota)
  | 0x021 => some t.bound.length
  | 0x030 => some t.tx.stat
  | 0x031 => some t.wtimeout.toNat
  | _ => none

/-- The value of a privileged CSR (R123). -/
def State.csrPriv (s : State) (t : Thread) (n : Nat) : Option Nat :=
  match n with
  | 0x400 => some t.tepc.toNat
  | 0x410 => some (s.ctx t.ctx).ptroot
  | 0x4E0 => some (s.err.status * 2 ^ 6 + num s.err.ue * 2 ^ 5 + s.err.target * 2 ^ 2)
  | 0x4E1 => some s.err.addr
  | 0x4E4 => some s.dies.value
  | 0x4F0 => some (s.unreach.toNat * 2 ^ 48 + s.reroute.toNat * 2 ^ 32 + s.replayed.toNat)
  | 0x4F2 => some s.down.toNat
  | 0x4F8 => some (num s.fxEn * 2 ^ 63 + s.fxBase * 2 ^ 38)
  | _ => none

/-- The value a number reads as. -/
def State.csrValue (s : State) (n : Nat) : Word :=
  BitVec.ofNat 64 (((s.csrUser s.th n).orElse fun _ => s.csrPriv s.th n).getD 0)

/-- A read of TIME is kept (R21). -/
def State.keepTime (s : State) (n : Nat) : State :=
  if n = 0x010 then { s with th := { s.th with timeKept := s.timeOf s.th } } else s

/-! ### Writing -/

/-- Bits 63:2 of an address register. -/
def clear2 (v : Word) : Word := v - BitVec.ofNat 64 (v.toNat % 4)

/-- FSTAT := v (R132, R194). -/
def Thread.setFstat (t : Thread) (v : Word) : Thread := { t with fstat := v.setWidth 5 }

/-- FRM := v (R131, R194). -/
def Thread.setFrm (t : Thread) (v : Word) : Thread := { t with frm := v.setWidth 3 }

/-- MSTAT bits written as 1 are cleared (R194, R312). -/
def Thread.clearMstat (t : Thread) (v : Word) : Thread := { t with mstat := t.mstat &&& ~~~v.setWidth 3 }

/-- The error a GO plants (R405): in the home line, in a row, in a local-store word, in a core's next Barrow sector. -/
def State.plant (s : State) : State :=
  let e := s.err
  let p : Plant := ⟨e.target, e.ue, e.addr⟩
  let planted (s : State) : State := s.setErr fun e => { e with status := 1, plant := some p }
  match e.target with
  | 0 => match s.lines.get? (e.addr / 256) with
    | some l => planted { s with lines := s.lines.set (e.addr / 256) { l with ue := some e.ue } }
    | none => s.setErr fun e => { e with status := 3 }
  | 1 => planted s
  | 2 => planted s
  | 3 => planted s
  | _ => s.setErr fun e => { e with status := 3 }

/-- A write of ERRINJ (R404, R405): a GO while STATUS is PLANTED is ignored. -/
def State.writeErrinj (s : State) (v : Word) : State :=
  let was := s.err.status
  let s := s.setErr fun e => { e with ue := v.getLsbD 5, target := v.toNat / 4 % 8 }
  if v.getLsbD 0 && was ≠ 1 then s.plant else s

/-- A die becomes DRAINING (R402, step 1): a request on a die that is neither ONLINE nor DRAINING changes nothing. -/
def State.drainDie (s : State) (die : Nat) : State :=
  let d := { s.dies with die := die % 4 }
  { s with dies := if d.states.getD (die % 4) 0 < 2 then { d with states := d.states.set (die % 4) 1 } else d }

/-- CANCEL (R401): a DRAINING die returns to ONLINE. -/
def State.cancelDrain (s : State) (die : Nat) : State :=
  let d := { s.dies with die := die % 4 }
  { s with dies := if d.states.getD (die % 4) 0 = 1 then { d with states := d.states.set (die % 4) 0 } else d }

/-- A write of DIECTL (R401). -/
def State.writeDiectl (s : State) (v : Word) : State :=
  let die := v.toNat % 4
  let s := { s with dies := { s.dies with die := die } }
  let s := if v.getLsbD 3 then s.cancelDrain die else s
  if v.getLsbD 2 then s.drainDie die else s

/-- LINKCTL.DOWN for one port (R347). -/
def State.setDown (s : State) (port : Nat) (b : Bool) : State :=
  let m : BitVec 32 := BitVec.ofNat 32 (2 ^ (port % 32))
  { s with down := if b then s.down ||| m else s.down &&& ~~~m }

/-- A write of a CSR by the running thread under its fields' access codes (R4, R124). -/
def State.csrWrite (s : State) (n : Nat) (v : Word) : State :=
  match n with
  | 0x009 => s.modTh (·.setFstat v)
  | 0x00A => s.modTh (·.setFrm v)
  | 0x00C => s.modTh (·.clearMstat v)
  | 0x00D => s.modTh fun t => { t with flogen := v.setWidth 7 }
  | 0x01C => s.modTh fun t => { t with tvec := clear2 v }
  | 0x031 => s.modTh fun t => { t with wtimeout := v.setWidth 40 }
  | 0x400 => s.modTh fun t => { t with tepc := clear2 v }
  | 0x410 => if s.th.frailor then s.modCtx s.th.ctx fun c => { c with ptroot := bits v.toNat 51 11 * 2 ^ 11 } else s
  | 0x4E0 => s.writeErrinj v
  | 0x4E1 => s.setErr fun e => { e with addr := v.toNat % 2 ^ 52 }
  | 0x4E4 => if s.th.frailor then s.writeDiectl v else s
  | 0x4F2 => { s with down := v.setWidth 32 }
  | 0x4F8 => { s with fxEn := v.getLsbD 63, fxBase := bits v.toNat 51 38 }
  | _ => s

/-! ### Instructions -/

/-- csrr (R124). -/
def execCsrr (d : Reg) (n : BitVec 11) (s : State) : Res :=
  s.guarded (encRi 0x2D d 0 n) fun s =>
    .next ((s.keepTime n.toNat).sset d (s.csrValue n.toNat)).adv

/-- csrw (R124). -/
def execCsrw (a : Reg) (n : BitVec 11) (s : State) : Res :=
  s.guarded (encRi 0x2E 0 a n) fun s =>
    .next (s.csrWrite n.toNat (s.sget a)).adv

/-! ### The register writes listed as events -/

/-- errinj go (R405). -/
def execErrinjGo (v : Word) (s : State) : Res :=
  .next (s.writeErrinj (v ||| 1))

/-- diectl go (R402). -/
def execDiectlGo (die : Nat) (s : State) : Res :=
  .next (s.drainDie die)

/-- diectl cancel (R401). -/
def execDiectlCancel (die : Nat) (s : State) : Res :=
  .next (s.cancelDrain die)

/-- linkctl down set (R347). -/
def execLinkctlDownSet (port : Nat) (s : State) : Res :=
  .next (s.setDown port true)

/-- linkctl down clear (R347). -/
def execLinkctlDownClear (port : Nat) (s : State) : Res :=
  .next (s.setDown port false)

/-- fstat write (R194). -/
def execFstatWrite (v : Word) (s : State) : Res :=
  .next (s.modTh (·.setFstat v))

/-- frm write (R194). -/
def execFrmWrite (v : Word) (s : State) : Res :=
  .next (s.modTh (·.setFrm v))

/-- mstat clear (R194). -/
def execMstatClear (v : Word) (s : State) : Res :=
  .next (s.modTh (·.clearMstat v))

/-! ### Words that are no instruction (R118) -/

/-- illegal instruction (R118). -/
def execIllegalInstruction (w : W32) (s : State) : Res :=
  match s.th.partner with
    | none => s.raise cIllegal 0 (w.setWidth 64)
    | some v => s.pairGate w v fun s => s.raise cIllegal 0 (w.setWidth 64)

end Sys2Proof.Machine
end

