-- ==== Sys2Proof/Machine/System.lean ====
section
/-! DEFINITION. System instructions: trap, sret, pgres, mapu, tlbinv, lanerd and lanewr, major 0x7D, with the time limit of a fault
(R266 to R272, R298, R371 to R373, R380, R381, R387). -/

namespace Sys2Proof.Machine

open Sys2Proof

/-! ### Return from trap mode (R269, R378, R387) -/

/-- The return is one instruction of the thread's program order. -/
def Thread.counted (t : Thread) : Thread := { t with seq := t.seq + 1, icount := t.icount + 1 }

/-- `sret`, once the handler's accesses are done: the thread and its shadow leave trap mode, one that was asleep sleeps on (R243), and what
is due is taken. -/
def State.doSret (s : State) : State :=
  let u := s.th.uid
  let s := ((s.modThread u Thread.counted).leaveTrap u).sleepResume u
  let s := match s.th.partner with
    | some v => (s.modThread v Thread.counted).leaveTrap v
    | none => s
  s.takeDue u

/-! ### pgres (R271, R298, R380, R381) -/

/-- The current trap is one that `pgres` with address 0 resolves, in a default context as in a self-handling one (DEDUCED,
log 36). -/
def Thread.resolvable (t : Thread) : Bool :=
  let cause := t.trapcause.toNat % 256
  let code := t.trapinfo.toNat % 256
  t.trapMode && (t.trapBarrow.isSome || cause = cPageFault || (cause = cAccessFault && decide (11 ≤ code) && decide (code ≤ 13)))

/-- `pgres` with address 0: the executing wave's own fault. -/
def State.resolveOwn (s : State) (action : Nat) : State :=
  if !s.th.resolvable || action = 3 then s.adv
  else match s.th.trapBarrow with
    | some id => (s.barResolve s.th.core id action).adv
    | none => match action with
      | 0 => { s with th := { s.th with tepc := s.th.trappc } }.adv
      | 1 => { s with th := { s.th with tepc := s.th.trappc + 4 } }.adv
      | _ => if s.th.frailor then s.adv else s.haltWave s.th.uid 0x1A s.th.trappc

/-- The lanes of a fault record: its triple, or the scalar access. -/
def recordLanes (b : List Byte) : List Nat :=
  if hasBit (fld b 2 2) 1 then lanes.filter fun j => hasBit (fld b (16 + 4 * (j / 32)) 4) (j % 32) else [127]

/-- DATA of the fault record that EMULATED resolves, as the handler left it (R379, R381); none: it has not come from another package
yet. -/
def State.recordData (s : State) (ctx addr : Nat) : State × Option Nat :=
  match (s.ctx ctx).faults.find? fun r => r.addr = addr with
  | none => (s, some 0)
  | some r =>
    if r.barrow.isSome then (s, some 0)
    else match s.faultRead ctx (addr + 48) 1 r with
      | (s, .bytes b) => (s, some (leNat b))
      | (s, .bad) => (s, some 0)
      | (s, _) => (s, none)

/-- The faulting wave goes on at its instruction, ready from now on (R48). -/
def Thread.unstall (t : Thread) (now : Nat) (e : Option (List Nat × Nat)) : Thread :=
  { t with faultRec := none, wait := none, emulated := e, lastIssue := now }

/-- `pgres` on a fault record of a context; data: the record's DATA. -/
def State.resolveRecord (s : State) (ctx addr action data : Nat) : State :=
  match (s.ctx ctx).faults.find? fun r => r.addr = addr with
  | none => s
  | some r =>
    if action = 3 then s
    else
      let s := s.modCtx ctx fun c => { c with faults := c.faults.filter fun x => x.addr ≠ addr }
      match r.barrow with
      | some (core, id) => s.barResolve core id action
      | none =>
        if (s.thread r.uid).gone || decide ((s.thread r.uid).faultRec ≠ some addr) then s
        else match action with
          | 2 => s.haltWave r.uid 0x1A (s.thread r.uid).pc
          | 1 =>
            let kind := fld r.bytes 1 1
            let e := if kind = 3 || kind = 6 then none else some (recordLanes r.bytes, data)
            s.modThread r.uid (·.unstall s.cycles e)
          | _ => s.modThread r.uid (·.unstall s.cycles none)

/-! ### mapu and tlbinv (R272, R372, R373) -/

/-- Any byte of a range is mapped. -/
def State.mapped (s : State) (ctx va n : Nat) : Bool :=
  (s.leaves ctx).any fun l => decide (l.va < va + n) && decide (va < l.va + 2 ^ l.sh)

/-- The lowest run of k free pool pages, aligned to its size, whose home die is ONLINE. -/
def State.freeRun (s : State) (ctx k : Nat) : Option Nat :=
  let ps := (s.ctx ctx).poolPages
  let starts := ps.filter fun p => p % k = 0 && s.dieOnline (homeDie (p * 2 ^ 16)) && (List.range k).all fun i => ps.contains (p + i)
  starts.foldl (fun best p => match best with
    | none => some p
    | some b => some (min b p)) none

/-- Zero the bytes of a physical range: no copy of them stays anywhere. -/
def State.zeroRange (s : State) (pa n : Nat) : State :=
  let inW (w : Nat) : Bool := decide (pa ≤ 4 * w) && decide (4 * w < pa + n)
  { s with
    tier := s.tier.filter fun p => !(decide (pa ≤ p.1) && decide (p.1 < pa + n))
    home := s.home.filter fun p => !inW p.1
    memPoison := s.memPoison.filter fun p => !inW p.1
    tierPoison := s.tierPoison.filter fun p => !inW p.1
    cores := s.cores.map fun c => (c.1, { c.2 with l1 := c.2.l1.filter fun p => !inW p.1 }) }

/-- A new page-table table, in memory of the runtime (log 33). -/
def State.newTable (s : State) : State × Nat := ({ s with nextUid := s.nextUid + 1 }, 2 ^ 50 + s.nextUid * 2 ^ 12)

/-- Write a leaf into a context's tables at level size sh, making the tables above it. -/
def State.putLeaf (s : State) (va sh leaf : Nat) : List (Nat × Nat × Nat) → Nat → State
  | [], _ => s
  | (_, l, n) :: rest, tbl =>
    let a := tbl + 8 * (va / 2 ^ l % 2 ^ n)
    if l ≤ sh then s.setEntry a leaf
    else
      let e := (s.homeVal (a / 4)).toNat + 2 ^ 32 * (s.homeVal (a / 4 + 1)).toNat
      if e % 2 = 1 then s.putLeaf va sh leaf rest (bits e 51 8 * 2 ^ 8)
      else match s.newTable with
        | (s, t) => (s.setEntry a (1 + t)).putLeaf va sh leaf rest t

/-- Remove a context's held translations of some 64 KiB pages, or of all, on every core and die. -/
def State.dropXlat (s : State) (ctx va n : Nat) : State :=
  let p := va % 2 ^ 56 / 2 ^ 16
  s.filterTlbs fun k x =>
    let first := k % 2 ^ 40 * 2 ^ (x.bits - 16)
    !(k / 2 ^ 40 / 64 = ctx && (n = 0 || (decide (p < first + 2 ^ (x.bits - 16)) && decide (first < p + n))))

/-- `mapu`: the status, and the page mapped when it is OK (R272). -/
def State.mapPage (s : State) (ctx va f : Nat) : State × Nat :=
  let z := f % 4
  let sh := match z with
    | 0 => 16
    | 1 => 21
    | _ => 30
  let c := s.ctx ctx
  if z = 3 || va % 2 ^ sh ≠ 0 then (s, 4)
  else if va < c.poolVa || c.poolVa + c.poolLen < va + 2 ^ sh then (s, 3)
  else if s.mapped ctx va (2 ^ sh) then (s, 2)
  else match s.freeRun ctx (2 ^ (sh - 16)) with
    | none => (s, 1)
    | some p =>
      let pa := p * 2 ^ 16
      let leaf := 1 + pa + 2 ^ 54 + bits f 9 9 * 2 ^ 55 + bits f 10 10 * 2 ^ 56 + bits f 8 8 * 2 ^ 57 + bits f 7 2 * 2 ^ 58
      let s := s.modCtx ctx fun c => { c with poolPages := c.poolPages.filter fun x => !(decide (p ≤ x) && decide (x < p + 2 ^ (sh - 16))) }
      let s := (s.zeroRange pa (2 ^ sh)).putLeaf va sh leaf levels c.ptroot
      ((s.dropXlat ctx va (2 ^ (sh - 16))).touchDie ctx (homeDie pa), 0)

/-! ### lanerd and lanewr (R270) -/

/-- What `lanerd` finds: of a Frailor core outside its trap mode, where nothing is frozen, in its live registers (DESIGN CHOICE, log
81). -/
def State.laneRead (s : State) (a : Nat) (l : Word) : Word :=
  let i := a % 2 ^ 11
  match a / 2 ^ 12 % 4 with
  | 0 => if 128 ≤ i then 0 else if i = 0 then 0 else s.th.sreg.getD i 0
  | 1 => if 512 ≤ i || 96 ≤ l.toNat then 0 else (lane (s.th.vreadA i) l.toNat).setWidth 64
  | 2 => BitVec.ofNat 64 ((s.csrUser s.th i).getD 0)
  | _ => 0

/-- The register `lanerd` reads lies under an uncorrectable error (R392). -/
def State.lanePoisoned (s : State) (a : Nat) (l : Word) : Bool :=
  let i := a % 2 ^ 11
  match a / 2 ^ 12 % 4 with
  | 0 => decide (i < 128) && s.th.sPoison.has i
  | 1 => decide (i < 512) && decide (l.toNat < 96) && s.th.vPoison.has (96 * i + l.toNat)
  | _ => false

/-- The CSR that `lanerd` reads, past every number where it reads none. -/
def laneCsrNum (a : Nat) : Nat := if a / 2 ^ 12 % 4 = 2 then a % 2 ^ 11 else 2 ^ 11

/-- What `lanewr` writes: on a Frailor core outside its trap mode, its live registers (DESIGN CHOICE, log 81). -/
def State.laneWrite (s : State) (a : Nat) (l v : Word) : State :=
  let i := a % 2 ^ 11
  match a / 2 ^ 12 % 4 with
  | 0 => if i = 0 || 128 ≤ i then s
    else { s with th := { s.th with
      sreg := s.th.sreg.set i v, sPoison := s.th.sPoison.erase i, out := s.th.out.map (dropScalar (BitVec.ofNat 7 i) false) } }
  | 1 => if 512 ≤ i || 96 ≤ l.toNat then s
    else { s with th := { (s.th.live i).vwriteA i (· = l.toNat) (fun _ => v.setWidth 32) with out := s.th.out.map (dropVector i) } }
  | 2 => if (s.csrUser s.th i).isSome then s.csrWrite i v else s
  | _ => s

/-- FAULT_RESOLUTION_TIMEOUT (R380): a record that stands for 2^24 ticks ends its context. -/
def State.faultTimeout (s : State) (ctx addr : Nat) : State :=
  match (s.ctx ctx).faults.find? fun r => r.addr = addr with
  | some r => if 2 ^ 24 ≤ s.now - r.since then s.terminate ctx (fld r.bytes 0 1) false else s
  | none => s

/-! ### Instructions -/

/-- trap (R267). -/
def execTrap (a : Reg) (s : State) : Res :=
  s.guarded (encRr 0x7D 0 0 a 0) fun s => s.raise cSoftwareTrap 0 (s.sget a)

/-- sret (R269). -/
def execSret (s : State) : Res :=
  s.guarded (encRr 0x7D 1 0 0 0) fun s =>
    if s.th.count .ld ≠ 0 || s.th.count .st ≠ 0 then .next (s.waitAt .memory)
    else s.trapPoint (fun _ => true) fun s => .next s.doSret

/-- pgres (R271). -/
def execPgres (a : Reg) (s : State) : Res :=
  s.guarded (encRr 0x7D 2 0 a 0) fun s =>
    let x := s.src 0 a
    let v := x.toNat
    let ctx := s.th.ctx
    if v / 64 = 0 then .next (s.resolveOwn (v % 4))
    else if v % 4 ≠ 1 then .next (s.resolveRecord ctx (v / 64 * 64) (v % 4) 0).adv
    else match s.recordData ctx (v / 64 * 64) with
      | (s, some data) => .next (s.resolveRecord ctx (v / 64 * 64) 1 data).adv
      | (s, none) => .next (s.waitWith .memory [x])

/-- mapu (R272). -/
def execMapu (d : Reg) (a : Reg) (b : Reg) (s : State) : Res :=
  s.guarded (encRr 0x7D 3 d a b) fun s =>
    match s.mapPage s.th.ctx (s.sget a).toNat (s.sget b).toNat with
    | (s, st) => .next (s.sset d (BitVec.ofNat 64 st)).adv

/-- tlbinv (R272). -/
def execTlbinv (a : Reg) (b : Reg) (s : State) : Res :=
  s.guarded (encRr 0x7D 4 0 a b) fun s => .next (s.dropXlat s.th.ctx (s.sget a).toNat (s.sget b).toNat).adv

/-- lanerd (R270). -/
def execLanerd (d : Reg) (a : Reg) (b : Reg) (s : State) : Res :=
  s.guarded (encRr 0x7D 5 d a b) fun s =>
    if s.lanePoisoned (s.sget a).toNat (s.sget b) then s.raise cUeConsumed 0 0
    else .next ((s.keepTime (laneCsrNum (s.sget a).toNat)).sset d (s.laneRead (s.sget a).toNat (s.sget b))).adv

/-- lanewr (R270). -/
def execLanewr (d : Reg) (a : Reg) (b : Reg) (s : State) : Res :=
  s.guarded (encRr 0x7D 6 d a b) fun s => .next (s.laneWrite (s.sget a).toNat (s.sget b) (s.sget d)).adv

/-! ### Events -/

/-- fault resolution timeout (R380). -/
def execFaultResolutionTimeout (ctx : Nat) (record : Nat) (s : State) : Res :=
  .next (s.faultTimeout ctx record)

/-- asynchronous trap delivery (R375). -/
def execAsynchronousTrapDelivery (uid : Nat) (s : State) : Res :=
  match (s.thread uid).async with
  | a :: rest =>
    let t := s.thread uid
    .next (if t.gone || t.trapMode || !s.pairLevel t then s else (s.setThread { t with async := rest }).takeTrap uid (a.trap t.pc))
  | [] => .next s

end Sys2Proof.Machine
end

