-- ==== Sys2Proof/Machine/Traffic.lean ====
section
/-! DEFINITION. What passes between cores, homes and owners: completions of loads and stores, registration, forwarding,
revocation and refusal, fills of the L1, the LLC and the instruction buffers, walks, and the Trellis release (R78, R79, R86,
R189, R256, R273, R274, R371, R408). -/

namespace Sys2Proof.Machine

open Sys2Proof

/-! ### Single messages of an access (R78, R86) -/

/-- An access and one of its parts, if that part is enabled and not yet begun. -/
def State.idlePart (s : State) (u seq : Nat) (c : Ctr) (i : Nat) : Option (Access × Part) :=
  match (s.thread u).access seq c with
  | none => none
  | some a => match a.parts[i]? with
    | some p => if p.phase = .idle && s.partEnabled (s.thread u) a p then some (a, p) else none
    | none => none

/-- The access of a thread with a program-order number, in either counter. -/
def Thread.accessCtr (t : Thread) (seq : Nat) : Ctr := if (t.access seq .ld).isSome then .ld else .st

/-- The part takes a new phase. -/
def Access.withPart (a : Access) (i : Nat) (ph : Phase) : Access :=
  { a with parts := a.parts.mapIdx fun k p => if k = i then { p with phase := ph } else p }

/-- The part is not in a transaction that has its lane open. -/
def Thread.plainPart (t : Thread) (a : Access) (p : Part) : Bool := !(a.tx && (t.tx.lanes.get? p.lane).isSome)

/-- REG_REQ (R78, steps 1 and 2): the home grants the registration, or refuses it. -/
def State.requestReg (s : State) (u seq i : Nat) : State :=
  match s.idlePart u seq .st i with
  | none => s
  | some (a, p) =>
    let t := s.thread u
    match p.place with
    | .mem pa region =>
      if !a.kind.isStore || !t.plainPart a p || !(a.policy = .l1 || (a.policy = .st && (s.l1 t.core (pa / 4)).isSome)) then s
      else if s.holdsReg (s.who t) (pa / 4) then s.settle u (a.withPart i .granted)
      else
        let s := s.lineFirst u a p
        if (s.thread u).life = .stopped then s
        else match s.regReq (s.who t) u (pa / 4) region with
        | (s, .ok _) => s.settle u (a.withPart i .granted)
        | (s, r) => s.settle u (a.withPart i (resStore r))
    | _ => s

/-- The word is registered to another agent. -/
def State.foreign (s : State) (t : Thread) (w : Nat) : Bool := match s.home.get? w with
  | some (.registered o) => o ≠ s.ownerOf t
  | _ => false

/-- REG_FWD (R86): the owner answers a load with its value; it stays the owner. -/
def State.forward (s : State) (u seq i : Nat) : State :=
  match s.idlePart u seq .ld i with
  | none => s
  | some (a, p) =>
    let t := s.thread u
    match p.place with
    | .mem pa region =>
      if !a.kind.isLoad || !t.plainPart a p || !s.foreign t (pa / 4) || (s.raceCheck (s.ownerOf t) (pa / 4)).isSome then s
      else
        let s := s.lineFirst u a p
        if (s.thread u).life = .stopped then s
        else match s.loadWord (s.who t) u a.policy (pa / 4) region with
        | (s, r) => s.modThread u fun t => { t with out := t.out.map fun b =>
            if b.seq = seq && b.ctr = .ld then a.withPart i (resPhase r (pa % 4) p.n) else b }
    | _ => s

/-- A refusal of one part of a vector store or atomic refuses every lane that meets in its word: their request is one (R92, R228). -/
def Access.refusedWith (a : Access) (i : Nat) (p : Part) (ph : Phase) : Access :=
  let b := a.withPart i ph
  { b with parts := shareNaks (if a.kind.isLoad then b.parts else b.parts.map fun q => if q.phase = .idle && q.sameWord p then { q with phase := ph } else q) }

/-- RACE_NAK (R86): a refused part is not performed; its trap becomes pending. -/
def State.refuse (s : State) (u seq i : Nat) : State :=
  match s.idlePart u seq ((s.thread u).accessCtr seq) i with
  | none => s
  | some (a, p) =>
    let t := s.thread u
    match p.place with
    | .mem pa _ =>
      let c := if a.kind.isAtomic then s.atomCheck (s.who t) (wordsOf pa p.n) else
        (s.raceCheck (s.ownerOf t) (pa / 4)).map fun (x : Nat × Nat × BitVec 32) => (pa / 4, x)
      let hit := a.kind.isLoad && (s.l1 t.core (pa / 4)).any fun e => !e.registered && a.policy ≠ .llc
      match c with
      | some (w, need, found, y) =>
        if !t.plainPart a p || a.kind.isSend || hit then s
        else (s.logRace (s.ownerOf t) w (raceCause a.kind) need found y).settle u (a.refusedWith i p (.nak need found y))
      | none => s
    | _ => s

/-! ### Fills (R84, R408) -/

/-- A translation that a core itself holds. -/
def State.coreXlat (s : State) (core ctx va : Nat) : Option Xlat := tlbFind (s.core core).tlb ctx va

/-- L1_FILL: a line returns from its home, of a page whose translation the core holds (R374). -/
def State.fillL1 (s : State) (core ctx va : Nat) : State :=
  if va / 2 ^ 56 ≠ 0 then s
  else match s.coreXlat core ctx va with
    | some x => if x.ns then s else (match placeOf (x.addr va) x.region with
      | .mem pa r => s.fillLine core ctx 0 pa r
      | _ => s)
    | none => s

/-! ### Instruction fetch (R69, R109, R273, R274) -/

/-- What a fetch of one word finds. -/
inductive FetchWord where
  | word (v : W32)
  /-- Registered below the required scope, or not answered yet. -/
  | unfilled
  | poisoned
  deriving DecidableEq, Repr

/-- One word of a line as the fetching agent reads it: its L1 as it stands, or a fill from the home (R273, R274); a lost die, or a commit
that holds the word, leaves it unfilled (R400, R105). -/
def State.fetchWord (s : State) (u w region : Nat) : State × FetchWord :=
  let t := s.thread u
  match s.l1 t.core w with
  | some e => (s, if e.bad then .poisoned else .word e.data)
  | none =>
    if (s.raceCheck (s.ownerOf t) w).isSome || !s.placeReady t.core u (.mem (4 * w) region) 4 then (s, .unfilled)
    else match (s.readLine w).loadHome (s.who t) w with
      | (s, .ok v) => (s.l1Put t.core u w ⟨false, v, 0, 0, region, false⟩, .word v)
      | (s, .bad) => (s, .poisoned)
      | (s, _) => (s, .unfilled)

/-- Put a word into the instruction buffers, or mark it unfilled. -/
def State.buffer (s : State) (core key : Nat) (r : FetchWord) : State :=
  s.modCore core fun c => match r with
    | .word v => { c with ibuf := c.ibuf.set key v, unfilled := c.unfilled.erase key }
    | .unfilled => { c with unfilled := c.unfilled.set key true }
    | .poisoned => c

/-- The words of the line around an address that the buffers do not hold, each by its own row of R274; a miss counts once (R52). Buffered
words stay as they are (R273). -/
def State.fetchLine (s : State) (u va pa region : Nat) : State :=
  let t := s.thread u
  let key (i : Nat) : Nat := bufKey t.ctx (va / 64 * 64 + 4 * i)
  let miss := (List.range 16).filter fun i => !(s.core t.core).ibuf.has (key i)
  let s := if miss.all fun i => (s.l1 t.core (pa / 64 * 16 + i)).isSome then s else s.scoreMiss t.core (pa / 64 * 16)
  miss.foldl (fun s i =>
    match s.fetchWord u (pa / 64 * 16 + i) region with
    | (s, r) => s.buffer t.core (key i) r) s

/-- What a fetch at a thread's pc comes to. -/
inductive Fetch where
  | filled
  | stalled
  | trap (cause code : Nat)
  deriving DecidableEq, Repr

/-- Words of a line on a page of another package (R368) that a core has asked for. -/
def State.lineAsked (s : State) (core ctx line : Nat) : Option LineFetch :=
  (s.core core).fetching.find? fun l => l.ctx = ctx && l.line = line

/-- What the answer to one fetched word of another package comes to (R274, R369). -/
def fetchReply : Phase → FetchWord
  | .got v => .word (BitVec.ofNat 32 v)
  | .poisoned => .poisoned
  | _ => .unfilled

/-- A word of another package enters the fetching L1 Valid, as a load's does, and the instruction buffers where they lack it. -/
def State.remoteFilled (s : State) (u : Nat) (p : Part) : State :=
  let t := s.thread u
  let s := match p.phase with
    | .got v => s.fillFar t.core u p (BitVec.ofNat 32 v)
    | _ => s
  if (s.core t.core).ibuf.has (bufKey t.ctx p.va) then s else s.buffer t.core (bufKey t.ctx p.va) (fetchReply p.phase)

/-- A line on a page of another package: its words are taken from the L1 as it stands, the others asked for at their home, each
by its own packet (R273, R274, R369). -/
def State.fetchRemote (s : State) (u va pkg o region : Nat) : State × Fetch :=
  let t := s.thread u
  match s.lineAsked t.core t.ctx (va / 64) with
  | some l =>
    if l.parts.any fun p => p.phase.onWay then (s, .stalled)
    else
      let s := s.modCore t.core fun c => { c with fetching := c.fetching.filter (· ≠ l) }
      let s := l.parts.foldl (fun s p => s.remoteFilled u p) s
      (s, match (l.parts.find? fun p => p.va = va).map (fun p => fetchReply p.phase) with
        | some .poisoned => .trap cUeConsumed 0
        | some (.word _) => .filled
        | _ => .stalled)
  | none =>
    let key (i : Nat) : Nat := bufKey t.ctx (va / 64 * 64 + 4 * i)
    let at' (i : Nat) : Place := .remote pkg (o / 64 * 64 + 4 * i) region
    let held (i : Nat) : Option L1Word := s.l1 t.core ((at' i).pa / 4)
    let want := (List.range 16).filter fun i => !(s.core t.core).ibuf.has (key i)
    let s := want.foldl (fun s i => match held i with
      | some e => s.buffer t.core (key i) (if e.bad then .poisoned else .word e.data)
      | none => s) s
    let miss := want.filter fun i => (held i).isNone
    match held (va % 64 / 4) with
    | some e => (s, if e.bad then .trap cUeConsumed 0 else .filled)
    | none =>
      if !s.canSend pkg miss.length then (s, .stalled)
      else
        let ph := (s.ctx t.ctx).phase
        let r := miss.foldl (fun (r : State × List Part) i =>
          match r.1.sendPacket pkg t.ctx (s.ownerOf t) t.pc (o / 64 * 64 + 4 * i) .fetch none ph with
          | (x, q) => (x, r.2 ++ [⟨127, va / 64 * 64 + 4 * i, at' i, 4, 0, 0, 0, .sent pkg q⟩])) (s.scoreMiss t.core ((at' 0).pa / 4), [])
        (r.1.modCore t.core fun c => { c with fetching := c.fetching ++ [⟨t.ctx, va / 64, r.2⟩] }, .stalled)

/-- A line of host memory comes from its bridge into the instruction buffers (R414). -/
def State.fetchHost (s : State) (u va i a : Nat) : State :=
  let t := s.thread u
  (List.range 16).foldl (fun s k =>
    let key := bufKey t.ctx (va / 64 * 64 + 4 * k)
    if (s.core t.core).ibuf.has key then s
    else s.buffer t.core key (.word (BitVec.ofNat 32 (s.hostGet i (a / 64 * 64 + 4 * k) 4)))) (s.touchDie t.ctx i)

/-- The fill at a thread's pc: aperture and translation with the X permission, then the line (R69, R273). -/
def State.fetchAt (s : State) (u : Nat) : State × Fetch :=
  let t := s.thread u
  let va := t.pc.toNat
  if va / 2 ^ 56 ≠ 0 then (s, .trap cAccessFault 14)
  else match s.translate t.core t.ctx va .fetch with
    | (s, .error .stall) => (s, .stalled)
    | (s, .error (.trap cause code)) => (s, .trap cause code)
    | (s, .ok x) => match placeOf (x.addr va) x.region with
      | .mem pa r =>
        let s := s.fetchLine u va pa r
        if (s.core t.core).ibuf.has (bufKey t.ctx va) then (s, .filled)
        else match s.fetchWord u (pa / 4) r with
          | (s, .poisoned) => (s, .trap cUeConsumed 0)
          | (s, _) => (s, .stalled)
      | .host i a => if !s.hostUp i then (s, .stalled) else (s.fetchHost u va i a, .filled)
      | .remote pkg o g => s.fetchRemote u va pkg o g
      | _ => (s, .stalled)

/-- The wave stalls before an instruction it could not fetch (R274); a wait that it has already goes on. -/
def State.stallFetch (s : State) : State := if s.th.wait.isSome then s else s.waitAt .fetch

/-- A stall before a fetch is over. -/
def State.unstallFetch (s : State) : State :=
  match s.th.wait with
  | some w => if w.kind = .fetch then { s with th := { s.th with wait := none, lastIssue := s.cycles } } else s
  | none => s

/-- The 64 KiB pages from a thread's pc up to an address: the core holds the translation of each, and none is NS (R374). -/
def State.aheadHeld (s : State) (t : Thread) (va : Nat) : Bool :=
  let p := t.pc.toNat / 2 ^ 16
  decide (va / 2 ^ 56 = 0) && (List.range (va / 2 ^ 16 - p + 1)).all fun i => (s.coreXlat t.core t.ctx ((p + i) * 2 ^ 16)).any fun x => !x.ns

/-- Run-ahead fetch: a line behind that of the pc, of a page whose translation the core holds; it never walks, never faults, and
waits for nothing (R109, R374). -/
def State.fetchAhead (s : State) (u lines : Nat) : State :=
  let t := s.thread u
  let va := (t.pc.toNat / 64 + lines) * 64
  if !s.aheadHeld t va then s
  else match s.coreXlat t.core t.ctx va with
    | none => s
    | some x =>
      if !x.x then s
      else match placeOf (x.addr va) x.region with
        | .mem pa r => s.fetchLine u va pa r
        | .host i a => if s.hostUp i then s.fetchHost u va i a else s
        | .remote pkg o g => (s.fetchRemote u va pkg o g).1
        | _ => s

/-- A thread whose next word is still to be fetched. -/
def State.wantsWord (s : State) (t : Thread) : Bool :=
  t.life = .running && !t.stalled && (decide (t.pc.toNat / 2 ^ 56 ≠ 0) || !(s.core t.core).ibuf.has (bufKey t.ctx t.pc.toNat))

/-- FETCH_FILL: the line of a thread's next word, or (ahead) a later line. For the running thread, which executes the word, a
fault is its trap (R109, R273). -/
def State.fetchFill (s : State) (u ahead : Nat) : Res :=
  if ahead ≠ 0 then .next (if (s.thread u).life = .running then s.fetchAhead u ahead else s)
  else if !s.wantsWord (s.thread u) then .next s
  else match s.fetchAt u with
    | (s, .filled) => .next (if u = s.th.uid then s.unstallFetch else s)
    | (s, .stalled) => .next (if u = s.th.uid then s.stallFetch else s)
    | (s, .trap cause code) =>
      if u ≠ s.th.uid then .next s
      else
        let info := if cause = cUeConsumed then 0 else faultInfo .fetch 127 code
        s.faulted ⟨cause, false, s.th.pc, if cause = cUeConsumed then 0 else s.th.pc, info, none⟩ 3 false []

/-- The unfilled word at a thread's pc is tried again by itself, at its home or by a packet of its own (R274, R369). -/
def State.retryWord (s : State) (u : Nat) : State × Fetch :=
  let t := s.thread u
  let va := t.pc.toNat
  match s.translate t.core t.ctx va .fetch with
  | (s, .error _) => (s, .stalled)
  | (s, .ok x) => match placeOf (x.addr va) x.region with
    | .mem pa r => match s.fetchWord u (pa / 4) r with
      | (s, .word v) => (s.buffer t.core (bufKey t.ctx va) (.word v), .filled)
      | (s, _) => (s, .stalled)
    | .remote pkg o g =>
      if (s.lineAsked t.core t.ctx (va / 64)).isSome then s.fetchRemote u va pkg o g
      else if !s.canSend pkg 1 then (s, .stalled)
      else match s.sendPacket pkg t.ctx (s.ownerOf t) t.pc o .fetch none (s.ctx t.ctx).phase with
        | (s, q) => (s.modCore t.core fun c => { c with fetching := c.fetching ++
            [⟨t.ctx, va / 64, [⟨127, va, .remote pkg o g, 4, 0, 0, 0, .sent pkg q⟩]⟩] }, .stalled)
    | _ => s.fetchAt u

/-- FETCH_RETRY (R274): the unfilled word before which a thread stalls is tried again. -/
def State.fetchRetry (s : State) (u : Nat) : State :=
  let t := s.thread u
  if (s.core t.core).unfilled.has (bufKey t.ctx t.pc.toNat) && decide (t.pc.toNat / 2 ^ 56 = 0) then
    match s.retryWord u with
    | (s, .filled) => if u = s.th.uid then s.unstallFetch else s
    | (s, _) => s
  else s

/-- An outstanding access reaches the line of a word at its home: it is not yet performed and may be, and its L1 does not answer it. -/
def State.reachesLine (s : State) (t : Thread) (a : Access) (p : Part) (line : Nat) : Bool :=
  s.partEnabled t a p && match p.place with
  | .mem pa _ => lineOf (pa / 4) = line && !((a.kind.isLoad || a.kind.isStore) && s.hitsL1 t.core (pa / 4) a.policy && (a.kind.isLoad || s.holdsReg (s.who t) (pa / 4)))
  | _ => false

/-- A fill of a line is due: an outstanding access, or a fetch, reaches it at its home (R408). -/
def State.lineDue (s : State) (line : Nat) : Bool := s.allThreads.any fun t =>
  t.out.any (fun a => a.parts.any fun p => s.reachesLine t a p line) ||
    (s.wantsWord t && (s.coreXlat t.core t.ctx t.pc.toNat).any fun x => match placeOf (x.addr t.pc.toNat) x.region with
      | .mem pa _ => lineOf (pa / 4) = line
      | _ => false)

/-- A home revokes a registration (R302): an atomic of the word that the race rule does not refuse is outstanding (R86), or the word's
line is the one that a due fill of its full LLC set evicts. -/
def State.revokeDue (s : State) (w : Nat) : Bool := s.allThreads.any fun t => t.out.any fun a => a.parts.any fun p => match p.place with
  | .mem pa _ =>
    let line := lineOf (pa / 4)
    (a.kind.isAtomic && (wordsOf pa p.n).contains w && s.partEnabled t a p && (s.atomCheck (s.who t) (wordsOf pa p.n)).isNone) ||
      (s.reachesLine t a p line && !s.lines.has line && sameSet line (lineOf w) && (s.freeWay line).isNone &&
        (s.lruLine line).any fun l => l.1 = lineOf w)
  | _ => false

/-! ### Events -/

/-- load completion (R189). -/
def execLoadCompletion (uid : Nat) (seq : Nat) (parts : List Nat) (s : State) : Res :=
  .next (s.complete uid seq .ld parts)

/-- store completion (R78). -/
def execStoreCompletion (uid : Nat) (seq : Nat) (parts : List Nat) (s : State) : Res :=
  .next (s.complete uid seq .st parts)

/-- reg req (R78). -/
def execRegReq (uid : Nat) (seq : Nat) (part : Nat) (s : State) : Res :=
  .next (s.requestReg uid seq part)

/-- reg fwd (R86). -/
def execRegFwd (uid : Nat) (seq : Nat) (part : Nat) (s : State) : Res :=
  .next (s.forward uid seq part)

/-- reg revoke (R79). -/
def execRegRevoke (pa : Nat) (s : State) : Res :=
  .next (if s.revokeDue (pa / 4) then s.writeBack (pa / 4) false else s)

/-- race nak (R86). -/
def execRaceNak (uid : Nat) (seq : Nat) (part : Nat) (s : State) : Res :=
  .next (s.refuse uid seq part)

/-- l1 fill (R84). -/
def execL1Fill (core : Nat) (ctx : Nat) (va : Nat) (s : State) : Res :=
  .next (s.fillL1 core ctx va)

/-- llc fill (R408). -/
def execLlcFill (pa : Nat) (s : State) : Res :=
  .next (if s.lineDue (lineOf (pa / 4)) && s.dieAnswers pa then (s.readLine (pa / 4)).touchLine (pa / 4) else s)

/-- fetch fill (R273, R374). -/
def execFetchFill (r : LineAsk) (s : State) : Res :=
  s.fetchFill r.uid r.ahead

/-- fetch retry (R274). -/
def execFetchRetry (uid : Nat) (s : State) : Res :=
  .next (s.fetchRetry uid)

/-- page table walk (R371, R408). -/
def execPageTableWalk (core : Nat) (ctx : Nat) (va : Nat) (s : State) : Res :=
  if (s.heldXlat core ctx va).isSome then .next s
  else .next (s.translate core ctx va .load).1.walkReads

/-- trellis release (R256). -/
def execTrellisRelease (id : Nat) (s : State) : Res :=
  .next (s.trellisDue id).trellisAbandon

end Sys2Proof.Machine
end

