-- ==== Sys2Proof/Machine/Service.lean ====
section
/-! DEFINITION. The service runtime and the package's own care: contexts and pools, Trellis identifiers, dies that drain or are
lost, the patrol scrub, the error filter, freeze and the test port (R31, R255, R385, R394, R395, R400 to R403, R422). -/

namespace Sys2Proof.Machine

open Sys2Proof

/-! ### Contexts (R406, R422) -/

/-- Every die that homes a page mapped into a context is touched (R30). -/
def State.touchMapped (s : State) (ctx : Nat) : State := (s.leaves ctx).foldl (fun s l => match placeOf l.pa 0 with
  | .mem pa _ => s.touchDie ctx (homeDie pa)
  | _ => s) s

/-- CONTEXT_CREATION: the runtime's own sizes; a live context is not created again, and before stage 7 of bring-up, or after a failure of
it, there is no runtime (R12, R417, R418). -/
def State.createCtx (s : State) (p : CtxParams) : State :=
  let c := s.ctx p.ctx
  if (c.live && !c.terminated) || decide (s.host.code ≠ 0) || !s.host.ready then s
  else
    State.touchMapped (ctx := p.ctx) { s with ctxs := s.ctxs.set p.ctx { Ctx.reset with
        live := true, ptroot := p.ptroot / 2 ^ 11 * 2 ^ 11, budget := p.budget % 2 ^ 32
        spillFree := p.spillPages * 65536, overFree := p.overPages * 65536
        privBytes := p.privBytes, privBase := p.privBase, poolVa := p.poolVa, poolLen := p.poolLen
        poolPages := p.poolPages.filter fun x => !s.retired.contains x
        handler := p.handler, faultRing := p.faultRing, faultSlots := p.faultSlots, packages := p.packages } }

/-- POOL_ENLARGEMENT, in 64 KiB pages. -/
def State.enlarge (s : State) (ctx spill ovf : Nat) : State :=
  if (s.ctx ctx).live then s.modCtx ctx fun c => { c with spillFree := c.spillFree + spill * 65536, overFree := c.overFree + ovf * 65536 } else s

/-- TRELLIS_IDENTIFIER_BINDING (R255): a generation bit of 0, status OK, nothing counted. -/
def State.bindTrellis (s : State) (id ctx : Nat) (tasks : List Nat) (n : Nat) : State :=
  if decide (id < 64) && decide (tasks.length ≤ 4) && decide (1 ≤ n) && decide (n ≤ 65535) then
    { s with trellis := s.trellis.set id ⟨ctx, tasks, n, 0, false, 0, []⟩ }
  else s

/-! ### Die loss (R31, R385, R400) -/

/-- Registrations held by a die's cores are lost with their data. -/
def State.dropDieRegs (s : State) (die : Nat) : State :=
  { s with
    home := s.home.filter fun p => match p.2 with
      | .registered o => !((oKind o = 0 || oKind o = 1) && oDie o = die && oPkg o = s.pkg)
      | _ => true
    cores := s.cores.filter fun p => !(decide (p.1 < 512) && p.1 / 128 = die) }

/-- A context that a lost die touched, none of whose waves survives: a lost wave without a handler ends it (R31, R375; DESIGN
CHOICE, log 73). dead: the waves lost with the die. -/
def State.endLost (s : State) (dead : List Nat) (ctx : Nat) : State :=
  let mine := s.allThreads.filter fun t => t.ctx = ctx
  if mine.all (·.gone) && mine.any (fun t => dead.contains t.uid && t.tvec = 0) then s.terminate ctx cDieLost false else s

/-- A resident block that has not started takes another place, with its resources; the place's die is touched first (R30). -/
def State.moveUnstarted (s : State) (b : Block) (die : Nat) : Option State :=
  (s.findCore die (s.slotsUsed b) b.lsBytes b.accBanks b.regs b.cls b.dual).map fun core =>
    let s := s.touchDie b.ctx (dieOf core)
    { s with blocks := s.blocks.set b.uid (s.seat b core) }

/-- A block joins the rotation list of a core, whose die is touched first (R30). -/
def State.relist (s : State) (u core : Nat) : State :=
  let s := s.touchDie (s.block u).ctx (dieOf core)
  let s := s.modCore (s.block u).core fun k => { k with rotation := k.rotation.filter (· ≠ u) }
  let s := s.modCore core fun k => { k with rotation := k.rotation ++ [u] }
  s.modBlock u fun b => { b with core := core, resident := false, rotating := true }

/-- A core of an ONLINE die, the first whose rotation list has room. -/
def State.listRoom (s : State) : Option Nat := (List.range 512).find? fun c => s.dieOnline (dieOf c) && decide ((s.core c).rotation.length < 4)

/-- Blocks listed for rotation on the cores of a die. -/
def State.listedOn (s : State) (die : Nat) : List Nat :=
  (s.cores.filter fun p => decide (p.1 < 512) && dieOf p.1 = die).flatMap fun p => p.2.rotation

/-- Blocks that hold no state on a lost die, listed there or placed and not started, take places elsewhere; where every list is full, the
first list of an ONLINE die takes them (DESIGN CHOICE, log 73). -/
def State.leaveLost (s : State) (die : Nat) : State :=
  let core (s : State) : Nat := s.listRoom.getD (128 * (((List.range 4).find? s.dieOnline).getD die))
  let s := (s.listedOn die).foldl (fun s u => s.relist u (core s)) s
  (s.blocks.vals.filter fun b => b.resident && !b.started && dieOf b.core = die).foldl
    (fun s b => (s.moveUnstarted b die).getD (s.relist b.uid (core s))) s

/-- The tasks of a lost die lose their slots, and choose another die (R49, R400; DESIGN CHOICE, log 73). -/
def State.rehome (s : State) (die : Nat) : State :=
  (sortBy taskFirst (s.tasks.vals.filter fun t => t.die = die && !t.isOver)).foldl (fun s t =>
    let s := s.modTask t.uid fun t => { t with slot := none, die := s.roomiestDie }
    if t.reserved = 0 then s.assignSlot t.uid else s) s

/-- A die is declared lost: its units cease, its task slots among them, its fabric ports fail, its host port is down, and every context
that touched it takes DIE_LOST; an OFFLINE or lost die is not declared again. -/
def State.loseDie (s : State) (die : Nat) : State :=
  if 2 ≤ s.dies.states.getD (die % 4) 0 then s
  else
    let die := die % 4
    let s := { s with dies := { s.dies with states := s.dies.states.set die 3 } }
    let s := s.logPkg 0x18 die 0xFFFF
    let dead := (s.allThreads.filter fun t => !t.frailor && t.core / 128 = die && t.life = .running).map (·.uid)
    let s := dead.foldl (fun s u => s.modThread u fun t => { t with life := .stopped, wait := none, out := [] }) s
    let s := ((s.leaveLost die).dropDieRegs die).rehome die
    let s := (List.range 8).foldl (fun s i => s.declareFailed (8 * die + i)) s
    let s := { s with host := { s.host with linkUp := if die < 2 then s.host.linkUp.set die false else s.host.linkUp } }
    let hit := (s.ctxs.filter fun p => p.2.tdmask.getLsbD die).map (·.1)
    let us := (s.allThreads.filter fun t => hit.contains t.ctx && !t.gone).map (·.uid)
    hit.foldl (fun s c => s.endLost dead c) (us.foldl (fun s u => s.postAsync u ⟨cDieLost, 0, 0, none⟩) s)

/-- The die that answers at a place of the package. -/
def Place.die : Place → Option Nat
  | .mem pa _ => some (homeDie pa)
  | .seed o => some (o / 2 ^ 26)
  | _ => none

/-- The place a translated read or write comes to, if it comes to one. -/
def placed (r : State × Except Flaw Xlat) (va : Nat) : Option Place := match r.2 with
  | .ok x => some (placeOf (x.addr va) x.region)
  | .error _ => none

/-- A part of an outstanding access that nothing holds back. -/
def State.openPart (s : State) (u seq part : Nat) : Option (Place × Access) :=
  let t := s.thread u
  ((t.access seq (t.accessCtr seq)).bind fun a => (a.parts[part]?).map fun p => (a, p)).bind fun (x : Access × Part) =>
    if x.2.phase ≠ .idle || !s.partEnabled t x.1 x.2 then none else some (x.2.place, x.1)

/-- The place of the next element of a copy command that has its turn: its source, or its destination. -/
def State.openElem (s : State) (core id : Nat) (src : Bool) : Option Place :=
  (s.barCmd core id).bind fun c =>
    if !s.barReady c || c.suspended.isSome || decide (c.tmpl.total ≤ c.next) then none
    else
      let a := if src then c.tmpl.src c.src c.next else if c.tmpl.xform = 0 then c.tmpl.dst c.dst c.next else (c.tmpl.bytes c.dst c.next).headD 0
      match (s.elemReach c (if src then .barrowSrc else .barrowDst) (!src) a 1).2 with
      | .ok pl => some pl
      | .error _ => none

/-- A request that a compute core has open: the core, where it asks, and the count at its issue where the machine keeps it. -/
def State.openReq (s : State) (r : PartName) : Option (Nat × Place × Option Nat) :=
  let t := s.thread r.uid
  match r.kind with
  | 0 => (s.openPart r.uid r.seq r.part).map fun x => (t.core, x.1, some x.2.since)
  | 1 => (s.openElem r.uid r.seq (r.part = 0)).map fun pl => (r.uid, pl, none)
  | 2 =>
    if t.life ≠ .running || (s.core t.core).ibuf.has (bufKey t.ctx t.pc.toNat) then none
    else (placed (s.translate t.core t.ctx t.pc.toNat .fetch) t.pc.toNat).map fun pl => (t.core, pl, none)
  | 3 =>
    if t.life ≠ .running || (tlbFind (s.core t.core).tlb t.ctx r.seq).isSome then none
    else ((s.walkWords (r.seq % 2 ^ 56) levels (s.ctx t.ctx).ptroot)[r.part]?).map fun w => (t.core, .mem (4 * w) 0, none)
  | _ => (s.colls.find? fun c => c.thr = r.uid && c.seq = r.seq).bind fun c =>
    if (s.sentPart c 0).isSome then none else (c.place (c.send + 4 * r.part)).map fun pl => (c.core, pl, none)

/-- A request that crosses dies and is not answered: its core, the die it asks, and the count at its issue. -/
def State.crossing (s : State) (r : PartName) : Option (Nat × Nat × Option Nat) :=
  (s.openReq r).bind fun x => x.2.1.die.bind fun d => if decide (512 ≤ x.1) || d = dieOf x.1 then none else some (x.1, d, x.2.2)

/-- CROSS_DIE_TIMEOUT (R385): 100 µs after its issue, on the requesting die's reference counter, a request is sent once more by its second
path, 100 µs after that its target is declared lost. link: the second path is the other crossbar link, since the dies are no neighbours.
The first event of a request whose issue nothing records is that issue (log 32). -/
def State.crossTimeout (s : State) (r : PartName) : State :=
  let drop (s : State) : State := { s with crossings := s.crossings.filter fun c => c.req ≠ r }
  match s.crossing r with
  | none => drop s
  | some (core, dst, issued) =>
    let now := s.countAt core
    let src := dieOf core
    let sent (tries : Nat) : State := { drop s with crossings := ⟨r, src, dst, (src + 2) % 4 = dst, tries, now⟩ :: (drop s).crossings }
    match s.crossings.find? fun c => c.req = r with
    | none => match issued with
      | some t0 => if now - t0 < 100000 then s else sent 1
      | none => sent 0
    | some c =>
      if now - c.since < 100000 then s
      else if c.tries = 0 then sent 1
      else (drop s).loseDie dst

/-- REFERENCE_COUNTER_COMPARE (R385): a die whose copy of the reference counter differs from the chiplet's by more than 100 ticks. -/
def State.compareCounter (s : State) (die : Nat) : State := if 100 < (s.skew.getD (die % 4) 0).natAbs then s.loseDie die else s

/-- The comparison of the dies first to last, each once in 10 µs. -/
def State.compareCounters (s : State) (first last : Nat) : State :=
  ((List.range 4).filter fun d => decide (first ≤ d) && decide (d ≤ last)).foldl
    (fun s d => s.periodic 5 d s.now 10000 fun s => s.compareCounter d) s

/-! ### A die that goes offline (R402) -/

/-- One block of the die goes elsewhere; none: it cannot leave yet; false: a class-C block has no place. -/
def State.vacateBlock (s : State) (b : Block) : Option (State × Bool) :=
  let home := dieOf b.core
  if b.started then
    match s.trySave b.uid with
    | none => none
    | some s' => match (s'.findCore home (s'.slotsUsed b) b.lsBytes b.accBanks b.regs b.cls b.dual).filter fun c => s'.commandRoom c (s'.block b.uid) with
      | some core => some (s'.restore b.uid core, true)
      | none => if b.cls = 0 then some (s, false) else some (s', true)
  else match s.moveUnstarted b home with
    | some s' => some (s', true)
    | none => some (s, false)

/-- Every block leaves the die; listed ones join the lists of other cores. -/
def State.vacate (s : State) (die : Nat) : Option (State × Bool) :=
  let bs := s.blocks.vals.filter fun b => b.resident && dieOf b.core = die
  let ls := s.listedOn die
  let r := bs.foldl (fun (r : Option (State × Bool)) b => match r with
    | some (s, true) => s.vacateBlock b
    | r => r) (some (s, true))
  ls.foldl (fun (r : Option (State × Bool)) u => match r with
    | some (s, true) => (match s.listRoom with
      | some c => some (s.relist u c, true)
      | none => some (s, false))
    | r => r) r

/-- 64 KiB pages homed on a die that some context maps. -/
def State.pagesOn (s : State) (die : Nat) : List Nat :=
  (s.liveCtxs.flatMap fun c => (s.leaves c).flatMap fun l =>
    ((List.range (2 ^ (l.sh - 16))).map fun i => l.pa / 2 ^ 16 + i).filter fun p =>
      decide (p * 2 ^ 16 / 2 ^ 45 < 2) && homeDie (p * 2 ^ 16) = die).eraseDups

/-- The pages move, each once for all contexts that map it; answers how many found no place. -/
def State.movePages (s : State) (die : Nat) : State × Nat :=
  (s.pagesOn die).foldl (fun (r : State × Nat) p => match r.1.movePage p die false with
    | some s => (s, r.2)
    | none => (r.1, r.2 + 1)) (s, 0)

/-- The bytes of a die's Seedbank are lost. -/
def State.loseSeed (s : State) (die : Nat) : State :=
  { s with seed := s.seed.filter fun p => p.1 / 2 ^ 26 ≠ die, seedPoison := s.seedPoison.filter fun p => p.1 / 2 ^ 23 ≠ die }

/-- DIE_DRAIN_COMPLETION (R402, steps 2 to 5); while a block cannot reach its point, or a collective in flight pins a page of the die (R358),
the request goes on. -/
def State.drainDone (s : State) (die : Nat) : State :=
  let die := die % 4
  if s.dies.states.getD die 0 ≠ 1 || (s.pagesOn die).any s.pinned then s
  else match s.vacate die with
    | none => s
    | some (s, false) => { s with dies := { s.dies with result := 3 } }
    | some (s, true) =>
      let r := s.movePages die
      if r.2 = 0 then
        { r.1 with dies := { r.1.dies with states := r.1.dies.states.set die 2, result := 1 } }.loseSeed die
      else { r.1 with dies := { r.1.dies with result := 2, short := r.2 } }

/-! ### Scrub, filter, freeze, test port (R394, R395, R403) -/

/-- PATROL_SCRUB: a line that the LLC holds is read. -/
def State.scrub (s : State) (pa : Nat) : State := if (s.lines.get? (pa / 256)).isSome then s.readLine (pa / 4) else s

/-- What the test port reads of an array that State holds: 0 a memory word at its home, 1 a Seedbank word, 2 a scalar register
(thread · 128 + number), 3 a local-store byte (block · 2^20 + offset), 4 an L1 word (core · 2^64 + word), 5 an LLC line's tag, way, dirty
bit (line), 6 a vector element (thread · 2^16 + register · 96 + lane), 7 a tile element (block · 2^24 + slot · 2^14 + element), 8 a word of
an instruction buffer (core · 2^80 + key), 9 a translation of a core (likewise). Where it holds nothing, and for every other array and the
scan chain, the value is log 20's. -/
def State.probed (s : State) (what addr : Nat) : Option Nat :=
  match what with
  | 0 => some (s.homeVal (addr / 4)).toNat
  | 1 => some (s.seedRead (addr / 8 * 8) 8)
  | 2 => some ((s.thread (addr / 128)).sreg.getD (addr % 128) 0).toNat
  | 3 => some ((s.block (addr / 2 ^ 20)).lsRead (addr % 2 ^ 20) 1)
  | 4 => (s.l1 (addr / 2 ^ 64) (addr % 2 ^ 64)).map (·.data.toNat)
  | 5 => (s.lines.get? addr).map fun l => l.tag + 2 ^ 16 * l.way + (if l.dirty then 2 ^ 20 else 0)
  | 6 => ((s.thread (addr / 2 ^ 16)).vreg.get? (addr % 2 ^ 16 / 96)).map fun v => (v.getD (addr % 96) 0).toNat
  | 7 => (((s.block (addr / 2 ^ 24)).tiles.get? (addr % 2 ^ 24 / 2 ^ 14)).bind fun t => t.elems.get? (addr % 2 ^ 14)).map (·.toNat)
  | 8 => ((s.core (addr / 2 ^ 80)).ibuf.get? (addr % 2 ^ 80)).map (·.toNat)
  | 9 => ((s.core (addr / 2 ^ 80)).tlb.get? (addr % 2 ^ 80)).map (·.pa)
  | _ => none

def State.probe (s : State) (what addr : Nat) : Nat := (s.probed what addr).getD (Config.scan what addr)

/-! ### Events -/

/-- context creation (R422). -/
def execContextCreation (p : CtxParams) (s : State) : Res :=
  .next (s.createCtx p)

/-- pool enlargement (R422). -/
def execPoolEnlargement (ctx : Nat) (spill : Nat) (ovf : Nat) (s : State) : Res :=
  .next (s.enlarge ctx spill ovf)

/-- trellis identifier binding (R255). -/
def execTrellisIdentifierBinding (id : Nat) (ctx : Nat) (tasks : List Nat) (n : Nat) (s : State) : Res :=
  .next (s.bindTrellis id ctx tasks n)

/-- cross die timeout (R385). -/
def execCrossDieTimeout (r : PartName) (s : State) : Res :=
  .next (s.crossTimeout r)

/-- reference counter compare (R385). -/
def execReferenceCounterCompare (first : Nat) (last : Nat) (s : State) : Res :=
  .next (s.compareCounters first last)

/-- die drain completion (R402). -/
def execDieDrainCompletion (die : Nat) (s : State) : Res :=
  .next (s.drainDone die)

/-- patrol scrub (R394). -/
def execPatrolScrub (pa : Nat) (s : State) : Res :=
  .next (s.scrub pa)

/-- filter clear (R395). -/
def execFilterClear (s : State) : Res :=
  .next s.filterDue

/-- freeze (R403). -/
def execFreeze (s : State) : Res :=
  .next { s with frozen := true }

/-- thaw (R403). -/
def execThaw (s : State) : Res :=
  .next { s with frozen := false }

/-- test port read (R403). -/
def execTestPortRead (what : Nat) (addr : Nat) (s : State) : Res :=
  .next (if s.frozen then { s with test := s.test ++ [s.probe what addr] } else s)

end Sys2Proof.Machine
end

