-- ==== Sys2Proof/Machine/Background.lean ====
section
/-! DEFINITION. What goes on while the running thread cannot go on: outstanding accesses, the engines and lists of its core,
collectives, gangs, the Trellis, and the dispatchers, each by one piece (R15, R50, R189, R263, R281, R317, R359; log 3). -/

namespace Sys2Proof.Machine

open Sys2Proof

/-- One outstanding access of the running thread is performed as far as it can be. -/
def State.workAccess (s : State) : State :=
  match s.th.out.find? fun a => a.ctr ≠ .mx && a.kind ≠ .record && (a.finished || a.parts.any (s.partEnabled s.th a)) with
  | some a => s.complete s.th.uid a.seq a.ctr []
  | none => s

/-- The core's Lattice performs its next command, or its sequencer takes a round (R53, R317). -/
def State.workLattice (s : State) (core : Nat) : State :=
  match s.nextCommand core with
  | some c => s.latPerform core c false
  | none => s.latRound core

/-- Each copy command of the core goes on by one step, its follow-on block by one record (R281, R294). -/
def State.workBarrow (s : State) (core : Nat) : State :=
  (s.core core).barrow.foldl (fun (s : State) (c : BarCmd) => match s.barCmd core c.id with
    | none => s
    | some c => if c.followList.isSome then (s.listStep c.thr (.follow c.id) fun _ => true).followEnd core c.id else s.barNext core c) s

/-- The running thread's lists go on by one record each (R263). -/
def State.workLists (s : State) : State :=
  (s.listStep s.th.uid .lattice fun _ => true).listStep s.th.uid .barrow fun _ => true

/-- The first part of a collective that can complete here does (R359). -/
def State.workColls (s : State) : State :=
  match s.colls with
  | [] => s
  | c :: _ =>
    let s := s.collDone c.ctx c.group c.k c.rank [] []
    if s.colls.contains c then { s with colls := s.colls.erase c ++ [c] } else s

/-- Generations of the Trellis that are due are released (R256). -/
def State.workTrellis (s : State) : State := (s.trellis.keys.foldl State.trellisDue s).trellisAbandon

/-- A die's dispatcher resumes or places one block (R47, R50). -/
def State.dispatch (s : State) (die : Nat) : State := (s.resumeNext die).getD ((s.placement die).getD s)

/-- One tick of time, and the next thread's turn. -/
def State.passTurn (s : State) : State :=
  { s.switchTo s.nextThread with now := s.now + 1, cycles := s.cycles + 1, svcCycles := s.svcCycles + 1 }

/-- Everything but the running thread goes on by one piece (log 3); a frozen package stands still (R403). -/
def State.background (s : State) : State :=
  if s.frozen then s
  else
    let core := s.th.core
    let s := s.workAccess
    let s := if core < 512 then ((s.workLattice core).workBarrow core).workLists else s
    let s := ((s.gangStep.getD s).workColls).workTrellis
    ((List.range 4).foldl State.dispatch s.writeOwed.faultSteps.evictSlotless).passTurn

/-! ### What comes before anything else -/

/-- Something is due before the next turn: what walks have read acts on the LLC (R408; log 12), R394's steps for an error that an eviction
found, or the end of a block whose last command has completed after its last wave (R389). -/
def State.due (s : State) : Bool :=
  !s.err.found.isEmpty || !s.walked.isEmpty || s.blocks.vals.any fun b => b.resident && b.started && !b.waves.isEmpty && s.blockOver b.uid

def State.care (s : State) : State := s.walkReads.lineErrors.endDue

/-- One of the machine's own turns (log 3); a frozen package takes none (R403). -/
def State.ownTurn (s : State) (t : Turn) : State :=
  if s.frozen then s
  else match t with
    | .clock core n => s.clockOn core n
    | .drift die n => s.drift die n
    | .take => { s with outbox := s.outbox.drop 1 }
    | .ended ctx cause => if (s.ctx ctx).live && !(s.ctx ctx).terminated then s.terminateHere ctx cause false else s
    | .advance core uid k => s.latAdvance core uid k
    | .window src ctx w facts => s.windowCame src ctx w facts
    | .windowHeld ctx w u => s.windowAnswer ctx w u
    | .hostWrites port a bs => { s with host := { s.host with mem := s.host.mem.writeBytes (hostAddr port a) bs } }
    | .bridgeBack port w => if s.home.get? w = some (.registered (s.bridge port).owner) then s.writeBack w false else s
    | .runtimeUp pkg routes => s.runtimeUp pkg routes
    | .bar0Read port off => s.bar0Read port off
    | .perst port low => s.setPerst port low
    | .eventsSeen n => s.eventsSeen n
    | _ => s

end Sys2Proof.Machine
end

