-- ==== Sys2Proof/Machine/Seedbank.lean ====
section
/-! DEFINITION. Seedbank vector operations, major 0x7B, and remote reductions, major 0x7C with F 0 (R339 to R341, R348). Both
are ST-counted accesses; Perform.lean says how their parts are performed. -/

namespace Sys2Proof.Machine

open Sys2Proof

/-- The pointer names the Seedbank (R341). -/
def seedExtra : Extra := ⟨fun va => if va / 2 ^ 60 = 2 then none else some 9, fun _ _ => none⟩

/-- A Seedbank vector operation (R341): each active lane's element meets the word at its address; with no active lane the
instruction checks nothing, and counts all the same (R189). -/
def State.seedOp (s : State) (w : W32) (kind : AccKind) (b : Reg) (addr : State → Nat → Word) : Res :=
  s.guarded w fun s =>
    if s.activeLanes = [] then s.issue .st kind .llc [] [] false
    else s.vectorAccess .atomic seedExtra 4 (s.laneAddrs (addr s)) (fun j => (s.elem b j).toNat) (fun _ => 0) fun s ps =>
      s.issue .st kind .llc ps [] false

/-- Reducing: every active lane at s[a], in ascending order, as one access. -/
def State.seedReduce (s : State) (w : W32) (op : AtomOp) (a b : Reg) : Res :=
  s.seedOp w (.sbRed op) b fun s _ => s.sget a

/-- Updating: lane j at s[a] + 4j. -/
def State.seedUpdate (s : State) (w : W32) (op : AtomOp) (a b : Reg) : Res :=
  s.seedOp w (.sbUpd op) b fun s j => s.sget a + BitVec.ofNat 64 (4 * j)

/-- The pointer of a remote reduction lies in the global or the Seedbank aperture (R348). -/
def rredExtra : Extra := ⟨fun va => if va / 2 ^ 60 = 0 || va / 2 ^ 60 = 2 then none else some 10, fun _ _ => none⟩

/-- A remote reduction of n bytes (R348). -/
def State.rred (s : State) (w : W32) (op : AtomOp) (n : Nat) (a b : Reg) : Res :=
  s.guarded w fun s => s.scalarAccess .atomic rredExtra (s.sget a) n ((s.sget b).toNat % 2 ^ (8 * n)) 0 fun s ps =>
    s.issue .st (.rred op n) .llc ps [] false

/-! ### Instructions -/

/-- sbradd (R341). -/
def execSbradd (a : Reg) (b : Reg) (s : State) : Res :=
  s.seedReduce (encRr 0x7B 0 0 a b) .add a b

/-- sbrmin (R341). -/
def execSbrmin (a : Reg) (b : Reg) (s : State) : Res :=
  s.seedReduce (encRr 0x7B 1 0 a b) .min a b

/-- sbrmax (R341). -/
def execSbrmax (a : Reg) (b : Reg) (s : State) : Res :=
  s.seedReduce (encRr 0x7B 2 0 a b) .max a b

/-- sbrfadd (R341). -/
def execSbrfadd (a : Reg) (b : Reg) (s : State) : Res :=
  s.seedReduce (encRr 0x7B 3 0 a b) .fadd a b

/-- sbuadd (R341). -/
def execSbuadd (a : Reg) (b : Reg) (s : State) : Res :=
  s.seedUpdate (encRr 0x7B 4 0 a b) .add a b

/-- sbumin (R341). -/
def execSbumin (a : Reg) (b : Reg) (s : State) : Res :=
  s.seedUpdate (encRr 0x7B 5 0 a b) .min a b

/-- sbumax (R341). -/
def execSbumax (a : Reg) (b : Reg) (s : State) : Res :=
  s.seedUpdate (encRr 0x7B 6 0 a b) .max a b

/-- sbufadd (R341). -/
def execSbufadd (a : Reg) (b : Reg) (s : State) : Res :=
  s.seedUpdate (encRr 0x7B 7 0 a b) .fadd a b

/-- rred_add (R348). -/
def execRredAdd (a : Reg) (b : Reg) (s : State) : Res :=
  s.rred (encRr 0x7C 0 0 a b) .add 4 a b

/-- rred_min (R348). -/
def execRredMin (a : Reg) (b : Reg) (s : State) : Res :=
  s.rred (encRr 0x7C 0 1 a b) .min 4 a b

/-- rred_max (R348). -/
def execRredMax (a : Reg) (b : Reg) (s : State) : Res :=
  s.rred (encRr 0x7C 0 2 a b) .max 4 a b

/-- rred_minu (R348). -/
def execRredMinu (a : Reg) (b : Reg) (s : State) : Res :=
  s.rred (encRr 0x7C 0 3 a b) .minu 4 a b

/-- rred_maxu (R348). -/
def execRredMaxu (a : Reg) (b : Reg) (s : State) : Res :=
  s.rred (encRr 0x7C 0 4 a b) .maxu 4 a b

/-- rred_fadd (R348). -/
def execRredFadd (a : Reg) (b : Reg) (s : State) : Res :=
  s.rred (encRr 0x7C 0 5 a b) .fadd 4 a b

/-- rred_add_d (R348). -/
def execRredAddD (a : Reg) (b : Reg) (s : State) : Res :=
  s.rred (encRr 0x7C 0 6 a b) .add 8 a b

/-- rred_or (R348). -/
def execRredOr (a : Reg) (b : Reg) (s : State) : Res :=
  s.rred (encRr 0x7C 0 7 a b) .or 4 a b

end Sys2Proof.Machine
end

