-- ==== Sys2Proof/Machine/Dispatch.lean ====
section
/-! DEFINITION. One arm per constructor of Instr: a direct call of its meaning, or a rejection by name. -/

namespace Sys2Proof.Machine

open Sys2Proof

/-- What one instruction or event does. -/
def exec (i : Instr) (s : State) : Host.Outcome State Fault Refusal :=
  match i with
  | .add d a b => Sys2Proof.Machine.execAdd d a b s
  | .sub d a b => Sys2Proof.Machine.execSub d a b s
  | .and d a b => Sys2Proof.Machine.execAnd d a b s
  | .or d a b => Sys2Proof.Machine.execOr d a b s
  | .xor d a b => Sys2Proof.Machine.execXor d a b s
  | .andn d a b => Sys2Proof.Machine.execAndn d a b s
  | .sll d a b => Sys2Proof.Machine.execSll d a b s
  | .srl d a b => Sys2Proof.Machine.execSrl d a b s
  | .sra d a b => Sys2Proof.Machine.execSra d a b s
  | .min d a b => Sys2Proof.Machine.execMin d a b s
  | .max d a b => Sys2Proof.Machine.execMax d a b s
  | .minu d a b => Sys2Proof.Machine.execMinu d a b s
  | .maxu d a b => Sys2Proof.Machine.execMaxu d a b s
  | .slt d a b => Sys2Proof.Machine.execSlt d a b s
  | .sltu d a b => Sys2Proof.Machine.execSltu d a b s
  | .seq d a b => Sys2Proof.Machine.execSeq d a b s
  | .addW d a b => Sys2Proof.Machine.execAddW d a b s
  | .subW d a b => Sys2Proof.Machine.execSubW d a b s
  | .andW d a b => Sys2Proof.Machine.execAndW d a b s
  | .orW d a b => Sys2Proof.Machine.execOrW d a b s
  | .xorW d a b => Sys2Proof.Machine.execXorW d a b s
  | .andnW d a b => Sys2Proof.Machine.execAndnW d a b s
  | .sllW d a b => Sys2Proof.Machine.execSllW d a b s
  | .srlW d a b => Sys2Proof.Machine.execSrlW d a b s
  | .sraW d a b => Sys2Proof.Machine.execSraW d a b s
  | .minW d a b => Sys2Proof.Machine.execMinW d a b s
  | .maxW d a b => Sys2Proof.Machine.execMaxW d a b s
  | .minuW d a b => Sys2Proof.Machine.execMinuW d a b s
  | .maxuW d a b => Sys2Proof.Machine.execMaxuW d a b s
  | .sltW d a b => Sys2Proof.Machine.execSltW d a b s
  | .sltuW d a b => Sys2Proof.Machine.execSltuW d a b s
  | .seqW d a b => Sys2Proof.Machine.execSeqW d a b s
  | .mul d a b => Sys2Proof.Machine.execMul d a b s
  | .mulh d a b => Sys2Proof.Machine.execMulh d a b s
  | .mulhu d a b => Sys2Proof.Machine.execMulhu d a b s
  | .mulhm d a b => Sys2Proof.Machine.execMulhm d a b s
  | .div d a b => Sys2Proof.Machine.execDiv d a b s
  | .divu d a b => Sys2Proof.Machine.execDivu d a b s
  | .rem d a b => Sys2Proof.Machine.execRem d a b s
  | .remu d a b => Sys2Proof.Machine.execRemu d a b s
  | .mulW d a b => Sys2Proof.Machine.execMulW d a b s
  | .divW d a b => Sys2Proof.Machine.execDivW d a b s
  | .divuW d a b => Sys2Proof.Machine.execDivuW d a b s
  | .remW d a b => Sys2Proof.Machine.execRemW d a b s
  | .remuW d a b => Sys2Proof.Machine.execRemuW d a b s
  | .clz d a => Sys2Proof.Machine.execClz d a s
  | .ctz d a => Sys2Proof.Machine.execCtz d a s
  | .popc d a => Sys2Proof.Machine.execPopc d a s
  | .bswap d a => Sys2Proof.Machine.execBswap d a s
  | .brev d a => Sys2Proof.Machine.execBrev d a s
  | .sextb d a => Sys2Proof.Machine.execSextb d a s
  | .sexth d a => Sys2Proof.Machine.execSexth d a s
  | .sextw d a => Sys2Proof.Machine.execSextw d a s
  | .zextb d a => Sys2Proof.Machine.execZextb d a s
  | .zexth d a => Sys2Proof.Machine.execZexth d a s
  | .zextw d a => Sys2Proof.Machine.execZextw d a s
  | .csel d a b => Sys2Proof.Machine.execCsel d a b s
  | .mand3 d a b => Sys2Proof.Machine.execMand3 d a b s
  | .mor3 d a b => Sys2Proof.Machine.execMor3 d a b s
  | .mandn3 d a b => Sys2Proof.Machine.execMandn3 d a b s
  | .mxor3 d a b => Sys2Proof.Machine.execMxor3 d a b s
  | .mnot3 d a => Sys2Proof.Machine.execMnot3 d a s
  | .mcnt3 d a => Sys2Proof.Machine.execMcnt3 d a s
  | .mfirst3 d a => Sys2Proof.Machine.execMfirst3 d a s
  | .addi d a im => Sys2Proof.Machine.execAddi d a im s
  | .andi d a im => Sys2Proof.Machine.execAndi d a im s
  | .ori d a im => Sys2Proof.Machine.execOri d a im s
  | .xori d a im => Sys2Proof.Machine.execXori d a im s
  | .slti d a im => Sys2Proof.Machine.execSlti d a im s
  | .sltiu d a im => Sys2Proof.Machine.execSltiu d a im s
  | .slli d a im => Sys2Proof.Machine.execSlli d a im s
  | .srli d a im => Sys2Proof.Machine.execSrli d a im s
  | .srai d a im => Sys2Proof.Machine.execSrai d a im s
  | .addiW d a im => Sys2Proof.Machine.execAddiW d a im s
  | .ldi d im => Sys2Proof.Machine.execLdi d im s
  | .lsh d im => Sys2Proof.Machine.execLsh d im s
  | .pcadd d im => Sys2Proof.Machine.execPcadd d im s
  | .beq a b x => Sys2Proof.Machine.execBeq a b x s
  | .bne a b x => Sys2Proof.Machine.execBne a b x s
  | .blt a b x => Sys2Proof.Machine.execBlt a b x s
  | .bge a b x => Sys2Proof.Machine.execBge a b x s
  | .bltu a b x => Sys2Proof.Machine.execBltu a b x s
  | .bgeu a b x => Sys2Proof.Machine.execBgeu a b x s
  | .bnone t x => Sys2Proof.Machine.execBnone t x s
  | .bany t x => Sys2Proof.Machine.execBany t x s
  | .ball t x => Sys2Proof.Machine.execBall t x s
  | .jmp x => Sys2Proof.Machine.execJmp x s
  | .jal x => Sys2Proof.Machine.execJal x s
  | .jalr d a => Sys2Proof.Machine.execJalr d a s
  | .waitc l sc m => Sys2Proof.Machine.execWaitc l sc m s
  | .csrr d n => Sys2Proof.Machine.execCsrr d n s
  | .csrw a n => Sys2Proof.Machine.execCsrw a n s
  | .vwin k => Sys2Proof.Machine.execVwin k s
  | .lb d a im => Sys2Proof.Machine.execLb d a im s
  | .lbu d a im => Sys2Proof.Machine.execLbu d a im s
  | .lh d a im => Sys2Proof.Machine.execLh d a im s
  | .lhu d a im => Sys2Proof.Machine.execLhu d a im s
  | .lw d a im => Sys2Proof.Machine.execLw d a im s
  | .lwu d a im => Sys2Proof.Machine.execLwu d a im s
  | .ld d a im => Sys2Proof.Machine.execLd d a im s
  | .sb d a im => Sys2Proof.Machine.execSb d a im s
  | .sh d a im => Sys2Proof.Machine.execSh d a im s
  | .sw d a im => Sys2Proof.Machine.execSw d a im s
  | .sd d a im => Sys2Proof.Machine.execSd d a im s
  | .lp d a b z p => Sys2Proof.Machine.execLp d a b z p s
  | .sp d a b z p => Sys2Proof.Machine.execSp d a b z p s
  | .pf l a im => Sys2Proof.Machine.execPf l a im s
  | .hint h => Sys2Proof.Machine.execHint h s
  | .vadd d a b => Sys2Proof.Machine.execVadd d a b s
  | .vsub d a b => Sys2Proof.Machine.execVsub d a b s
  | .vmul d a b => Sys2Proof.Machine.execVmul d a b s
  | .vmulh d a b => Sys2Proof.Machine.execVmulh d a b s
  | .vmulhu d a b => Sys2Proof.Machine.execVmulhu d a b s
  | .vand d a b => Sys2Proof.Machine.execVand d a b s
  | .vor d a b => Sys2Proof.Machine.execVor d a b s
  | .vxor d a b => Sys2Proof.Machine.execVxor d a b s
  | .vsll d a b => Sys2Proof.Machine.execVsll d a b s
  | .vsrl d a b => Sys2Proof.Machine.execVsrl d a b s
  | .vsra d a b => Sys2Proof.Machine.execVsra d a b s
  | .vmin d a b => Sys2Proof.Machine.execVmin d a b s
  | .vmax d a b => Sys2Proof.Machine.execVmax d a b s
  | .vminu d a b => Sys2Proof.Machine.execVminu d a b s
  | .vmaxu d a b => Sys2Proof.Machine.execVmaxu d a b s
  | .vandn d a b => Sys2Proof.Machine.execVandn d a b s
  | .vaddS d a b => Sys2Proof.Machine.execVaddS d a b s
  | .vsubS d a b => Sys2Proof.Machine.execVsubS d a b s
  | .vmulS d a b => Sys2Proof.Machine.execVmulS d a b s
  | .vmulhS d a b => Sys2Proof.Machine.execVmulhS d a b s
  | .vmulhuS d a b => Sys2Proof.Machine.execVmulhuS d a b s
  | .vandS d a b => Sys2Proof.Machine.execVandS d a b s
  | .vorS d a b => Sys2Proof.Machine.execVorS d a b s
  | .vxorS d a b => Sys2Proof.Machine.execVxorS d a b s
  | .vsllS d a b => Sys2Proof.Machine.execVsllS d a b s
  | .vsrlS d a b => Sys2Proof.Machine.execVsrlS d a b s
  | .vsraS d a b => Sys2Proof.Machine.execVsraS d a b s
  | .vminS d a b => Sys2Proof.Machine.execVminS d a b s
  | .vmaxS d a b => Sys2Proof.Machine.execVmaxS d a b s
  | .vminuS d a b => Sys2Proof.Machine.execVminuS d a b s
  | .vmaxuS d a b => Sys2Proof.Machine.execVmaxuS d a b s
  | .vandnS d a b => Sys2Proof.Machine.execVandnS d a b s
  | .vabs d a => Sys2Proof.Machine.execVabs d a s
  | .vneg d a => Sys2Proof.Machine.execVneg d a s
  | .vclz d a => Sys2Proof.Machine.execVclz d a s
  | .vpopc d a => Sys2Proof.Machine.execVpopc d a s
  | .vbrev d a => Sys2Proof.Machine.execVbrev d a s
  | .vbswap d a => Sys2Proof.Machine.execVbswap d a s
  | .vsextb d a => Sys2Proof.Machine.execVsextb d a s
  | .vsexth d a => Sys2Proof.Machine.execVsexth d a s
  | .vzextb d a => Sys2Proof.Machine.execVzextb d a s
  | .vzexth d a => Sys2Proof.Machine.execVzexth d a s
  | .vnot d a => Sys2Proof.Machine.execVnot d a s
  | .vmad d a b => Sys2Proof.Machine.execVmad d a b s
  | .vmsb d a b => Sys2Proof.Machine.execVmsb d a b s
  | .vmadS d a b => Sys2Proof.Machine.execVmadS d a b s
  | .vmsbS d a b => Sys2Proof.Machine.execVmsbS d a b s
  | .vcmpEq d a b => Sys2Proof.Machine.execVcmpEq d a b s
  | .vcmpNe d a b => Sys2Proof.Machine.execVcmpNe d a b s
  | .vcmpLt d a b => Sys2Proof.Machine.execVcmpLt d a b s
  | .vcmpLe d a b => Sys2Proof.Machine.execVcmpLe d a b s
  | .vcmpLtu d a b => Sys2Proof.Machine.execVcmpLtu d a b s
  | .vcmpLeu d a b => Sys2Proof.Machine.execVcmpLeu d a b s
  | .vcmpEqS d a b => Sys2Proof.Machine.execVcmpEqS d a b s
  | .vcmpNeS d a b => Sys2Proof.Machine.execVcmpNeS d a b s
  | .vcmpLtS d a b => Sys2Proof.Machine.execVcmpLtS d a b s
  | .vcmpLeS d a b => Sys2Proof.Machine.execVcmpLeS d a b s
  | .vcmpLtuS d a b => Sys2Proof.Machine.execVcmpLtuS d a b s
  | .vcmpLeuS d a b => Sys2Proof.Machine.execVcmpLeuS d a b s
  | .vfadd d a b => Sys2Proof.Machine.execVfadd d a b s
  | .vfsub d a b => Sys2Proof.Machine.execVfsub d a b s
  | .vfmul d a b => Sys2Proof.Machine.execVfmul d a b s
  | .vfdiv d a b => Sys2Proof.Machine.execVfdiv d a b s
  | .vfmin d a b => Sys2Proof.Machine.execVfmin d a b s
  | .vfmax d a b => Sys2Proof.Machine.execVfmax d a b s
  | .vfcsign d a b => Sys2Proof.Machine.execVfcsign d a b s
  | .vfnsign d a b => Sys2Proof.Machine.execVfnsign d a b s
  | .vfaddS d a b => Sys2Proof.Machine.execVfaddS d a b s
  | .vfsubS d a b => Sys2Proof.Machine.execVfsubS d a b s
  | .vfmulS d a b => Sys2Proof.Machine.execVfmulS d a b s
  | .vfdivS d a b => Sys2Proof.Machine.execVfdivS d a b s
  | .vfminS d a b => Sys2Proof.Machine.execVfminS d a b s
  | .vfmaxS d a b => Sys2Proof.Machine.execVfmaxS d a b s
  | .vfcsignS d a b => Sys2Proof.Machine.execVfcsignS d a b s
  | .vfnsignS d a b => Sys2Proof.Machine.execVfnsignS d a b s
  | .vfma d a b => Sys2Proof.Machine.execVfma d a b s
  | .vfms d a b => Sys2Proof.Machine.execVfms d a b s
  | .vfnma d a b => Sys2Proof.Machine.execVfnma d a b s
  | .vfnms d a b => Sys2Proof.Machine.execVfnms d a b s
  | .vfmaS d a b => Sys2Proof.Machine.execVfmaS d a b s
  | .vfmsS d a b => Sys2Proof.Machine.execVfmsS d a b s
  | .vfnmaS d a b => Sys2Proof.Machine.execVfnmaS d a b s
  | .vfnmsS d a b => Sys2Proof.Machine.execVfnmsS d a b s
  | .vfabs d a => Sys2Proof.Machine.execVfabs d a s
  | .vfneg d a => Sys2Proof.Machine.execVfneg d a s
  | .vfsqrt d a => Sys2Proof.Machine.execVfsqrt d a s
  | .vexp2 d a => Sys2Proof.Machine.execVexp2 d a s
  | .vlog2 d a => Sys2Proof.Machine.execVlog2 d a s
  | .vrcp d a => Sys2Proof.Machine.execVrcp d a s
  | .vrsq d a => Sys2Proof.Machine.execVrsq d a s
  | .vfrint d a => Sys2Proof.Machine.execVfrint d a s
  | .vfclass d a => Sys2Proof.Machine.execVfclass d a s
  | .vfcmpFeq d a b => Sys2Proof.Machine.execVfcmpFeq d a b s
  | .vfcmpFlt d a b => Sys2Proof.Machine.execVfcmpFlt d a b s
  | .vfcmpFle d a b => Sys2Proof.Machine.execVfcmpFle d a b s
  | .vfcmpFun d a b => Sys2Proof.Machine.execVfcmpFun d a b s
  | .vfcmpFeqS d a b => Sys2Proof.Machine.execVfcmpFeqS d a b s
  | .vfcmpFltS d a b => Sys2Proof.Machine.execVfcmpFltS d a b s
  | .vfcmpFleS d a b => Sys2Proof.Machine.execVfcmpFleS d a b s
  | .vfcmpFunS d a b => Sys2Proof.Machine.execVfcmpFunS d a b s
  | .vcvtI32F32 d a => Sys2Proof.Machine.execVcvtI32F32 d a s
  | .vcvtF32I32 d a => Sys2Proof.Machine.execVcvtF32I32 d a s
  | .vcvtN32F32 d a => Sys2Proof.Machine.execVcvtN32F32 d a s
  | .vcvtF32N32 d a => Sys2Proof.Machine.execVcvtF32N32 d a s
  | .vcvtBf16F32 d a => Sys2Proof.Machine.execVcvtBf16F32 d a s
  | .vcvtF32Bf16 d a => Sys2Proof.Machine.execVcvtF32Bf16 d a s
  | .vcvtF16F32 d a => Sys2Proof.Machine.execVcvtF16F32 d a s
  | .vcvtF32F16 d a => Sys2Proof.Machine.execVcvtF32F16 d a s
  | .vcvtE4m3F32 d a => Sys2Proof.Machine.execVcvtE4m3F32 d a s
  | .vcvtF32E4m3 d a => Sys2Proof.Machine.execVcvtF32E4m3 d a s
  | .vcvtE5m2F32 d a => Sys2Proof.Machine.execVcvtE5m2F32 d a s
  | .vcvtF32E5m2 d a => Sys2Proof.Machine.execVcvtF32E5m2 d a s
  | .vcvtBf16x2F32 d a => Sys2Proof.Machine.execVcvtBf16x2F32 d a s
  | .vcvtF16x2F32 d a => Sys2Proof.Machine.execVcvtF16x2F32 d a s
  | .vcvtI8I32 d a => Sys2Proof.Machine.execVcvtI8I32 d a s
  | .vmov d a => Sys2Proof.Machine.execVmov d a s
  | .vbcs d a => Sys2Proof.Machine.execVbcs d a s
  | .vext d a b => Sys2Proof.Machine.execVext d a b s
  | .vins d a b => Sys2Proof.Machine.execVins d a b s
  | .vlid d => Sys2Proof.Machine.execVlid d s
  | .vperm d a b => Sys2Proof.Machine.execVperm d a b s
  | .vslup d a b => Sys2Proof.Machine.execVslup d a b s
  | .vsldn d a b => Sys2Proof.Machine.execVsldn d a b s
  | .vmrg d a b => Sys2Proof.Machine.execVmrg d a b s
  | .vfree d => Sys2Proof.Machine.execVfree d s
  | .vradd d a => Sys2Proof.Machine.execVradd d a s
  | .vrmin d a => Sys2Proof.Machine.execVrmin d a s
  | .vrmax d a => Sys2Proof.Machine.execVrmax d a s
  | .vrminu d a => Sys2Proof.Machine.execVrminu d a s
  | .vrmaxu d a => Sys2Proof.Machine.execVrmaxu d a s
  | .vrand d a => Sys2Proof.Machine.execVrand d a s
  | .vror d a => Sys2Proof.Machine.execVror d a s
  | .vrxor d a => Sys2Proof.Machine.execVrxor d a s
  | .vrfadd d a => Sys2Proof.Machine.execVrfadd d a s
  | .vrfmin d a => Sys2Proof.Machine.execVrfmin d a s
  | .vrfmax d a => Sys2Proof.Machine.execVrfmax d a s
  | .vsadd d a => Sys2Proof.Machine.execVsadd d a s
  | .vsaddx d a => Sys2Proof.Machine.execVsaddx d a s
  | .vsfadd d a => Sys2Proof.Machine.execVsfadd d a s
  | .vsmax d a => Sys2Proof.Machine.execVsmax d a s
  | .vsmin d a => Sys2Proof.Machine.execVsmin d a s
  | .vhcrc d a b => Sys2Proof.Machine.execVhcrc d a b s
  | .vhmix d a b => Sys2Proof.Machine.execVhmix d a b s
  | .vpart d a b => Sys2Proof.Machine.execVpart d a b s
  | .vbeq d a b => Sys2Proof.Machine.execVbeq d a b s
  | .vbfz d a => Sys2Proof.Machine.execVbfz d a s
  | .vbdif d a b => Sys2Proof.Machine.execVbdif d a b s
  | .vhist d a => Sys2Proof.Machine.execVhist d a s
  | .vld d a b z p => Sys2Proof.Machine.execVld d a b z p s
  | .vst d a b z p => Sys2Proof.Machine.execVst d a b z p s
  | .vgth d a b z p => Sys2Proof.Machine.execVgth d a b z p s
  | .vsct d a b z p => Sys2Proof.Machine.execVsct d a b z p s
  | .vll d a b z => Sys2Proof.Machine.execVll d a b z s
  | .vsl d a b z => Sys2Proof.Machine.execVsl d a b z s
  | .vllg d a z => Sys2Proof.Machine.execVllg d a z s
  | .vslg d a z => Sys2Proof.Machine.execVslg d a z s
  | .amoAdd d a b => Sys2Proof.Machine.execAmoAdd d a b s
  | .amoAnd d a b => Sys2Proof.Machine.execAmoAnd d a b s
  | .amoOr d a b => Sys2Proof.Machine.execAmoOr d a b s
  | .amoXor d a b => Sys2Proof.Machine.execAmoXor d a b s
  | .amoMin d a b => Sys2Proof.Machine.execAmoMin d a b s
  | .amoMax d a b => Sys2Proof.Machine.execAmoMax d a b s
  | .amoMinu d a b => Sys2Proof.Machine.execAmoMinu d a b s
  | .amoMaxu d a b => Sys2Proof.Machine.execAmoMaxu d a b s
  | .amoXchg d a b => Sys2Proof.Machine.execAmoXchg d a b s
  | .amoFadd d a b => Sys2Proof.Machine.execAmoFadd d a b s
  | .amoCas d a b => Sys2Proof.Machine.execAmoCas d a b s
  | .amoDAdd d a b => Sys2Proof.Machine.execAmoDAdd d a b s
  | .amoDAnd d a b => Sys2Proof.Machine.execAmoDAnd d a b s
  | .amoDOr d a b => Sys2Proof.Machine.execAmoDOr d a b s
  | .amoDXor d a b => Sys2Proof.Machine.execAmoDXor d a b s
  | .amoDMin d a b => Sys2Proof.Machine.execAmoDMin d a b s
  | .amoDMax d a b => Sys2Proof.Machine.execAmoDMax d a b s
  | .amoDMinu d a b => Sys2Proof.Machine.execAmoDMinu d a b s
  | .amoDMaxu d a b => Sys2Proof.Machine.execAmoDMaxu d a b s
  | .amoDXchg d a b => Sys2Proof.Machine.execAmoDXchg d a b s
  | .amoDFadd d a b => Sys2Proof.Machine.execAmoDFadd d a b s
  | .amoDCas d a b => Sys2Proof.Machine.execAmoDCas d a b s
  | .vamoAdd d a b => Sys2Proof.Machine.execVamoAdd d a b s
  | .vamoAnd d a b => Sys2Proof.Machine.execVamoAnd d a b s
  | .vamoOr d a b => Sys2Proof.Machine.execVamoOr d a b s
  | .vamoXor d a b => Sys2Proof.Machine.execVamoXor d a b s
  | .vamoMin d a b => Sys2Proof.Machine.execVamoMin d a b s
  | .vamoMax d a b => Sys2Proof.Machine.execVamoMax d a b s
  | .vamoMinu d a b => Sys2Proof.Machine.execVamoMinu d a b s
  | .vamoMaxu d a b => Sys2Proof.Machine.execVamoMaxu d a b s
  | .vamoXchg d a b => Sys2Proof.Machine.execVamoXchg d a b s
  | .vamoFadd d a b => Sys2Proof.Machine.execVamoFadd d a b s
  | .vamoCas d a b => Sys2Proof.Machine.execVamoCas d a b s
  | .acq a sc => Sys2Proof.Machine.execAcq a sc s
  | .rel sc => Sys2Proof.Machine.execRel sc s
  | .fence sc => Sys2Proof.Machine.execFence sc s
  | .fenceSs sc => Sys2Proof.Machine.execFenceSs sc s
  | .fenceLl sc => Sys2Proof.Machine.execFenceLl sc s
  | .fenceIo sc => Sys2Proof.Machine.execFenceIo sc s
  | .ifence => Sys2Proof.Machine.execIfence s
  | .txb => Sys2Proof.Machine.execTxb s
  | .txe => Sys2Proof.Machine.execTxe s
  | .txa => Sys2Proof.Machine.execTxa s
  | .txs d => Sys2Proof.Machine.execTxs d s
  | .wsleepEq d a b => Sys2Proof.Machine.execWsleepEq d a b s
  | .wsleepNe d a b => Sys2Proof.Machine.execWsleepNe d a b s
  | .wsleepGe d a b => Sys2Proof.Machine.execWsleepGe d a b s
  | .wsleepGeu d a b => Sys2Proof.Machine.execWsleepGeu d a b s
  | .bar => Sys2Proof.Machine.execBar s
  | .nbinit a b => Sys2Proof.Machine.execNbinit a b s
  | .nbexp a b => Sys2Proof.Machine.execNbexp a b s
  | .nbarr a => Sys2Proof.Machine.execNbarr a s
  | .nbwait d a => Sys2Proof.Machine.execNbwait d a s
  | .nbtest d a => Sys2Proof.Machine.execNbtest d a s
  | .tbarr a => Sys2Proof.Machine.execTbarr a s
  | .tbwait d a => Sys2Proof.Machine.execTbwait d a s
  | .tbar d a => Sys2Proof.Machine.execTbar d a s
  | .launch d a => Sys2Proof.Machine.execLaunch d a s
  | .launchWait d a => Sys2Proof.Machine.execLaunchWait d a s
  | .exit => Sys2Proof.Machine.execExit s
  | .exitSucc a => Sys2Proof.Machine.execExitSucc a s
  | .yield => Sys2Proof.Machine.execYield s
  | .qpush a b => Sys2Proof.Machine.execQpush a b s
  | .qpop a b => Sys2Proof.Machine.execQpop a b s
  | .qstat d a => Sys2Proof.Machine.execQstat d a s
  | .qset d a b => Sys2Proof.Machine.execQset d a b s
  | .fork a b => Sys2Proof.Machine.execFork a b s
  | .rendezL => Sys2Proof.Machine.execRendezL s
  | .rendezB => Sys2Proof.Machine.execRendezB s
  | .rendezLb => Sys2Proof.Machine.execRendezLb s
  | .mma d a b g o => Sys2Proof.Machine.execMma d a b g o s
  | .mmag d a b g o => Sys2Proof.Machine.execMmag d a b g o s
  | .twset d a b => Sys2Proof.Machine.execTwset d a b s
  | .accalloc d a b => Sys2Proof.Machine.execAccalloc d a b s
  | .accfree a => Sys2Proof.Machine.execAccfree a s
  | .acczero a => Sys2Proof.Machine.execAcczero a s
  | .accclaim a b => Sys2Proof.Machine.execAccclaim a b s
  | .accrd d a b => Sys2Proof.Machine.execAccrd d a b s
  | .accrdClr d a b => Sys2Proof.Machine.execAccrdClr d a b s
  | .accwr d a b => Sys2Proof.Machine.execAccwr d a b s
  | .qnt d a b => Sys2Proof.Machine.execQnt d a b s
  | .plpack a b => Sys2Proof.Machine.execPlpack a b s
  | .plunp d b => Sys2Proof.Machine.execPlunp d b s
  | .ctld a b => Sys2Proof.Machine.execCtld a b s
  | .copy d a b o g => Sys2Proof.Machine.execCopy d a b o g s
  | .copym d a b o g => Sys2Proof.Machine.execCopym d a b o g s
  | .sbradd a b => Sys2Proof.Machine.execSbradd a b s
  | .sbrmin a b => Sys2Proof.Machine.execSbrmin a b s
  | .sbrmax a b => Sys2Proof.Machine.execSbrmax a b s
  | .sbrfadd a b => Sys2Proof.Machine.execSbrfadd a b s
  | .sbuadd a b => Sys2Proof.Machine.execSbuadd a b s
  | .sbumin a b => Sys2Proof.Machine.execSbumin a b s
  | .sbumax a b => Sys2Proof.Machine.execSbumax a b s
  | .sbufadd a b => Sys2Proof.Machine.execSbufadd a b s
  | .rredAdd a b => Sys2Proof.Machine.execRredAdd a b s
  | .rredMin a b => Sys2Proof.Machine.execRredMin a b s
  | .rredMax a b => Sys2Proof.Machine.execRredMax a b s
  | .rredMinu a b => Sys2Proof.Machine.execRredMinu a b s
  | .rredMaxu a b => Sys2Proof.Machine.execRredMaxu a b s
  | .rredFadd a b => Sys2Proof.Machine.execRredFadd a b s
  | .rredAddD a b => Sys2Proof.Machine.execRredAddD a b s
  | .rredOr a b => Sys2Proof.Machine.execRredOr a b s
  | .coll a b => Sys2Proof.Machine.execColl a b s
  | .cquiet a => Sys2Proof.Machine.execCquiet a s
  | .glaunch d a => Sys2Proof.Machine.execGlaunch d a s
  | .gstat d a => Sys2Proof.Machine.execGstat d a s
  | .rwin a b => Sys2Proof.Machine.execRwin a b s
  | .trap a => Sys2Proof.Machine.execTrap a s
  | .sret => Sys2Proof.Machine.execSret s
  | .pgres a => Sys2Proof.Machine.execPgres a s
  | .mapu d a b => Sys2Proof.Machine.execMapu d a b s
  | .tlbinv a b => Sys2Proof.Machine.execTlbinv a b s
  | .lanerd d a b => Sys2Proof.Machine.execLanerd d a b s
  | .lanewr d a b => Sys2Proof.Machine.execLanewr d a b s
  | .pendingAgingTick => Sys2Proof.Machine.execPendingAgingTick s
  | .blockPlacement die => Sys2Proof.Machine.execBlockPlacement die s
  | .rotation core => Sys2Proof.Machine.execRotation core s
  | .starvationBoost uid => Sys2Proof.Machine.execStarvationBoost uid s
  | .starvation uid => Sys2Proof.Machine.execStarvation uid s
  | .localityScoreHalving core => Sys2Proof.Machine.execLocalityScoreHalving core s
  | .allowanceStep core => Sys2Proof.Machine.execAllowanceStep core s
  | .allowanceReset core => Sys2Proof.Machine.execAllowanceReset core s
  | .latticeSequencerRound core => Sys2Proof.Machine.execLatticeSequencerRound core s
  | .queueExtension blk q => Sys2Proof.Machine.execQueueExtension blk q s
  | .waitGraphWalk blk => Sys2Proof.Machine.execWaitGraphWalk blk s
  | .quotaMove blk q => Sys2Proof.Machine.execQuotaMove blk q s
  | .preemption blk => Sys2Proof.Machine.execPreemption blk s
  | .blockResume blk core => Sys2Proof.Machine.execBlockResume blk core s
  | .budgetWindowStart => Sys2Proof.Machine.execBudgetWindowStart s
  | .energyCharge ctx nj => Sys2Proof.Machine.execEnergyCharge ctx nj s
  | .clockPlannerStep watts => Sys2Proof.Machine.execClockPlannerStep watts s
  | .loadCompletion uid seq parts => Sys2Proof.Machine.execLoadCompletion uid seq parts s
  | .storeCompletion uid seq parts => Sys2Proof.Machine.execStoreCompletion uid seq parts s
  | .asynchronousTrapDelivery uid => Sys2Proof.Machine.execAsynchronousTrapDelivery uid s
  | .regReq uid seq part => Sys2Proof.Machine.execRegReq uid seq part s
  | .regFwd uid seq part => Sys2Proof.Machine.execRegFwd uid seq part s
  | .regRevoke pa => Sys2Proof.Machine.execRegRevoke pa s
  | .raceNak uid seq part => Sys2Proof.Machine.execRaceNak uid seq part s
  | .regXfer core cmd sector => Sys2Proof.Machine.execRegXfer core cmd sector s
  | .regAck core cmd sector => Sys2Proof.Machine.execRegAck core cmd sector s
  | .l1Fill core ctx va => Sys2Proof.Machine.execL1Fill core ctx va s
  | .llcFill pa => Sys2Proof.Machine.execLlcFill pa s
  | .fetchFill r => Sys2Proof.Machine.execFetchFill r s
  | .fetchRetry uid => Sys2Proof.Machine.execFetchRetry uid s
  | .pageTableWalk core ctx va => Sys2Proof.Machine.execPageTableWalk core ctx va s
  | .faultResolutionTimeout ctx record => Sys2Proof.Machine.execFaultResolutionTimeout ctx record s
  | .wsleepWakeEvent uid => Sys2Proof.Machine.execWsleepWakeEvent uid s
  | .wsleepReevaluation uid => Sys2Proof.Machine.execWsleepReevaluation uid s
  | .wsleepTimeout uid => Sys2Proof.Machine.execWsleepTimeout uid s
  | .trellisRelease id => Sys2Proof.Machine.execTrellisRelease id s
  | .latticeCommandPerformed core uid bad => Sys2Proof.Machine.execLatticeCommandPerformed core uid bad s
  | .listCommandRecord uid which => Sys2Proof.Machine.execListCommandRecord uid which s
  | .listEndRecord uid which => Sys2Proof.Machine.execListEndRecord uid which s
  | .listLoopRecord uid which => Sys2Proof.Machine.execListLoopRecord uid which s
  | .listBaseaRecord uid which => Sys2Proof.Machine.execListBaseaRecord uid which s
  | .listBasebRecord uid which => Sys2Proof.Machine.execListBasebRecord uid which s
  | .sectorDelivery core cmd sector crcBad => Sys2Proof.Machine.execSectorDelivery core cmd sector crcBad s
  | .barrowTranslationFault core cmd => Sys2Proof.Machine.execBarrowTranslationFault core cmd s
  | .followOnEnd core cmd => Sys2Proof.Machine.execFollowOnEnd core cmd s
  | .packetDelivery p => Sys2Proof.Machine.execPacketDelivery p s
  | .acknowledgement dst seq r => Sys2Proof.Machine.execAcknowledgement dst seq r s
  | .ackTimeout dst elem => Sys2Proof.Machine.execAckTimeout dst elem s
  | .linkCrcFailureReport elem => Sys2Proof.Machine.execLinkCrcFailureReport elem s
  | .flowReroute dst route => Sys2Proof.Machine.execFlowReroute dst route s
  | .linkRetrain elem => Sys2Proof.Machine.execLinkRetrain elem s
  | .flowUnreachable dst => Sys2Proof.Machine.execFlowUnreachable dst s
  | .switchMerge sw p => Sys2Proof.Machine.execSwitchMerge sw p s
  | .mergeEntryForward sw entry full => Sys2Proof.Machine.execMergeEntryForward sw entry full s
  | .mergedPacketReceipt p => Sys2Proof.Machine.execMergedPacketReceipt p s
  | .replayUnmerged dst seqs => Sys2Proof.Machine.execReplayUnmerged dst seqs s
  | .phaseQuietReport ctx ph unit => Sys2Proof.Machine.execPhaseQuietReport ctx ph unit s
  | .gangPrepare g => Sys2Proof.Machine.execGangPrepare g s
  | .gangPrepareAnswer slot member status => Sys2Proof.Machine.execGangPrepareAnswer slot member status s
  | .gangPrepareTimeout slot => Sys2Proof.Machine.execGangPrepareTimeout slot s
  | .gangBegin key => Sys2Proof.Machine.execGangBegin key s
  | .gangCancel key => Sys2Proof.Machine.execGangCancel key s
  | .gangBegun slot member ended => Sys2Proof.Machine.execGangBegun slot member ended s
  | .gangBeginTimeout slot => Sys2Proof.Machine.execGangBeginTimeout slot s
  | .collectiveCompletion ctx group k rank order far => Sys2Proof.Machine.execCollectiveCompletion ctx group k rank order far s
  | .crossDieTimeout r => Sys2Proof.Machine.execCrossDieTimeout r s
  | .referenceCounterCompare first last => Sys2Proof.Machine.execReferenceCounterCompare first last s
  | .diectlGo die => Sys2Proof.Machine.execDiectlGo die s
  | .diectlCancel die => Sys2Proof.Machine.execDiectlCancel die s
  | .dieDrainCompletion die => Sys2Proof.Machine.execDieDrainCompletion die s
  | .errinjGo v => Sys2Proof.Machine.execErrinjGo v s
  | .linkctlDownSet port => Sys2Proof.Machine.execLinkctlDownSet port s
  | .linkctlDownClear port => Sys2Proof.Machine.execLinkctlDownClear port s
  | .fstatWrite v => Sys2Proof.Machine.execFstatWrite v s
  | .frmWrite v => Sys2Proof.Machine.execFrmWrite v s
  | .mstatClear v => Sys2Proof.Machine.execMstatClear v s
  | .patrolScrub pa => Sys2Proof.Machine.execPatrolScrub pa s
  | .filterClear => Sys2Proof.Machine.execFilterClear s
  | .freeze => Sys2Proof.Machine.execFreeze s
  | .thaw => Sys2Proof.Machine.execThaw s
  | .testPortRead what addr => Sys2Proof.Machine.execTestPortRead what addr s
  | .pwrgood sigOk images straps fwd => Sys2Proof.Machine.execPwrgood sigOk images straps fwd s
  | .ucieLinkTraining ok images => Sys2Proof.Machine.execUcieLinkTraining ok images s
  | .tier1ChannelTraining ok => Sys2Proof.Machine.execTier1ChannelTraining ok s
  | .cxlPortTraining hostsel hosts up => Sys2Proof.Machine.execCxlPortTraining hostsel hosts up s
  | .hostCxlMemRead port pa n => Sys2Proof.Machine.execHostCxlMemRead port pa n s
  | .hostCxlMemWrite port pa bytes => Sys2Proof.Machine.execHostCxlMemWrite port pa bytes s
  | .hstatClear v => Sys2Proof.Machine.execHstatClear v s
  | .getVersion port => Sys2Proof.Machine.execGetVersion port s
  | .getCapabilities port => Sys2Proof.Machine.execGetCapabilities port s
  | .negotiateAlgorithms o => Sys2Proof.Machine.execNegotiateAlgorithms o s
  | .getDigests port => Sys2Proof.Machine.execGetDigests port s
  | .getCertificate port slot off len => Sys2Proof.Machine.execGetCertificate port slot off len s
  | .challenge port nonce => Sys2Proof.Machine.execChallenge port nonce s
  | .getMeasurements port index nonce => Sys2Proof.Machine.execGetMeasurements port index nonce s
  | .illegalInstruction w => Sys2Proof.Machine.execIllegalInstruction w s
  | .packageReset => Sys2Proof.Machine.execPackageReset s
  | .hostPortLinkDown port => Sys2Proof.Machine.execHostPortLinkDown port s
  | .hostPortLinkRetrain port => Sys2Proof.Machine.execHostPortLinkRetrain port s
  | .contextCreation p => Sys2Proof.Machine.execContextCreation p s
  | .poolEnlargement ctx spill ovf => Sys2Proof.Machine.execPoolEnlargement ctx spill ovf s
  | .trellisIdentifierBinding id ctx tasks n => Sys2Proof.Machine.execTrellisIdentifierBinding id ctx tasks n s
  | .collectiveGroupBinding ctx group owner blocks => Sys2Proof.Machine.execCollectiveGroupBinding ctx group owner blocks s

end Sys2Proof.Machine
end

