-- ==== Sys2Proof/Machine/Step.lean ====
section
/-! DEFINITION. One step of the machine: a turn of the agenda, or the running thread's next instruction (log 3), and the
placing of one instruction where the next step runs it (log 5). What builds an Instr is noncomputable (log 6). -/

noncomputable section

namespace Sys2Proof.Machine

open Sys2Proof

/-- After an instruction: while the thread waits, other work goes on. -/
def afterWord (r : Res) : Res :=
  match r with
  | .next s => .next (if s.waiting then s.background else s)
  | r => r

/-- The running thread's turn (R109, R172, R173, R273). -/
def stepThread (s : State) : Res :=
  if s.runs then
    match s.fetched with
    | none => afterWord (exec (.fetchFill ⟨s.th.uid, 0⟩) s)
    | some w =>
      match decodeWord w with
      | .ok i => afterWord (exec i s)
      | .error _ => exec (.illegalInstruction w) s
  else .next s.background

/-- A frozen package performs only what the freeze pins, the test port and a reset do (R403). -/
def whileFrozen (i : Instr) : Bool :=
  match i with
  | .thaw => true
  | .testPortRead _ _ => true
  | .packageReset => true
  | .pwrgood _ _ _ _ => true
  | _ => false

/-- One turn of the agenda. A pre-emption that falls due in a frozen package stands over to a later one (R49, R403). -/
def stepTurn (t : Turn) (s : State) : Res :=
  match t with
  | .run u => .next (s.switchTo u)
  | .event i => if s.frozen && !whileFrozen i then .next s else exec i s
  | .elapse ticks cycles svc => .next (s.elapse ticks cycles svc)
  | .upset space unit index => .next (s.upset space unit index)
  | .preempt b => if s.frozen then .next s else exec (.preemption b) s
  | t => .next (s.ownTurn t)

def step (s : State) : Host.Outcome State Fault Refusal :=
  if s.due then .next s.care
  else match s.agenda with
    | t :: rest => stepTurn t { s with agenda := rest }
    | [] => stepThread s

/-- s with one instruction where the next step fetches it (R110: every instruction word is 32 bits). -/
def State.withFetchWord (s : State) (nbits w : Nat) : State := s.withWord (BitVec.ofNat 32 (w % 2 ^ nbits))

end Sys2Proof.Machine

end
end

