-- ==== Sys2Proof/Safety.lean ====
section
/-! DEFINITION. What a safe state of the machine is, and what an instruction starts from, in the terms the statements use. -/

namespace Sys2Proof.Machine

open Sys2Proof

/-- The instruction stands in the running thread's buffer and its turn is next. -/
def State.ready (s : State) (w : W32) : Prop := s.due = false ∧ s.agenda = [] ∧ s.runs = true ∧ s.fetched = some w

/-- The byte memories keep their canonical form: tier memory, Seedbank, host memory, every local store. -/
def State.memWf (s : State) : Prop :=
  s.tier.wf = true ∧ s.seed.wf = true ∧ s.host.mem.wf = true ∧ ∀ p ∈ s.blocks, p.2.ls.wf = true

/-- Threads, blocks, tasks and contexts are listed once each, the first three under their own numbers. -/
def State.unitsOk (s : State) : Prop :=
  s.threads.sorted = true ∧ s.blocks.sorted = true ∧ s.tasks.sorted = true ∧ s.ctxs.sorted = true ∧
    (∀ p ∈ s.threads, p.2.uid = p.1) ∧ (∀ p ∈ s.blocks, p.2.uid = p.1) ∧ ∀ p ∈ s.tasks, p.2.uid = p.1

/-- The word is an instruction's, not an event's. -/
def isWord (i : Instr) : Prop := encode i ≠ 0

/-- The instruction's word in the RR format (R110): F in bits 31:28, B in 27:21, A in 20:14, D in 13:7, OP in 6:0. -/
def isRr (i : Instr) (op f : Nat) (d a b : Reg) : Prop :=
  (encode i).toNat = op + 2 ^ 7 * d.toNat + 2 ^ 14 * a.toNat + 2 ^ 21 * b.toNat + 2 ^ 28 * f

/-- The RI and BR formats (R110): bits 31:21, bits 20:14, bits 13:7, OP. -/
def isRi (i : Instr) (op : Nat) (d a : Reg) (imm : Nat) : Prop :=
  (encode i).toNat = op + 2 ^ 7 * d.toNat + 2 ^ 14 * a.toNat + 2 ^ 21 * imm

/-- Bits lo + n - 1 to lo of a word. -/
def wordBits (w : W32) (lo n : Nat) : Nat := w.toNat / 2 ^ lo % 2 ^ n

/-- Every word of this kind is refused by the decoder, so it raises ILLEGAL_INSTRUCTION. -/
def refusesWords (p : W32 → Prop) : Prop := ∀ w : W32, p w → ∃ e, decodeWord w = .error e

/-- What lets a word of a dual pair have its effect at once: each wave performs it by itself, the leader is less than 64 instructions
ahead, and the shadow finds the word its leader performed (R397 to R399). -/
def State.pairMay (s : State) (w : W32) : Prop :=
  match s.th.partner with
  | none => True
  | some v => pairPure w = true ∧ s.laneCsr w = false ∧
      if s.th.shadow then s.th.icount < (s.thread v).icount ∧ (s.thread v).trace.get? s.th.icount = some w
      else s.th.icount < (s.thread v).icount + 64

/-- A word passes the gate of the running thread (R118, R120, R269, R386, R392): nothing forbids it, no source lies under an
uncorrectable error, and a dual pair may perform it at once (R397 to R399). -/
def State.passes (s : State) (w : W32) : Prop :=
  s.gateCause w = none ∧ s.poisonedSource w = false ∧ s.pairMay w

/-- The state an instruction's own effect starts from: a leader has noted the word (R397), spilled sources are refilled (R58), and a
transaction the instruction may not run in has aborted (R239). -/
def State.entered (s : State) (w : W32) : State :=
  match s.th.partner with
  | none => s.touched w
  | some v => if s.th.shadow then s.touched w else (s.traced w v).touched w

end Sys2Proof.Machine
end

