-- ==== Sys2Proof/Certificates/Slice0/Obligations.lean ====
section
/-! DEFINITION. The statements about the machine, from the numbered rules of the manual. A statement about an instruction word
starts from a state that the word passes the gate of (Safety.lean), and from there says which next state exec answers. -/

open Sys2Proof Sys2Proof.Machine

/-! ### Registers and scalar results -/

/-- R111: s0 reads as zero and ignores writes; a triple destination writes bits 31:0 of three registers and clears bits 63:32. -/
def Obligations.RegisterZeroAndTriples : Prop := ∀ (s : State) (d r : Reg) (v : Word) (f : Nat → Bool),
  s.sget 0 = 0 ∧ s.sset 0 v = s ∧
  (s.sset d v).sget r = (if r = d ∧ d ≠ 0 then v else s.sget r) ∧
  (d.toNat ≤ 125 →
    (∀ j < 96, d + BitVec.ofNat 7 (j / 32) ≠ 0 → (s.tset d f).tbit d j = f j) ∧
    (∀ i < 3, ((s.tset d f).sget (d + BitVec.ofNat 7 i)).toNat < 2 ^ 32 ∨ d + BitVec.ofNat 7 i = 0) ∧
    (∀ r : Reg, r ≠ d → r ≠ d + 1 → r ≠ d + 2 → (s.tset d f).sget r = s.sget r))

/-- R178: major 0x01 writes its result to D, and nothing else but the pc changes. -/
def Obligations.ScalarIntegerResults : Prop := ∀ (d a b : Reg) (s : State),
  let gives (i : Instr) (f : Nat) (v : Word) : Prop := isRr i 1 f d a b ∧ (s.passes (encode i) → exec i s = .next ((s.entered (encode i)).sset d v).adv)
  let x := s.sget a
  let y := s.sget b
  let n := y.toNat % 64
  gives (.add d a b) 0 (x + y) ∧ gives (.sub d a b) 1 (x - y) ∧
  gives (.and d a b) 2 (x &&& y) ∧ gives (.or d a b) 3 (x ||| y) ∧ gives (.xor d a b) 4 (x ^^^ y) ∧ gives (.andn d a b) 5 (x &&& ~~~y) ∧
  gives (.sll d a b) 6 (BitVec.ofNat 64 (x.toNat * 2 ^ n)) ∧
  gives (.srl d a b) 7 (BitVec.ofNat 64 (x.toNat / 2 ^ n)) ∧
  gives (.sra d a b) 8 (BitVec.ofInt 64 (x.toInt / 2 ^ n)) ∧
  gives (.min d a b) 9 (if x.toInt ≤ y.toInt then x else y) ∧ gives (.max d a b) 10 (if x.toInt ≤ y.toInt then y else x) ∧
  gives (.minu d a b) 11 (if x.toNat ≤ y.toNat then x else y) ∧ gives (.maxu d a b) 12 (if x.toNat ≤ y.toNat then y else x) ∧
  gives (.slt d a b) 13 (if x.toInt < y.toInt then 1 else 0) ∧ gives (.sltu d a b) 14 (if x.toNat < y.toNat then 1 else 0) ∧
  gives (.seq d a b) 15 (if x = y then 1 else 0)

/-- R179: major 0x02 applies the operations of major 0x01 to bits 31:0 of its operands, and sign-extends from bit 31. -/
def Obligations.ScalarWordResults : Prop := ∀ (d a b : Reg) (s : State),
  let gives (i : Instr) (f : Nat) (v : W32) : Prop := isRr i 2 f d a b ∧ (s.passes (encode i) → exec i s = .next ((s.entered (encode i)).sset d (v.signExtend 64)).adv)
  let x : W32 := (s.sget a).setWidth 32
  let y : W32 := (s.sget b).setWidth 32
  let n := y.toNat % 32
  gives (.addW d a b) 0 (x + y) ∧ gives (.subW d a b) 1 (x - y) ∧
  gives (.andW d a b) 2 (x &&& y) ∧ gives (.orW d a b) 3 (x ||| y) ∧ gives (.xorW d a b) 4 (x ^^^ y) ∧ gives (.andnW d a b) 5 (x &&& ~~~y) ∧
  gives (.sllW d a b) 6 (BitVec.ofNat 32 (x.toNat * 2 ^ n)) ∧
  gives (.srlW d a b) 7 (BitVec.ofNat 32 (x.toNat / 2 ^ n)) ∧
  gives (.sraW d a b) 8 (BitVec.ofInt 32 (x.toInt / 2 ^ n)) ∧
  gives (.minW d a b) 9 (if x.toInt ≤ y.toInt then x else y) ∧ gives (.maxW d a b) 10 (if x.toInt ≤ y.toInt then y else x) ∧
  gives (.minuW d a b) 11 (if x.toNat ≤ y.toNat then x else y) ∧ gives (.maxuW d a b) 12 (if x.toNat ≤ y.toNat then y else x) ∧
  gives (.sltW d a b) 13 (if x.toInt < y.toInt then 1 else 0) ∧ gives (.sltuW d a b) 14 (if x.toNat < y.toNat then 1 else 0) ∧
  gives (.seqW d a b) 15 (if x = y then 1 else 0)

/-- R180: major 0x03 multiplies and divides, with its results for a divisor of 0 and for overflow. -/
def Obligations.MultiplyDivideResults : Prop := ∀ (d a b : Reg) (s : State),
  let gives (i : Instr) (f : Nat) (v : Word) : Prop := isRr i 3 f d a b ∧ (s.passes (encode i) → exec i s = .next ((s.entered (encode i)).sset d v).adv)
  let x := s.sget a
  let y := s.sget b
  let u : W32 := x.setWidth 32
  let w : W32 := y.setWidth 32
  gives (.mul d a b) 0 (BitVec.ofNat 64 (x.toNat * y.toNat)) ∧
  gives (.mulh d a b) 1 (BitVec.ofInt 64 (x.toInt * y.toInt / 2 ^ 64)) ∧
  gives (.mulhu d a b) 2 (BitVec.ofNat 64 (x.toNat * y.toNat / 2 ^ 64)) ∧
  gives (.mulhm d a b) 3 (BitVec.ofInt 64 (x.toInt * y.toNat / 2 ^ 64)) ∧
  gives (.div d a b) 4 (if y = 0 then BitVec.allOnes 64 else BitVec.ofInt 64 (x.toInt.tdiv y.toInt)) ∧
  gives (.divu d a b) 5 (if y = 0 then BitVec.allOnes 64 else BitVec.ofNat 64 (x.toNat / y.toNat)) ∧
  gives (.rem d a b) 6 (if y = 0 then x else BitVec.ofInt 64 (x.toInt.tmod y.toInt)) ∧
  gives (.remu d a b) 7 (if y = 0 then x else BitVec.ofNat 64 (x.toNat % y.toNat)) ∧
  gives (.mulW d a b) 8 ((u * w).signExtend 64) ∧
  gives (.divW d a b) 9 (if w = 0 then BitVec.allOnes 64 else (BitVec.ofInt 32 (u.toInt.tdiv w.toInt)).signExtend 64) ∧
  gives (.divuW d a b) 10 (if w = 0 then BitVec.allOnes 64 else (BitVec.ofNat 32 (u.toNat / w.toNat)).signExtend 64) ∧
  gives (.remW d a b) 11 (if w = 0 then u.signExtend 64 else (BitVec.ofInt 32 (u.toInt.tmod w.toInt)).signExtend 64) ∧
  gives (.remuW d a b) 12 (if w = 0 then u.signExtend 64 else (BitVec.ofNat 32 (u.toNat % w.toNat)).signExtend 64) ∧
  refusesWords (fun w => wOp w = 3 ∧ 13 ≤ wF w)

/-- R181, R182: the one-source operations of major 0x04, told by what their result satisfies, and csel. -/
def Obligations.BitAndSelectResults : Prop := ∀ (d a b : Reg) (s : State),
  let ends (i : Instr) (p : Word → Prop) : Prop := s.passes (encode i) → ∃ v, exec i s = .next ((s.entered (encode i)).sset d v).adv ∧ p v
  let gives (i : Instr) (f : Nat) (p : Word → Prop) : Prop := isRr i 4 f d a 0 ∧ ends i p
  let x := s.sget a
  let y := s.sget b
  gives (.clz d a) 0 (fun v => v.toNat ≤ 64 ∧ x.toNat < 2 ^ (64 - v.toNat) ∧ (v.toNat < 64 → 2 ^ (63 - v.toNat) ≤ x.toNat)) ∧
  gives (.ctz d a) 1 (fun v => v.toNat ≤ 64 ∧ (∀ i < v.toNat, x.getLsbD i = false) ∧ (v.toNat < 64 → x.getLsbD v.toNat = true)) ∧
  gives (.popc d a) 2 (fun v => v.toNat = (List.range 64).countP fun i => x.getLsbD i) ∧
  gives (.bswap d a) 3 (fun v => ∀ i < 64, v.getLsbD i = x.getLsbD (8 * (7 - i / 8) + i % 8)) ∧
  gives (.brev d a) 4 (fun v => ∀ i < 64, v.getLsbD i = x.getLsbD (63 - i)) ∧
  gives (.sextb d a) 5 (fun v => v = (x.setWidth 8).signExtend 64) ∧
  gives (.sexth d a) 6 (fun v => v = (x.setWidth 16).signExtend 64) ∧
  gives (.sextw d a) 7 (fun v => v = (x.setWidth 32).signExtend 64) ∧
  gives (.zextb d a) 8 (fun v => v = (x.setWidth 8).setWidth 64) ∧
  gives (.zexth d a) 9 (fun v => v = (x.setWidth 16).setWidth 64) ∧
  gives (.zextw d a) 10 (fun v => v = (x.setWidth 32).setWidth 64) ∧
  isRr (.csel d a b) 5 0 d a b ∧ ends (.csel d a b) (fun v => v = if s.sget d ≠ 0 then x else y) ∧
  refusesWords (fun w => wOp w = 4 ∧ (11 ≤ wF w ∨ wordBits w 21 7 ≠ 0)) ∧ refusesWords (fun w => wOp w = 5 ∧ 1 ≤ wF w)

/-- R183: major 0x06 on mask triples. -/
def Obligations.TripleResults : Prop := ∀ (d a b : Reg) (s : State),
  let sets (i : Instr) (c : Nat) (f : Nat → Bool) : Prop := isRr i 6 c d a (if c = 4 then 0 else b) ∧
    (s.passes (encode i) → exec i s = .next ((s.entered (encode i)).tset d f).adv)
  let x := s.tbit a
  let y := s.tbit b
  sets (.mand3 d a b) 0 (fun j => x j && y j) ∧ sets (.mor3 d a b) 1 (fun j => x j || y j) ∧
  sets (.mandn3 d a b) 2 (fun j => x j && !y j) ∧ sets (.mxor3 d a b) 3 (fun j => x j != y j) ∧
  sets (.mnot3 d a) 4 (fun j => !x j) ∧
  (s.passes (encode (.mcnt3 d a)) →
    exec (.mcnt3 d a) s = .next ((s.entered (encode (.mcnt3 d a))).sset d (BitVec.ofNat 64 ((List.range 96).countP x))).adv) ∧
  (s.passes (encode (.mfirst3 d a)) → ∃ n ≤ 96, exec (.mfirst3 d a) s = .next ((s.entered (encode (.mfirst3 d a))).sset d (BitVec.ofNat 64 n)).adv ∧
    (∀ j < n, x j = false) ∧ (n < 96 → x n = true)) ∧
  isRr (.mcnt3 d a) 6 5 d a 0 ∧ isRr (.mfirst3 d a) 6 6 d a 0 ∧ refusesWords (fun w => wOp w = 6 ∧ (7 ≤ wF w ∨ (4 ≤ wF w ∧ wordBits w 21 7 ≠ 0) ∨
    (wF w ≤ 4 ∧ 125 < wordBits w 7 7) ∨ 125 < wordBits w 14 7 ∨ (wF w ≤ 3 ∧ 125 < wordBits w 21 7)))

/-- R184, R185: the immediate forms and the constants. -/
def Obligations.ImmediateResults : Prop := ∀ (d a : Reg) (i : BitVec 11) (k : BitVec 6) (u : BitVec 18) (s : State),
  let ends (i : Instr) (v : Word) : Prop := s.passes (encode i) → exec i s = .next ((s.entered (encode i)).sset d v).adv
  let gives (j : Instr) (op : Nat) (v : Word) : Prop := isRi j op d a i.toNat ∧ ends j v
  let shifts (j : Instr) (op : Nat) (v : Word) : Prop := isRi j op d a k.toNat ∧ ends j v
  let wide (j : Instr) (op : Nat) (v : Word) : Prop := (encode j).toNat = op + 2 ^ 7 * d.toNat + 2 ^ 14 * u.toNat ∧ ends j v
  let x := s.sget a
  let se : Word := i.signExtend 64
  let ze : Word := i.setWidth 64
  gives (.addi d a i) 0x10 (x + se) ∧ gives (.andi d a i) 0x11 (x &&& ze) ∧ gives (.ori d a i) 0x12 (x ||| ze) ∧ gives (.xori d a i) 0x13 (x ^^^ ze) ∧
  gives (.slti d a i) 0x14 (if x.toInt < i.toInt then 1 else 0) ∧ gives (.sltiu d a i) 0x15 (if x.toNat < se.toNat then 1 else 0) ∧
  shifts (.slli d a k) 0x16 (BitVec.ofNat 64 (x.toNat * 2 ^ k.toNat)) ∧ shifts (.srli d a k) 0x17 (BitVec.ofNat 64 (x.toNat / 2 ^ k.toNat)) ∧
  shifts (.srai d a k) 0x18 (BitVec.ofInt 64 (x.toInt / 2 ^ k.toNat)) ∧
  gives (.addiW d a i) 0x19 ((x.setWidth 32 + i.signExtend 32 : W32).signExtend 64) ∧
  wide (.ldi d u) 0x1a (u.signExtend 64) ∧
  wide (.lsh d u) 0x1b (BitVec.ofNat 64 ((s.sget d).toNat * 2 ^ 18 + u.toNat)) ∧
  wide (.pcadd d u) 0x1c (s.th.pc + BitVec.ofInt 64 (4 * u.toInt)) ∧
  refusesWords (fun w => 0x16 ≤ wOp w ∧ wOp w ≤ 0x18 ∧ 2 ^ 27 ≤ w.toNat)

/-- R114, R186, R187: a branch goes to its target when its condition holds, and to the next word when it does not. -/
def Obligations.BranchOutcomes : Prop := ∀ (a b : Reg) (x : BitVec 11) (s : State),
  let branches (i : Instr) (op : Nat) (c : Prop) : Prop := isRi i op a (if 0x26 ≤ op then 0 else b) x.toNat ∧ (s.passes (encode i) →
    (c → exec i s = .next ((s.entered (encode i)).goto (s.th.pc + BitVec.ofInt 64 (4 * x.toInt)))) ∧
    (¬c → exec i s = .next (s.entered (encode i)).adv))
  let v := s.sget a
  let w := s.sget b
  branches (.beq a b x) 0x20 (v = w) ∧ branches (.bne a b x) 0x21 (v ≠ w) ∧
  branches (.blt a b x) 0x22 (v.toInt < w.toInt) ∧ branches (.bge a b x) 0x23 (w.toInt ≤ v.toInt) ∧
  branches (.bltu a b x) 0x24 (v.toNat < w.toNat) ∧ branches (.bgeu a b x) 0x25 (w.toNat ≤ v.toNat) ∧
  branches (.bnone a x) 0x26 (∀ j < 96, s.tbit a j = false) ∧ branches (.bany a x) 0x27 (∃ j < 96, s.tbit a j = true) ∧
  branches (.ball a x) 0x28 (∀ j < 96, s.tbit a j = true) ∧
  refusesWords (fun w => 0x26 ≤ wOp w ∧ wOp w ≤ 0x28 ∧ (wordBits w 14 7 ≠ 0 ∨ 125 < wordBits w 7 7))

/-- R114, R188: jumps, calls, and the misaligned target of jalr; TRAPINFO 0 of that trap is the model's (log 15). The leader of a dual
pair holds the trap until its shadow stands at the same instruction (R399). -/
def Obligations.JumpOutcomes : Prop := ∀ (d a : Reg) (x : BitVec 25) (s : State),
  let t := s.th.pc + BitVec.ofInt 64 (4 * x.toInt)
  (s.passes (encode (.jmp x)) → exec (.jmp x) s = .next ((s.entered (encode (.jmp x))).goto t)) ∧
  (s.passes (encode (.jal x)) → exec (.jal x) s = .next (((s.entered (encode (.jal x))).sset 1 (s.th.pc + 4)).goto t)) ∧
  (s.passes (encode (.jalr d a)) → (s.sget a).toNat % 4 = 0 →
    exec (.jalr d a) s = .next (((s.entered (encode (.jalr d a))).sset d (s.th.pc + 4)).goto (s.sget a))) ∧
  (s.passes (encode (.jalr d a)) → (s.sget a).toNat % 4 ≠ 0 →
    (s.th.partner = none →
      exec (.jalr d a) s = .next ((s.entered (encode (.jalr d a))).takePrecise ⟨3, false, s.th.pc, s.sget a, 0, none⟩)) ∧
    (∀ v, s.th.partner = some v → s.th.shadow = false → (s.thread v).icount ≠ s.th.icount → exec (.jalr d a) s = .next (s.waitAt .pair))) ∧
  (encode (.jmp x)).toNat = 0x29 + 2 ^ 7 * x.toNat ∧ (encode (.jal x)).toNat = 0x2A + 2 ^ 7 * x.toNat ∧ isRr (.jalr d a) 0x2B 0 d a 0 ∧
  refusesWords (fun w => wOp w = 0x2B ∧ (1 ≤ wF w ∨ wordBits w 21 7 ≠ 0))

/-- R172, R174: `adv` and `goto` are what an instruction without another effect does: they move the pc, count the
instruction in program order, end a wait, and change nothing else. -/
def Obligations.SequencingFrame : Prop := ∀ (s : State) (t : Word),
  (s.adv = { s with th := { s.th with
    pc := s.th.pc + 4, seq := s.th.seq + 1, icount := s.th.icount + 1, wait := none
    lastIssue := s.cycles, boost := false, starved := 0 } }) ∧
  (s.goto t = { s.adv with th := { s.adv.th with pc := t } }) ∧
  (∀ h, s.passes (encode (.hint h)) → exec (.hint h) s = .next (s.entered (encode (.hint h))).adv) ∧
  (s.passes (encode .yield) → exec .yield s = .next (s.entered (encode .yield)).adv) ∧
  (∀ k, s.passes (encode (.vwin k)) →
    exec (.vwin k) s = .next ((s.entered (encode (.vwin k))).modTh fun t => { t with vbase := 32 * k.toNat }).adv)

/-- R172, R173: a scalar result changes one register of the running thread and the pc. Every other scalar register, every vector
register, every flag and special register, and everything outside the thread stay as they were. -/
def Obligations.ScalarResultFrame : Prop := ∀ (s : State) (d : Reg) (v : Word),
  let t := (s.sset d v).adv
  (∀ r, r ≠ d → t.sget r = s.sget r) ∧ t.th.pc = s.th.pc + 4 ∧ t = { s with th := t.th } ∧
  (∀ a, t.tier.read a = s.tier.read a ∧ t.seed.read a = s.seed.read a ∧ t.host.mem.read a = s.host.mem.read a) ∧
  t.th = { s.th with
    pc := t.th.pc, seq := t.th.seq, icount := t.th.icount, wait := none, lastIssue := t.th.lastIssue, boost := false, starved := 0
    sreg := t.th.sreg, treg := t.th.treg, sPoison := t.th.sPoison, out := t.th.out }

/-! ### Vector results -/

/-- R198, R199: a vector result changes the active elements of one architectural register of the running thread, makes it live,
and moves the pc. Inactive elements keep what they held (zeros where the register was not live); every other one of the 512
architectural vector registers, every scalar register, every flag and everything outside the thread stay as they were. -/
def Obligations.VectorResultFrame : Prop := ∀ (s : State) (w : W32) (d : Reg) (f : Nat → W32),
  let t := ((s.entered w).vset d f).adv
  (∀ j < 96, t.elem d j = if s.active j then f j else s.elem d j) ∧
  t.th.vreg.has (s.varch d) = true ∧
  (s.th.vreg.has (s.varch d) = false → ∀ j, s.elem d j = 0) ∧
  (∀ u, u ≠ s.varch d → t.th.vreg.get? u = s.th.vreg.get? u) ∧
  (∀ r, t.sget r = s.sget r) ∧ t.th.pc = s.th.pc + 4 ∧ t = { s with th := t.th } ∧
  t.th = { s.th with
    pc := t.th.pc, seq := t.th.seq, icount := t.th.icount, wait := none, lastIssue := t.th.lastIssue, boost := false, starved := 0
    vreg := t.th.vreg, bound := t.th.bound, vPoison := t.th.vPoison, out := t.th.out, tx := t.th.tx, trace := t.th.trace }

/-- R203: majors 0x40 and 0x41, with the vector and the scalar operand. -/
def Obligations.VectorIntegerResults : Prop := ∀ (d a b : Reg) (s : State),
  let gives (i : Instr) (f : Nat → W32) : Prop :=
    s.passes (encode i) → exec i s = .next ((s.entered (encode i)).vset d f).adv
  let both (i k : Instr) (c : Nat) (f : W32 → W32 → W32) : Prop := isRr i 0x40 c d a b ∧ isRr k 0x41 c d a b ∧
    gives i (fun j => f (s.elem a j) (s.elem b j)) ∧ gives k (fun j => f (s.elem a j) ((s.sget b).setWidth 32))
  both (.vadd d a b) (.vaddS d a b) 0 (fun x y => x + y) ∧
  both (.vsub d a b) (.vsubS d a b) 1 (fun x y => x - y) ∧
  both (.vmul d a b) (.vmulS d a b) 2 (fun x y => BitVec.ofNat 32 (x.toNat * y.toNat)) ∧
  both (.vmulh d a b) (.vmulhS d a b) 3 (fun x y => BitVec.ofInt 32 (x.toInt * y.toInt / 2 ^ 32)) ∧
  both (.vmulhu d a b) (.vmulhuS d a b) 4 (fun x y => BitVec.ofNat 32 (x.toNat * y.toNat / 2 ^ 32)) ∧
  both (.vand d a b) (.vandS d a b) 5 (fun x y => x &&& y) ∧
  both (.vor d a b) (.vorS d a b) 6 (fun x y => x ||| y) ∧
  both (.vxor d a b) (.vxorS d a b) 7 (fun x y => x ^^^ y) ∧
  both (.vsll d a b) (.vsllS d a b) 8 (fun x y => BitVec.ofNat 32 (x.toNat * 2 ^ (y.toNat % 32))) ∧
  both (.vsrl d a b) (.vsrlS d a b) 9 (fun x y => BitVec.ofNat 32 (x.toNat / 2 ^ (y.toNat % 32))) ∧
  both (.vsra d a b) (.vsraS d a b) 10 (fun x y => BitVec.ofInt 32 (x.toInt / 2 ^ (y.toNat % 32))) ∧
  both (.vmin d a b) (.vminS d a b) 11 (fun x y => if x.toInt ≤ y.toInt then x else y) ∧
  both (.vmax d a b) (.vmaxS d a b) 12 (fun x y => if x.toInt ≤ y.toInt then y else x) ∧
  both (.vminu d a b) (.vminuS d a b) 13 (fun x y => if x.toNat ≤ y.toNat then x else y) ∧
  both (.vmaxu d a b) (.vmaxuS d a b) 14 (fun x y => if x.toNat ≤ y.toNat then y else x) ∧
  both (.vandn d a b) (.vandnS d a b) 15 (fun x y => x &&& ~~~y)

/-- R204, R205: majors 0x42 and 0x43. The bit counts and reversals are told by what the element satisfies. -/
def Obligations.VectorUnaryAndMultiplyAccumulate : Prop := ∀ (d a b : Reg) (s : State),
  let gives (i : Instr) (f : Nat → W32) : Prop :=
    s.passes (encode i) → exec i s = .next ((s.entered (encode i)).vset d f).adv
  let unary (i : Instr) (c : Nat) (p : W32 → W32 → Prop) : Prop := isRr i 0x42 c d a 0 ∧ ∃ f : W32 → W32, (∀ x, p x (f x)) ∧ gives i (fun j => f (s.elem a j))
  let sums (i : Instr) (c : Nat) (f : Nat → W32) : Prop := isRr i 0x43 c d a b ∧ gives i f
  let z (j : Nat) : Nat := (s.elem d j).toNat
  let m (j : Nat) : Nat := (s.elem a j).toNat * (s.elem b j).toNat
  let ms (j : Nat) : Nat := (s.elem a j).toNat * ((s.sget b).toNat % 2 ^ 32)
  unary (.vabs d a) 0 (fun x v => v = BitVec.ofInt 32 |x.toInt|) ∧
  unary (.vneg d a) 1 (fun x v => v = BitVec.ofInt 32 (-x.toInt)) ∧
  unary (.vclz d a) 2 (fun x v => v.toNat ≤ 32 ∧ x.toNat < 2 ^ (32 - v.toNat) ∧ (v.toNat < 32 → 2 ^ (31 - v.toNat) ≤ x.toNat)) ∧
  unary (.vpopc d a) 3 (fun x v => v.toNat = (List.range 32).countP fun i => x.getLsbD i) ∧
  unary (.vbrev d a) 4 (fun x v => ∀ i < 32, v.getLsbD i = x.getLsbD (31 - i)) ∧
  unary (.vbswap d a) 5 (fun x v => ∀ i < 32, v.getLsbD i = x.getLsbD (8 * (3 - i / 8) + i % 8)) ∧
  unary (.vsextb d a) 6 (fun x v => v = (x.setWidth 8).signExtend 32) ∧
  unary (.vsexth d a) 7 (fun x v => v = (x.setWidth 16).signExtend 32) ∧
  unary (.vzextb d a) 8 (fun x v => v = (x.setWidth 8).setWidth 32) ∧
  unary (.vzexth d a) 9 (fun x v => v = (x.setWidth 16).setWidth 32) ∧
  unary (.vnot d a) 10 (fun x v => v = ~~~x) ∧
  sums (.vmad d a b) 0 (fun j => BitVec.ofNat 32 (z j + m j)) ∧
  sums (.vmsb d a b) 1 (fun j => BitVec.ofInt 32 ((z j : Int) - m j)) ∧
  sums (.vmadS d a b) 2 (fun j => BitVec.ofNat 32 (z j + ms j)) ∧
  sums (.vmsbS d a b) 3 (fun j => BitVec.ofInt 32 ((z j : Int) - ms j)) ∧
  refusesWords (fun w => wOp w = 0x42 ∧ (11 ≤ wF w ∨ wordBits w 21 7 ≠ 0)) ∧ refusesWords (fun w => wOp w = 0x43 ∧ 4 ≤ wF w)

/-- R198, R206: integer comparisons into a triple, whose inactive lanes are written as 0. -/
def Obligations.VectorCompareResults : Prop := ∀ (d a b : Reg) (s : State),
  let sets (i : Instr) (f : Nat → Bool) : Prop :=
    s.passes (encode i) → exec i s = .next ((s.entered (encode i)).tset d fun j => s.active j && f j).adv
  let both (i k : Instr) (c : Nat) (f : W32 → W32 → Bool) : Prop := isRr i 0x44 c d a b ∧ isRr k 0x45 c d a b ∧
    sets i (fun j => f (s.elem a j) (s.elem b j)) ∧ sets k (fun j => f (s.elem a j) ((s.sget b).setWidth 32))
  both (.vcmpEq d a b) (.vcmpEqS d a b) 0 (fun x y => decide (x = y)) ∧
  both (.vcmpNe d a b) (.vcmpNeS d a b) 1 (fun x y => decide (x ≠ y)) ∧
  both (.vcmpLt d a b) (.vcmpLtS d a b) 2 (fun x y => decide (x.toInt < y.toInt)) ∧
  both (.vcmpLe d a b) (.vcmpLeS d a b) 3 (fun x y => decide (x.toInt ≤ y.toInt)) ∧
  both (.vcmpLtu d a b) (.vcmpLtuS d a b) 4 (fun x y => decide (x.toNat < y.toNat)) ∧
  both (.vcmpLeu d a b) (.vcmpLeuS d a b) 5 (fun x y => decide (x.toNat ≤ y.toNat)) ∧
  refusesWords (fun w => (wOp w = 0x44 ∨ wOp w = 0x45) ∧ (6 ≤ wF w ∨ 125 < wordBits w 7 7))

/-- R214: moving elements between lanes; vins changes the element its index names where that lane is active, vfree ends a register's
liveness. -/
def Obligations.VectorMoveResults : Prop := ∀ (d a b : Reg) (s : State),
  let gives (i : Instr) (f : Nat → W32) : Prop :=
    s.passes (encode i) → exec i s = .next ((s.entered (encode i)).vset d f).adv
  let n := (s.sget b).toNat
  let kept (t : State) : Prop := t = { s with th := t.th } ∧ (∀ r, t.sget r = s.sget r) ∧ t.th = { s.th with
    pc := t.th.pc, seq := t.th.seq, icount := t.th.icount, wait := none, lastIssue := t.th.lastIssue, boost := false, starved := 0
    vreg := t.th.vreg, bound := t.th.bound, vPoison := t.th.vPoison, out := t.th.out, tx := t.th.tx, trace := t.th.trace }
  gives (.vmov d a) (fun j => s.elem a j) ∧
  gives (.vbcs d a) (fun _ => (s.sget a).setWidth 32) ∧
  gives (.vlid d) (fun j => BitVec.ofNat 32 j) ∧
  gives (.vperm d a b) (fun j => if (s.elem b j).toNat < 96 then s.elem a (s.elem b j).toNat else 0) ∧
  gives (.vslup d a b) (fun j => if n ≤ j then s.elem a (j - n) else 0) ∧
  gives (.vsldn d a b) (fun j => if j + n < 96 then s.elem a (j + n) else 0) ∧
  gives (.vmrg d a b) (fun j => if j % 2 = 0 then s.elem a (j / 2) else s.elem b (j / 2)) ∧
  (s.passes (encode (.vext d a b)) → exec (.vext d a b) s = .next
    ((s.entered (encode (.vext d a b))).sset d (if n < 96 then (s.elem a n).signExtend 64 else 0)).adv) ∧
  (s.passes (encode (.vins d a b)) → ∃ t, exec (.vins d a b) s = .next t ∧ t.th.pc = s.th.pc + 4 ∧
    (∀ j < 96, t.elem d j = if j = n ∧ s.active j then (s.sget a).setWidth 32 else s.elem d j) ∧
    (∀ u, u ≠ s.varch d → t.th.vreg.get? u = s.th.vreg.get? u) ∧ kept t) ∧
  (s.passes (encode (.vfree d)) → ∃ t, exec (.vfree d) s = .next t ∧ t.th.pc = s.th.pc + 4 ∧
    t.th.vreg.has (s.varch d) = false ∧ s.varch d ∉ t.th.bound ∧ (∀ j, t.elem d j = 0) ∧
    (∀ u, u ≠ s.varch d → t.th.vreg.get? u = s.th.vreg.get? u) ∧ kept t)

/-- R151, R215, R216: integer reductions over the active lanes, and scans; vsfadd adds in ascending lane order under RNE. -/
def Obligations.ReductionAndScanResults : Prop := ∀ (d a : Reg) (s : State),
  let xs : List W32 := s.activeLanes.map (s.elem a)
  let upTo (j : Nat) : List W32 := (s.activeLanes.filter fun i => decide (i ≤ j)).map (s.elem a)
  let before (j : Nat) : List W32 := (s.activeLanes.filter fun i => decide (i < j)).map (s.elem a)
  let gives (i : Instr) (v : Word) : Prop := s.passes (encode i) → exec i s = .next ((s.entered (encode i)).sset d v).adv
  let scans (i : Instr) (p : Nat → W32 → Prop) : Prop := s.passes (encode i) →
    ∃ f : Nat → W32, exec i s = .next ((s.entered (encode i)).vset d f).adv ∧ ∀ j < 96, s.active j = true → p j (f j)
  let leastS (l : List W32) (v : Int) (top : Int) : Prop := (∀ x ∈ l, v ≤ x.toInt) ∧ (v = top ∨ ∃ x ∈ l, v = x.toInt)
  let greatestS (l : List W32) (v : Int) (bot : Int) : Prop := (∀ x ∈ l, x.toInt ≤ v) ∧ (v = bot ∨ ∃ x ∈ l, v = x.toInt)
  gives (.vradd d a) (BitVec.ofInt 64 (xs.map BitVec.toInt).sum) ∧
  (∃ v, leastS xs v (2 ^ 31 - 1) ∧ gives (.vrmin d a) (BitVec.ofInt 64 v)) ∧
  (∃ v, greatestS xs v (-2 ^ 31) ∧ gives (.vrmax d a) (BitVec.ofInt 64 v)) ∧
  (∃ v : Nat, (∀ x ∈ xs, v ≤ x.toNat) ∧ (v = 2 ^ 32 - 1 ∨ ∃ x ∈ xs, v = x.toNat) ∧ gives (.vrminu d a) (BitVec.ofNat 64 v)) ∧
  (∃ v : Nat, (∀ x ∈ xs, x.toNat ≤ v) ∧ (v = 0 ∨ ∃ x ∈ xs, v = x.toNat) ∧ gives (.vrmaxu d a) (BitVec.ofNat 64 v)) ∧
  (∃ v : Word, (∀ i, v.getLsbD i = (decide (i < 32) && xs.all fun x => x.getLsbD i)) ∧ gives (.vrand d a) v) ∧
  (∃ v : Word, (∀ i, v.getLsbD i = xs.any fun x => x.getLsbD i) ∧ gives (.vror d a) v) ∧
  (∃ v : Word, (∀ i, v.getLsbD i = decide ((xs.countP fun x => x.getLsbD i) % 2 = 1)) ∧ gives (.vrxor d a) v) ∧
  scans (.vsadd d a) (fun j v => v = BitVec.ofNat 32 ((upTo j).map BitVec.toNat).sum) ∧
  scans (.vsaddx d a) (fun j v => v = BitVec.ofNat 32 ((before j).map BitVec.toNat).sum) ∧
  scans (.vsmax d a) (fun j v => greatestS (upTo j) v.toInt (-2 ^ 31)) ∧
  scans (.vsmin d a) (fun j v => leastS (upTo j) v.toInt (2 ^ 31 - 1)) ∧
  (s.passes (encode (.vsfadd d a)) → ∃ f : Nat → W32, exec (.vsfadd d a) s = .next ((s.entered (encode (.vsfadd d a))).vset d f).adv ∧
    ∀ j < 96, s.active j = true →
      ((∀ i < j, s.active i = false) → f j = if (fp32.val (s.elem a j).toNat).isNan then 0x7FC00000 else s.elem a j) ∧
      (∀ i < j, s.active i = true → (∀ k, i < k → k < j → s.active k = false) →
        f j = BitVec.ofNat 32 (fp32.addV 0 false (fp32.val (f i).toNat) (fp32.val (s.elem a j).toNat)).1))

/-- R217, R218: hashing, partitioning, byte strings and the histogram. -/
def Obligations.HashAndStringResults : Prop := ∀ (d a b : Reg) (s : State),
  let gives (i : Instr) (p : W32 → W32 → W32 → Prop) : Prop := s.passes (encode i) →
    ∃ f : Nat → W32, exec i s = .next ((s.entered (encode i)).vset d f).adv ∧ ∀ j < 96, s.active j = true → p (s.elem a j) (s.elem b j) (f j)
  let byte (x : W32) (i : Nat) : Nat := x.toNat / 2 ^ (8 * i) % 256
  let k := (s.sget b).toNat % 64
  let crcByte (c : W32) (v : Nat) : W32 := (List.range 8).foldl
    (fun (c : W32) _ => (c >>> (1 : Nat)) ^^^ (if c.getLsbD 0 then 0x82F63B78 else 0)) (c ^^^ BitVec.ofNat 32 v)
  let first (n : Nat) (p : Nat → Prop) : Prop := (∀ i < n, ¬p i) ∧ (n < 4 → p n) ∧ n ≤ 4
  gives (.vhcrc d a b) (fun x _ v => v = (List.range 4).foldl (fun c i => crcByte c (byte x i)) ((s.sget b).setWidth 32)) ∧
  gives (.vhmix d a b) (fun x y v =>
    let h := x ^^^ (y * 0x7A3DC5B3)
    let h := (h ^^^ (h >>> (16 : Nat))) * 0x4C1F2E95
    v = h ^^^ (h >>> (15 : Nat))) ∧
  gives (.vpart d a b) (fun x _ v => v.toNat = if k = 0 then 0 else if 32 ≤ k then x.toNat else x.toNat / 2 ^ (32 - k)) ∧
  gives (.vbfz d a) (fun x _ v => first v.toNat (fun i => byte x i = 0)) ∧
  gives (.vbdif d a b) (fun x y v => ∃ n, first n (fun i => byte x i ≠ byte y i) ∧
    v.toInt = if n = 4 then 0 else ((byte x n : Int) - byte y n) * 8 + n) ∧
  (s.passes (encode (.vbeq d a b)) → ∃ f : Nat → Bool,
    exec (.vbeq d a b) s = .next ((s.entered (encode (.vbeq d a b))).tset d fun j => s.active j && f j).adv ∧
    ∀ j < 96, ∀ n, first n (fun i => byte (s.elem a j) i = 0) →
      f j = decide (∀ i ≤ min n 3, byte (s.elem a j) i = byte (s.elem b j) i)) ∧
  (s.passes (encode (.vhist d a)) → ∃ f : Nat → W32, exec (.vhist d a) s = .next ((s.entered (encode (.vhist d a))).vset d f).adv ∧
    ∀ j < 96, s.active j = true → (f j).toNat =
      (s.activeLanes.countP fun i => s.elem a i = s.elem a j) * 2 ^ 16 + s.activeLanes.countP fun i => i < j && s.elem a i = s.elem a j) ∧
  isRr (.vhcrc d a b) 0x50 0 d a b ∧ isRr (.vhmix d a b) 0x50 1 d a b ∧ isRr (.vpart d a b) 0x50 2 d a b ∧ isRr (.vbeq d a b) 0x50 3 d a b ∧
  isRr (.vbfz d a) 0x50 4 d a 0 ∧ isRr (.vbdif d a b) 0x50 5 d a b ∧ isRr (.vhist d a) 0x51 0 d a 0 ∧
  refusesWords (fun w => wOp w = 0x50 ∧ (6 ≤ wF w ∨ (wF w = 3 ∧ 125 < wordBits w 7 7) ∨ (wF w = 4 ∧ wordBits w 21 7 ≠ 0))) ∧
  refusesWords (fun w => wOp w = 0x51 ∧ (1 ≤ wF w ∨ wordBits w 21 7 ≠ 0))

/-! ### Floating point -/

/-- R128, R134: what a bit pattern of a format stands for, and that FTZ reads a subnormal as zero of its sign. -/
def Obligations.FloatFormatValues : Prop := ∀ (f : FpFmt) (x : Nat) (ftz : Bool), f ∈ [fp64, fp32, fp16, bf16, e5m2, e4m3] →
  x < 2 ^ (f.eb + f.fb + 1) →
  let n := decide (2 ^ (f.eb + f.fb) ≤ x)
  let ex := x / 2 ^ f.fb % 2 ^ f.eb
  let fr := x % 2 ^ f.fb
  let bias : Int := 2 ^ (f.eb - 1) - 1
  let e4 := decide (f.fb = 3)
  let num : FpVal → Option ℚ
    | .fin s m e => some ((if s then -1 else 1) * m * (2 : ℚ) ^ e)
    | _ => none
  let sg : ℚ := if n then -1 else 1
  (ex = 0 → num (f.val x) = some (sg * fr * (2 : ℚ) ^ (1 - bias - f.fb))) ∧
  (0 < ex → ex < 2 ^ f.eb - 1 ∨ (e4 = true ∧ fr ≠ 7) →
    num (f.val x) = some (sg * (1 + (fr : ℚ) / 2 ^ f.fb) * (2 : ℚ) ^ ((ex : Int) - bias)) ∧ f.input ftz x = f.val x) ∧
  (e4 = false → ex = 2 ^ f.eb - 1 → fr = 0 → f.val x = .inf n ∧ f.input ftz x = .inf n) ∧
  (e4 = false → ex = 2 ^ f.eb - 1 → fr ≠ 0 →
    f.val x = .nan (decide (fr < 2 ^ (f.fb - 1))) ∧ f.input ftz x = f.val x) ∧
  (e4 = true → ex = 15 → fr = 7 → f.val x = .nan false ∧ f.input ftz x = .nan false) ∧
  (ex = 0 → ftz = true → num (f.input ftz x) = some 0 ∧ ∃ e, f.input ftz x = .fin n 0 e) ∧
  (ex = 0 → ftz = false → f.input ftz x = f.val x)

/-- R121, R133, R134: rounding. For an exact value q > 0 between m · 2^e and (m + 1) · 2^e (equal to m · 2^e when nothing is left
over), the magnitude delivered without FTZ is the format's value that the rounding mode picks: under RNE no value of the format is
nearer, and of two equally near ones the even one is taken; otherwise the neighbour on the mode's side. NX says that it differs from
q, UF (log 47) that it does and lies below the smallest normal. An overflow sets OF and NX and delivers what its column says, in E4M3
always 448. With FTZ a result below the smallest normal is a zero of its sign with UF and NX (where it rounds to 0, by log 47), and
any other result is the same. -/
def Obligations.RoundingIsCorrect : Prop := ∀ (f : FpFmt) (rm : Nat) (neg : Bool) (m : Nat) (e : Int) (t : Bool) (q : ℚ),
  f ∈ [fp64, fp32, fp16, bf16, e5m2, e4m3] → rm < 4 → 0 < m → (t = true → 2 ^ (f.fb + 2) ≤ m) →
  (t = false → q = m * (2 : ℚ) ^ e) → (t = true → m * (2 : ℚ) ^ e < q ∧ q < (m + 1) * (2 : ℚ) ^ e) →
  let r := f.round rm false neg m e t
  let sign := if neg then 2 ^ (f.eb + f.fb) else 0
  let mag := r.1 % 2 ^ (f.eb + f.fb)
  let e4 : Prop := f.fb = 3
  let top := (2 ^ f.eb - 1) * 2 ^ f.fb + if e4 then 7 else 0
  let val (x : Nat) : ℚ := match f.val x with
    | .fin _ m e => m * (2 : ℚ) ^ e
    | _ => 0
  let big := val (top - 1)
  let half := (2 : ℚ) ^ ((2 : Int) ^ (f.eb - 1) - (if e4 then 1 else 2) - f.fb)
  let inward : Prop := rm = 1 ∨ (rm = 2 ∧ neg = true) ∨ (rm = 3 ∧ neg = false)
  let outward : Prop := (rm = 2 ∧ neg = false) ∨ (rm = 3 ∧ neg = true)
  let past : Prop := (rm = 0 ∧ big + half ≤ q) ∨ (inward ∧ big + 2 * half ≤ q) ∨ (outward ∧ big < q)
  r.1 = mag + sign ∧
  (past → r.2 = 4 + 16 ∧ mag = if e4 ∨ inward then top - 1 else top) ∧
  (¬past → mag < top ∧
    (rm = 0 → ∀ y < top, |val mag - q| ≤ |val y - q| ∧ (y ≠ mag → |val mag - q| = |val y - q| → mag % 2 = 0)) ∧
    (inward → val mag ≤ q ∧ ∀ y < top, val mag < val y → q < val y) ∧
    (outward → q ≤ val mag ∧ ∀ y < top, val y < val mag → val y < q) ∧
    r.2 % 8 = 0 ∧ r.2 < 32 ∧ (r.2 / 16 % 2 = 1 ↔ val mag ≠ q) ∧ (r.2 / 8 % 2 = 1 ↔ val mag ≠ q ∧ mag < 2 ^ f.fb)) ∧
  f.round rm true neg m e t = if mag < 2 ^ f.fb then (sign, 8 + 16) else r

/-- R132, R201, R382: the flags of an instruction are added to FSTAT, and nothing else of the thread changes; where FLOGEN
enables one of them, its context's arithmetic log receives one 16-byte record, or counts a drop where it holds its `logCap` records. -/
def Obligations.FlagsAreSticky : Prop := ∀ (s : State) (fl : Nat),
  let t := s.flag fl
  t.th = { s.th with fstat := s.th.fstat ||| BitVec.ofNat 5 fl } ∧ t = { s with th := t.th, ctxs := t.ctxs } ∧
  (fl &&& s.th.flogen.toNat = 0 → t.ctxs = s.ctxs) ∧
  (∀ c, c ≠ s.th.ctx → t.ctx c = s.ctx c) ∧
  (fl &&& s.th.flogen.toNat ≠ 0 →
    let log := (s.ctx s.th.ctx).arith
    let wave := dieOf s.th.core * 2 ^ 12 + s.th.core % 128 * 2 ^ 5 + s.th.wslot % 32
    t.ctx s.th.ctx = { s.ctx s.th.ctx with arith :=
      if log.records.length < s.logCap then { log with records := log.records ++
        [leBytes 8 (s.th.pc.toNat / 64 * 64) ++ leBytes 2 wave ++ leBytes 1 (fl &&& s.th.flogen.toNat) ++ leBytes 1 0 ++ leBytes 2 s.th.ctx ++ leBytes 2 0] }
      else { log with drops := log.drops + 1 } })

/-- R129, R134, R207, R208: the results of the FP32 arithmetic of majors 0x46 to 0x48. `rounded q z r` says that r is the exact
value q handed to the format's one rounding, or a zero of sign z. -/
def Obligations.FloatArithmeticResults : Prop := ∀ (d a b : Reg) (s : State),
  let gives (i : Instr) (p : FpVal → FpVal → FpVal → Nat × Nat → Prop) (y : Nat → W32) : Prop := s.passes (encode i) →
    ∃ g : Nat → Nat × Nat,
      exec i s = .next (((s.entered (encode i)).vset d fun j => BitVec.ofNat 32 (g j).1).flag
        ((s.activeLanes.map fun j => (g j).2).foldl (· ||| ·) 0)).adv ∧
      ∀ j < 96, s.active j = true →
        p (fp32.input s.ftz (s.elem a j).toNat) (fp32.input s.ftz (y j).toNat) (fp32.input s.ftz (s.elem d j).toNat) (g j)
  let both (i k : Instr) (p : FpVal → FpVal → FpVal → Nat × Nat → Prop) : Prop :=
    gives i p (fun j => s.elem b j) ∧ gives k p (fun _ => (s.sget b).setWidth 32)
  let num : FpVal → ℚ
    | .fin s m e => (if s then -1 else 1) * m * (2 : ℚ) ^ e
    | _ => 0
  let sgn (n : Bool) (x : Nat) : Nat := x + if n then 2 ^ 31 else 0
  let inf (n : Bool) : Nat := sgn n 0x7F800000
  let nan : Nat := 0x7FC00000
  let rounded (q : ℚ) (z : Bool) (r : Nat × Nat) : Prop :=
    (q = 0 → r = (sgn z 0, 0)) ∧
    (q ≠ 0 → ∃ (m : Nat) (e : Int) (t : Bool), 1 ≤ m ∧ (t = true → 2 ^ 30 ≤ m) ∧ m * (2 : ℚ) ^ e ≤ |q| ∧ |q| < (m + 1) * (2 : ℚ) ^ e ∧
      (t = false ↔ |q| = m * (2 : ℚ) ^ e) ∧ r = fp32.round s.rm s.ftz (decide (q < 0)) m e t)
  let nans (vs : List FpVal) (r : Nat × Nat) (p : Prop) : Prop :=
    if vs.any FpVal.isNan then r = (nan, if vs.any FpVal.isSnan then 1 else 0) else p
  let sum (x y : FpVal) (r : Nat × Nat) : Prop := nans [x, y] r <| match x, y with
    | .inf p, .inf n => r = if p = n then (inf p, 0) else (nan, 1)
    | .inf p, _ => r = (inf p, 0)
    | _, .inf n => r = (inf n, 0)
    | .fin p _ _, .fin n _ _ => rounded (num x + num y) (if p = n then p else decide (s.rm = 3)) r
    | _, _ => True
  let prod (x y : FpVal) (r : Nat × Nat) : Prop := nans [x, y] r <| match x, y with
    | .inf p, .inf n => r = (inf (p != n), 0)
    | .inf p, .fin n m _ => r = if m = 0 then (nan, 1) else (inf (p != n), 0)
    | .fin n m _, .inf p => r = if m = 0 then (nan, 1) else (inf (p != n), 0)
    | .fin p _ _, .fin n _ _ => rounded (num x * num y) (p != n) r
    | _, _ => True
  let quot (x y : FpVal) (r : Nat × Nat) : Prop := nans [x, y] r <| match x, y with
    | .inf _, .inf _ => r = (nan, 1)
    | .inf p, .fin n _ _ => r = (inf (p != n), 0)
    | .fin p _ _, .inf n => r = (sgn (p != n) 0, 0)
    | .fin p m _, .fin n k _ => if k = 0 then r = if m = 0 then (nan, 1) else (inf (p != n), 2) else rounded (num x / num y) (p != n) r
    | _, _ => True
  let fused (x y z : FpVal) (r : Nat × Nat) : Prop := match x, y with
    | .inf _, .fin _ 0 _ => r = (nan, 1)
    | .fin _ 0 _, .inf _ => r = (nan, 1)
    | _, _ => nans [x, y, z] r <| match x, y, z with
      | .inf p, .inf n, .inf k => r = if (p != n) = k then (inf k, 0) else (nan, 1)
      | .inf p, .fin n _ _, .inf k => r = if (p != n) = k then (inf k, 0) else (nan, 1)
      | .fin n _ _, .inf p, .inf k => r = if (p != n) = k then (inf k, 0) else (nan, 1)
      | .inf p, .inf n, _ => r = (inf (p != n), 0)
      | .inf p, .fin n _ _, _ => r = (inf (p != n), 0)
      | .fin n _ _, .inf p, _ => r = (inf (p != n), 0)
      | _, _, .inf k => r = (inf k, 0)
      | .fin p _ _, .fin n _ _, .fin k _ _ =>
        rounded (num x * num y + num z) (if (p != n) = k then k else decide (s.rm = 3)) r
      | _, _, _ => True
  both (.vfadd d a b) (.vfaddS d a b) (fun x y _ r => sum x y r) ∧
  both (.vfsub d a b) (.vfsubS d a b) (fun x y _ r => sum x y.neg r) ∧
  both (.vfmul d a b) (.vfmulS d a b) (fun x y _ r => prod x y r) ∧
  both (.vfdiv d a b) (.vfdivS d a b) (fun x y _ r => quot x y r) ∧
  both (.vfma d a b) (.vfmaS d a b) (fun x y z r => fused x y z r) ∧
  both (.vfms d a b) (.vfmsS d a b) (fun x y z r => fused x y z.neg r) ∧
  both (.vfnma d a b) (.vfnmaS d a b) (fun x y z r => fused x.neg y z.neg r) ∧
  both (.vfnms d a b) (.vfnmsS d a b) (fun x y z r => fused x.neg y z r) ∧
  isRr (.vfma d a b) 0x48 0 d a b ∧ isRr (.vfms d a b) 0x48 1 d a b ∧ isRr (.vfnma d a b) 0x48 2 d a b ∧ isRr (.vfnms d a b) 0x48 3 d a b ∧
  isRr (.vfmaS d a b) 0x48 4 d a b ∧ isRr (.vfmsS d a b) 0x48 5 d a b ∧ isRr (.vfnmaS d a b) 0x48 6 d a b ∧ isRr (.vfnmsS d a b) 0x48 7 d a b ∧
  refusesWords (fun w => wOp w = 0x48 ∧ 8 ≤ wF w)

/-- R130, R207, R209, R210, R211: the instructions that pick, sign, classify or compare FP32 elements, on their bit patterns. -/
def Obligations.FloatSelectionResults : Prop := ∀ (d a b : Reg) (s : State),
  let flags (g : Nat → Nat) : Nat := (s.activeLanes.map g).foldl (· ||| ·) 0
  let gives (i : Instr) (f : Nat → W32) (g : Nat → Nat) : Prop := s.passes (encode i) →
    exec i s = .next (((s.entered (encode i)).vset d f).flag (flags g)).adv
  let sets (i : Instr) (f : Nat → Bool) (g : Nat → Nat) : Prop := s.passes (encode i) →
    exec i s = .next (((s.entered (encode i)).tset d fun j => s.active j && f j).flag (flags g)).adv
  let nan (x : W32) : Bool := decide (0x7F800000 < x.toNat % 2 ^ 31)
  let snan (x : W32) : Bool := nan x && !x.getLsbD 22
  let rd (x : W32) : W32 := if s.ftz && decide (x.toNat / 2 ^ 23 % 256 = 0) then x &&& 0x80000000 else x
  let canon (x : W32) (y : W32) : W32 := if nan x then 0x7FC00000 else y
  let order (x : W32) : Int := if x.msb then -((x.toNat % 2 ^ 31 : Nat) : Int) - 1 else x.toNat
  let value (x : W32) : Int := if x.msb then -((x.toNat % 2 ^ 31 : Nat) : Int) else x.toNat
  let withSign (n : Bool) (x : W32) : W32 := (rd x &&& 0x7FFFFFFF) ||| (if n then 0x80000000 else 0)
  let pick (least : Bool) (x y : W32) : W32 := if nan x then canon y (rd y) else if nan y then rd x
    else if (order (rd x) ≤ order (rd y)) = least then rd x else rd y
  let x (j : Nat) : W32 := s.elem a j
  let nvIf (c : Bool) : Nat := if c then 1 else 0
  let both (i k : Instr) (f : W32 → W32 → W32) : Prop :=
    gives i (fun j => f (x j) (s.elem b j)) (fun j => nvIf (snan (x j) || snan (s.elem b j))) ∧
    gives k (fun j => f (x j) ((s.sget b).setWidth 32)) (fun j => nvIf (snan (x j) || snan ((s.sget b).setWidth 32)))
  let compares (i k : Instr) (quiet : Bool) (f : W32 → W32 → Bool) : Prop :=
    let nv (x y : W32) : Nat := nvIf (if quiet then snan x || snan y else nan x || nan y)
    sets i (fun j => f (x j) (s.elem b j)) (fun j => nv (x j) (s.elem b j)) ∧
    sets k (fun j => f (x j) ((s.sget b).setWidth 32)) (fun j => nv (x j) ((s.sget b).setWidth 32))
  let num (c : Bool) (x y : W32) : Bool := !nan x && !nan y && c
  both (.vfmin d a b) (.vfminS d a b) (pick true) ∧
  both (.vfmax d a b) (.vfmaxS d a b) (pick false) ∧
  both (.vfcsign d a b) (.vfcsignS d a b) (fun x y => canon x (withSign (y.msb && !nan y) x)) ∧
  both (.vfnsign d a b) (.vfnsignS d a b) (fun x y => canon x (withSign (!(y.msb && !nan y)) x)) ∧
  gives (.vfabs d a) (fun j => canon (x j) (withSign false (x j))) (fun j => nvIf (snan (x j))) ∧
  gives (.vfneg d a) (fun j => canon (x j) (withSign (!(x j).msb) (x j))) (fun j => nvIf (snan (x j))) ∧
  compares (.vfcmpFeq d a b) (.vfcmpFeqS d a b) true (fun x y => num (decide (value (rd x) = value (rd y))) x y) ∧
  compares (.vfcmpFlt d a b) (.vfcmpFltS d a b) false (fun x y => num (decide (value (rd x) < value (rd y))) x y) ∧
  compares (.vfcmpFle d a b) (.vfcmpFleS d a b) false (fun x y => num (decide (value (rd x) ≤ value (rd y))) x y) ∧
  compares (.vfcmpFun d a b) (.vfcmpFunS d a b) true (fun x y => nan x || nan y) ∧
  (s.passes (encode (.vfclass d a)) → exec (.vfclass d a) s = .next ((s.entered (encode (.vfclass d a))).vset d fun j =>
    let ex := (x j).toNat / 2 ^ 23 % 256
    let fr := (x j).toNat % 2 ^ 23
    (if (x j).msb then 0x100 else 0) ||| (if snan (x j) then 0x20 else if nan (x j) then 0x10 else if ex = 255 then 8
      else if ex ≠ 0 then 4 else if fr ≠ 0 then 2 else 1)).adv) ∧
  (∀ p ∈ [(Instr.vfcmpFeq d a b, Instr.vfcmpFeqS d a b, 0), (.vfcmpFlt d a b, .vfcmpFltS d a b, 1), (.vfcmpFle d a b, .vfcmpFleS d a b, 2),
    (.vfcmpFun d a b, .vfcmpFunS d a b, 3)], isRr p.1 0x4A p.2.2 d a b ∧ isRr p.2.1 0x4B p.2.2 d a b) ∧
  refusesWords (fun w => (wOp w = 0x4A ∨ wOp w = 0x4B) ∧ (4 ≤ wF w ∨ 125 < wordBits w 7 7))

/-- R209: the functions of one FP32 operand, with their special inputs. Of vexp2 and vlog2, exact results are told. -/
def Obligations.FloatFunctionResults : Prop := ∀ (d a : Reg) (s : State),
  let gives (i : Instr) (p : FpVal → Nat × Nat → Prop) : Prop := s.passes (encode i) →
    ∃ g : Nat → Nat × Nat,
      exec i s = .next (((s.entered (encode i)).vset d fun j => BitVec.ofNat 32 (g j).1).flag
        ((s.activeLanes.map fun j => (g j).2).foldl (· ||| ·) 0)).adv ∧
      ∀ j < 96, s.active j = true →
        match fp32.input s.ftz (s.elem a j).toNat with
        | .nan sg => g j = (0x7FC00000, if sg then 1 else 0)
        | v => p v (g j)
  let sgn (n : Bool) (x : Nat) : Nat := x + if n then 2 ^ 31 else 0
  let inf (n : Bool) : Nat := sgn n 0x7F800000
  let mag (m : Nat) (e : Int) : ℚ := m * (2 : ℚ) ^ e
  let rounded (n : Bool) (le : ℚ → Prop) (r : Nat × Nat) : Prop :=
    ∃ (m : Nat) (e : Int) (t : Bool), 1 ≤ m ∧ (t = true → 2 ^ 30 ≤ m) ∧ le (mag m e) ∧ ¬le (mag (m + 1) e) ∧
      (t = false ↔ ∀ q, mag m e < q → ¬le q) ∧ r = fp32.round s.rm s.ftz n m e t
  let toInt (q : ℚ) (n : Int) : Prop := match s.rm with
    | 0 => |q - n| ≤ 1 / 2 ∧ (|q - n| = 1 / 2 → n % 2 = 0)
    | 1 => n = if 0 ≤ q then ⌊q⌋ else ⌈q⌉
    | 2 => n = ⌈q⌉
    | _ => n = ⌊q⌋
  gives (.vfsqrt d a) (fun v r => match v with
    | .fin p m e => if m = 0 then r = (sgn p 0, 0) else if p then r = (0x7FC00000, 1)
      else rounded false (fun y => y * y ≤ mag m e) r
    | .inf p => r = if p then (0x7FC00000, 1) else (inf false, 0)
    | _ => True) ∧
  gives (.vrcp d a) (fun v r => match v with
    | .fin p m e => if m = 0 then r = (inf p, 2) else rounded p (fun y => y * mag m e ≤ 1) r
    | .inf p => r = (sgn p 0, 0)
    | _ => True) ∧
  gives (.vrsq d a) (fun v r => match v with
    | .fin p m e => if m = 0 then r = (inf p, 2) else if p then r = (0x7FC00000, 1)
      else rounded false (fun y => y * y * mag m e ≤ 1) r
    | .inf p => r = if p then (0x7FC00000, 1) else (0, 0)
    | _ => True) ∧
  gives (.vexp2 d a) (fun v r => match v with
    | .fin p m e => ∀ n : Int, |n| < 4000 → (if p then -1 else 1) * mag m e = n → r = fp32.round s.rm s.ftz false 1 n false
    | .inf p => r = if p then (0, 0) else (inf false, 0)
    | _ => True) ∧
  gives (.vlog2 d a) (fun v r => match v with
    | .fin p m e => if m = 0 then r = (inf true, 2) else if p then r = (0x7FC00000, 1)
      else ∀ n : Int, mag m e = (2 : ℚ) ^ n → if n = 0 then r = (0, 0) else r = fp32.round s.rm s.ftz (decide (n < 0)) n.natAbs 0 false
    | .inf p => r = if p then (0x7FC00000, 1) else (inf false, 0)
    | _ => True) ∧
  gives (.vfrint d a) (fun v r => match v with
    | .fin p m e => ∃ n : Int, toInt ((if p then -1 else 1) * mag m e) n ∧
      r.2 = (if (if p then -1 else 1) * mag m e = n then 0 else 16) ∧ r.1 / 2 ^ 31 = (if p then 1 else 0) ∧
      ∃ k g, fp32.val r.1 = .fin p k g ∧ mag k g = |(n : ℚ)|
    | .inf p => r = (inf p, 0)
    | _ => True)

/-- R136, R137, R138, R212, R213: conversions, on the bits of an element that they use. -/
def Obligations.ConversionResults : Prop := ∀ (d a : Reg) (s : State),
  let gives (i : Instr) (p : Nat → Nat × Nat → Prop) : Prop := s.passes (encode i) →
    ∃ g : Nat → Nat × Nat,
      exec i s = .next (((s.entered (encode i)).vset d fun j => BitVec.ofNat 32 (g j).1).flag
        ((s.activeLanes.map fun j => (g j).2).foldl (· ||| ·) 0)).adv ∧
      ∀ j < 96, s.active j = true → p j (g j)
  let rat (p : Bool) (m : Nat) (e : Int) : ℚ := (if p then -1 else 1) * m * (2 : ℚ) ^ e
  let conv (src dst : FpFmt) (x : W32) (r : Nat × Nat) : Prop :=
    match src.input s.ftz (x.toNat % 2 ^ (1 + src.eb + src.fb)) with
    | .nan sg => r = (dst.nan, if sg then 1 else 0)
    | .inf n => r = if dst.e4m3 then (0x7F, 1) else (dst.top + (if n then 2 ^ (dst.eb + dst.fb) else 0), 0)
    | .fin n m e => if m = 0 then r = (if n then 2 ^ (dst.eb + dst.fb) else 0, 0) else
      r = dst.round s.rm s.ftz n m e false
  let into (i : Instr) (src dst : FpFmt) : Prop := gives i (fun j => conv src dst (s.elem a j))
  let pair (i : Instr) (dst : FpFmt) : Prop := gives i (fun j r => if 48 ≤ j then r = (0, 0) else
    ∃ lo hi, conv fp32 dst (s.elem a (2 * j)) lo ∧ conv fp32 dst (s.elem a (2 * j + 1)) hi ∧
      r = (lo.1 + 2 ^ 16 * hi.1, lo.2 ||| hi.2))
  let toInt (q : ℚ) (n : Int) : Prop := match s.rm with
    | 0 => |q - n| ≤ 1 / 2 ∧ (|q - n| = 1 / 2 → n % 2 = 0)
    | 1 => n = if 0 ≤ q then ⌊q⌋ else ⌈q⌉
    | 2 => n = ⌈q⌉
    | _ => n = ⌊q⌋
  let int (lo hi : Int) (x : W32) (r : Nat × Nat) : Prop :=
    let is (n : Int) (fl : Nat) : Prop := r.1 = (BitVec.ofInt 32 n).toNat ∧ r.2 = fl
    match fp32.input s.ftz x.toNat with
    | .nan _ => is 0 1
    | .inf n => is (if n then lo else hi) 1
    | .fin p m e => ∃ n : Int, toInt (rat p m e) n ∧
      if n < lo then is lo 1 else if hi < n then is hi 1 else is n (if rat p m e = n then 0 else 16)
  let ofInt (x : Int) (r : Nat × Nat) : Prop :=
    if x = 0 then r = (0, 0) else r = fp32.round s.rm s.ftz (decide (x < 0)) x.natAbs 0 false
  gives (.vcvtI32F32 d a) (fun j => int (-2 ^ 31) (2 ^ 31 - 1) (s.elem a j)) ∧
  gives (.vcvtN32F32 d a) (fun j => int 0 (2 ^ 32 - 1) (s.elem a j)) ∧
  gives (.vcvtF32I32 d a) (fun j => ofInt (s.elem a j).toInt) ∧
  gives (.vcvtF32N32 d a) (fun j => ofInt (s.elem a j).toNat) ∧
  into (.vcvtBf16F32 d a) fp32 bf16 ∧ into (.vcvtF32Bf16 d a) bf16 fp32 ∧ into (.vcvtF16F32 d a) fp32 fp16 ∧
  into (.vcvtF32F16 d a) fp16 fp32 ∧ into (.vcvtE4m3F32 d a) fp32 e4m3 ∧ into (.vcvtF32E4m3 d a) e4m3 fp32 ∧
  into (.vcvtE5m2F32 d a) fp32 e5m2 ∧ into (.vcvtF32E5m2 d a) e5m2 fp32 ∧
  pair (.vcvtBf16x2F32 d a) bf16 ∧ pair (.vcvtF16x2F32 d a) fp16 ∧
  (s.passes (encode (.vcvtI8I32 d a)) → exec (.vcvtI8I32 d a) s = .next ((s.entered (encode (.vcvtI8I32 d a))).vset d fun j =>
    BitVec.ofInt 32 (max (-128) (min 127 (s.elem a j).toInt) % 256)).adv)

/-- R130, R150, R215: the FP32 reductions. vrfadd adds in the fixed tree, with the flags of its additions and NV for a signalling NaN;
vrfmin and vrfmax pick an element. -/
def Obligations.FloatReductionResults : Prop := ∀ (d a : Reg) (s : State),
  let gives (i : Instr) (p : Nat → Nat → Prop) : Prop := s.passes (encode i) →
    ∃ r fl : Nat, exec i s = .next (((s.entered (encode i)).sset d (BitVec.ofNat 64 r)).flag fl).adv ∧ r < 2 ^ 32 ∧ p r fl
  let nan (x : W32) : Bool := decide (0x7F800000 < x.toNat % 2 ^ 31)
  let snan (x : W32) : Bool := nan x && !x.getLsbD 22
  let rd (x : W32) : W32 := if nan x then 0x7FC00000 else if s.ftz && decide (x.toNat / 2 ^ 23 % 256 = 0) then x &&& 0x80000000 else x
  let order (x : W32) : Int := if x.msb then -((x.toNat % 2 ^ 31 : Nat) : Int) - 1 else x.toNat
  let xs : List W32 := s.activeLanes.map (s.elem a)
  let picks (least : Bool) (r fl : Nat) : Prop :=
    fl = (if xs.any snan then 1 else 0) ∧
    (xs = [] → r = if least then 0x7F800000 else 0xFF800000) ∧
    (xs ≠ [] → (∀ x ∈ xs, nan x = true) → r = 0x7FC00000) ∧
    ((∃ x ∈ xs, nan x = false) → (∃ x ∈ xs, nan x = false ∧ r = (rd x).toNat) ∧
      ∀ x ∈ xs, nan x = false → if least then order (BitVec.ofNat 32 r) ≤ order (rd x) else order (rd x) ≤ order (BitVec.ofNat 32 r))
  let plus (x y : Option (Nat × Nat)) : Option (Nat × Nat) := match x, y with
    | some x, some y =>
      let z := fp32.addV s.rm s.ftz (fp32.input s.ftz x.1) (fp32.input s.ftz y.1)
      some (z.1, z.2 ||| x.2 ||| y.2)
    | some x, none => some x
    | none, y => y
  gives (.vrfmin d a) (picks true) ∧ gives (.vrfmax d a) (picks false) ∧
  gives (.vrfadd d a) (fun r fl => ∃ L : Nat → Nat → Option (Nat × Nat),
    (∀ j, L 0 j = if decide (j < 96) && s.active j then some ((rd (s.elem a j)).toNat, if snan (s.elem a j) then 1 else 0) else none) ∧
    (∀ k i, L (k + 1) i = plus (L k (2 * i)) (L k (2 * i + 1))) ∧
    (r, fl) = (plus (plus (L 5 0) (L 5 1)) (L 5 2)).getD (0, 0))

/-! ### Memory accesses -/

/-- R65, R66, R68, R220: the checks of one generic pointer in their order, where it leads, and that checking changes nothing but
the translations the core and its die hold, the words a walk is noted to have read, and what asks another package for a table entry.
Where a private area lies, and that its accesses carry REGION 0, are the model's (log 10), and so is the place of code 17 in the order
(log 14). -/
def Obligations.PointerChecks : Prop := ∀ (s : State) (t : Thread) (k : AccessKind) (ln : Option Nat) (va n : Nat),
  let r := s.reach t k ln va n
  let ap := va / 2 ^ 60
  let off := va % 2 ^ 60
  let size := (s.ctx t.ctx).privBytes
  let area := match ln with
    | some j => j + 1
    | none => 0
  let stops (cause code : Nat) : Prop := r = (s, .error (.trap cause code))
  (4 ≤ ap → stops 5 14) ∧
  (ap = 0 → 2 ^ 56 ≤ off → stops 5 14) ∧ (ap = 1 → 2 ^ 20 ≤ off → stops 5 14) ∧ (ap = 2 → 2 ^ 28 ≤ off → stops 5 14) ∧
  ((ap = 1 ∧ off < 2 ^ 20) ∨ ap = 3 → t.frailor = true → stops 5 17) ∧
  ((ap = 0 ∧ off < 2 ^ 56) ∨ (ap = 1 ∧ off < 2 ^ 20 ∧ t.frailor = false) ∨ (ap = 2 ∧ off < 2 ^ 28) ∨ (ap = 3 ∧ t.frailor = false) →
    va % n ≠ 0 → stops 3 0) ∧
  (va % n = 0 →
    (ap = 0 → off < 2 ^ 56 → r.1 = (s.translate t.core t.ctx va k).1 ∧
      ((∀ f, (s.translate t.core t.ctx va k).2 = .error f → r.2 = .error f) ∧
       (∀ x, (s.translate t.core t.ctx va k).2 = .ok x → r.2 = .ok (placeOf (x.pa + va % 2 ^ x.bits) x.region)))) ∧
    (ap = 1 → off < 2 ^ 20 → t.frailor = false →
      if (s.block t.blk).usable < off + n then stops 0x0B 0 else r = (s, .ok (.loc off))) ∧
    (ap = 2 → off < 2 ^ 28 → if 2 ≤ s.dies.states.getD (off / 2 ^ 26) 0 then stops 5 16 else r = (s, .ok (.seed off))) ∧
    (ap = 3 → t.frailor = false → if size < off + n then stops 5 15 else r = (s, .ok (.mem (t.priv + area * size + off) 0)))) ∧
  r.1 = { s with cores := r.1.cores, dieTlb := r.1.dieTlb, free := r.1.free, flows := r.1.flows, asks := r.1.asks, walked := r.1.walked } ∧ (∀ c, r.1.core c = { s.core c with tlb := (r.1.core c).tlb }) ∧
  (∀ c, c ≠ t.core → r.1.core c = s.core c)

/-- R173, R189, R219, R220, R223, R224, R230, R231: a scalar load, store or atomic whose address passes the checks issues: it enters the
outstanding accesses with its parts, raises its counter, and the thread goes on; nothing else changes, and no byte is moved
yet. Where the counter is at its limit, or the package it leads to can take no packet (R342), it waits and does not issue; where a check
fails its trap is taken, and where the page tables cannot be read yet it waits (R371). A TRAPINFO of 0 where the manual lists none, and
the whole pointer as TRAPADDR of LOCAL_BOUNDS, are the model's (log 15). -/
def Obligations.ScalarAccessesIssue : Prop := ∀ (d a b : Reg) (i : BitVec 11) (z : Size4) (p : Policy) (s : State),
  let issues (ins : Instr) (k : AccessKind) (c : Ctr) (kind : AccKind) (va : Word) (n x y : Nat) (pol : Policy) (dest : Option Reg) : Prop :=
    let e := s.entered (encode ins)
    let r := e.reach s.th k none va.toNat n
    let drop : Access → Access := match dest with
      | some r => dropScalar r s.th.trapMode
      | none => id
    let extra (pl : Place) : Option (Nat × Nat) := match kind, pl with
      | .atomS _ .fadd 8, .seed _ => some (5, 1)
      | .atomS (some _) _ _, .mem .. => if (s.windowOf s.th.ctx va.toNat).isSome then some (0x16, 0) else none
      | .atomS (some _) _ _, .remote .. => if (s.windowOf s.th.ctx va.toNat).isSome then some (0x16, 0) else none
      | .atomS (some _) _ _, .host .. => if (s.windowOf s.th.ctx va.toNat).isSome then some (0x16, 0) else none
      | _, _ => none
    let room (u : State) (pl : Place) : Prop := ∀ g o r, pl = .remote g o r → u.canSend g (u.toSend g + 1) = true
    s.passes (encode ins) → s.emulates 127 = false →
      (∀ pl cause code, r.2 = .ok pl → extra pl = some (cause, code) → exec ins s =
        .next (r.1.takePrecise ⟨cause, false, s.th.pc, va, if cause = 5 then faultInfo k 127 code else 0, none⟩)) ∧
      (∀ pl, r.2 = .ok pl → extra pl = none →
        let u := r.1
        let ps := mkParts 127 va.toNat pl n x y (k ≠ .atomic)
        (s.th.count c < 63 → room u pl →
          let w : Access := ⟨u.th.seq, c, u.th.issued c, u.th.pc, kind, pol, ps,
            (match dest with
              | some 0 => []
              | some r => [r.toNat]
              | none => []), false, u.th.trapMode, (u.ctx u.th.ctx).phase, u.countAt u.th.core⟩
          exec ins s = .next { u with th := { u.th.bump c with out := u.th.out.map drop ++ [w], emulated := none } }.adv) ∧
        (63 ≤ s.th.count c ∨ ¬room u pl → exec ins s = .next (u.waitAt .counter))) ∧
      (∀ cause code, r.2 = .error (.trap cause code) → isTranslation cause (faultInfo k 127 code) = false →
        exec ins s = .next (r.1.takePrecise ⟨cause, false, s.th.pc, va, if cause = 5 then faultInfo k 127 code else 0, none⟩)) ∧
      (r.2 = .error .stall → exec ins s = .next (r.1.waitAt .memory))
  let loads (ins : Instr) (va : Word) (n : Nat) (sx : Bool) (pol : Policy) : Prop :=
    issues ins .load .ld (.loadS d n sx) va n 0 0 pol (some d)
  let stores (ins : Instr) (va : Word) (n : Nat) (pol : Policy) : Prop :=
    issues ins .store .st (.store n) va n ((s.sget d).toNat % 2 ^ (8 * n)) 0 pol none
  let atom (ins : Instr) (op : AtomOp) (n : Nat) : Prop :=
    let x := (s.sget b).toNat % 2 ^ (8 * n)
    let y := if op = .cas then (s.sget (b + 1)).toNat % 2 ^ (8 * n) else 0
    (d = 0 → issues ins .atomic .st (.atomS none op n) (s.sget a) n x y .llc none) ∧
    (d ≠ 0 → issues ins .atomic .ld (.atomS (some d) op n) (s.sget a) n x y .llc (some d))
  let va := s.sget a + i.signExtend 64
  let vx := s.sget a + s.sget b <<< z.code
  loads (.lb d a i) va 1 true .l1 ∧ loads (.lbu d a i) va 1 false .l1 ∧ loads (.lh d a i) va 2 true .l1 ∧
  loads (.lhu d a i) va 2 false .l1 ∧ loads (.lw d a i) va 4 true .l1 ∧ loads (.lwu d a i) va 4 false .l1 ∧
  loads (.ld d a i) va 8 false .l1 ∧ loads (.lp d a b z p) vx (2 ^ z.code) false p ∧
  stores (.sb d a i) va 1 .l1 ∧ stores (.sh d a i) va 2 .l1 ∧ stores (.sw d a i) va 4 .l1 ∧ stores (.sd d a i) va 8 .l1 ∧
  stores (.sp d a b z p) vx (2 ^ z.code) p ∧
  atom (.amoAdd d a b) .add 4 ∧ atom (.amoAnd d a b) .and 4 ∧ atom (.amoOr d a b) .or 4 ∧ atom (.amoXor d a b) .xor 4 ∧
  atom (.amoMin d a b) .min 4 ∧ atom (.amoMax d a b) .max 4 ∧ atom (.amoMinu d a b) .minu 4 ∧ atom (.amoMaxu d a b) .maxu 4 ∧
  atom (.amoXchg d a b) .xchg 4 ∧ atom (.amoFadd d a b) .fadd 4 ∧ atom (.amoCas d a b) .cas 4 ∧
  atom (.amoDAdd d a b) .add 8 ∧ atom (.amoDAnd d a b) .and 8 ∧ atom (.amoDOr d a b) .or 8 ∧ atom (.amoDXor d a b) .xor 8 ∧
  atom (.amoDMin d a b) .min 8 ∧ atom (.amoDMax d a b) .max 8 ∧ atom (.amoDMinu d a b) .minu 8 ∧ atom (.amoDMaxu d a b) .maxu 8 ∧
  atom (.amoDXchg d a b) .xchg 8 ∧ atom (.amoDFadd d a b) .fadd 8 ∧ atom (.amoDCas d a b) .cas 8

/-- R199, R219, R220, R226, R227, R229, R232: the vector accesses. Each active lane's address is checked before any is
performed; then one access with a part per active lane enters the outstanding accesses, and a destination is live at issue.
Of the local-store forms the checks are their own; the lowest failing lane's trap is taken, with TRAPINFO 0 and TRAPADDR as log 15
has them. -/
def Obligations.VectorAccessesIssue : Prop := ∀ (d a b : Reg) (z : Size3) (p : Policy) (s : State),
  let n : Nat := 2 ^ z.code
  let issues (e : State) (ins : Instr) (c : Ctr) (kind : AccKind) (pol : Policy) (ps : List Part) (dest : Bool) (tx : Bool) : Prop :=
    let v := e.varch d
    (s.th.count c < 63 → e.sendRoom ps = true → exec ins s = .next { e with th :=
      { ((if dest then e.th.live v else e.th).bump c) with
        out := (if dest then e.th.out.map (dropVector v) else e.th.out) ++
          [(⟨e.th.seq, c, e.th.issued c, e.th.pc, kind, pol, ps, if dest then [v] else [], tx, e.th.trapMode, (e.ctx e.th.ctx).phase, e.countAt e.th.core⟩ : Access)]
        emulated := none } }.adv) ∧
    (63 ≤ s.th.count c ∨ e.sendRoom ps = false → exec ins s = .next (e.waitAt .counter))
  let generic (ins : Instr) (k : AccessKind) (c : Ctr) (kind : AccKind) (pol : Policy) (n : Nat) (va : Nat → Word) (x y : Nat → Nat)
      (dest : Bool) : Prop :=
    let e := s.entered (encode ins)
    let extra : Extra := if k = .atomic then e.atomExtra true false else Extra.none
    let r := e.reachAll [] e.th k extra n (s.activeLanes.map fun j => (j, (va j).toNat))
    s.passes (encode ins) → s.th.emulated = none →
      (∀ ps, r.2 = .ok ps → ps.map (fun q => (q.1, q.2.1)) = s.activeLanes.map (fun j => (j, (va j).toNat)) ∧
        issues r.1 ins c kind pol (ps.map fun q => (⟨q.1, q.2.1, q.2.2, n, 0, x q.1, y q.1, .idle⟩ : Part)) dest (k ≠ .atomic && s.th.tx.isOpen)) ∧
      (∀ f, r.2 = .error f → ∀ cause code, f.flaw = .trap cause code → isTranslation cause (faultInfo k f.lane code) = false →
        exec ins s = .next (r.1.takePrecise
          ⟨cause, false, s.th.pc, BitVec.ofNat 64 f.va, if cause = 5 then faultInfo k f.lane code else 0, none⟩)) ∧
      (∀ f, r.2 = .error f → f.flaw = .stall → exec ins s = .next (r.1.waitAt .memory))
  let locals (ins : Instr) (c : Ctr) (kind : AccKind) (va : Nat → Word) (x : Nat → Nat) (dest : Bool) : Prop :=
    let bad (o : Nat) : Prop := o % n ≠ 0 ∨ s.blk.usable < o + n
    s.passes (encode ins) →
      ((∀ j ∈ s.activeLanes, ¬bad (va j).toNat) →
        issues (s.entered (encode ins)) ins c kind .l1 (s.activeLanes.map fun j => (⟨j, (va j).toNat, .loc (va j).toNat, n, 0, x j, 0, .idle⟩ : Part)) dest false) ∧
      (∀ j ∈ s.activeLanes, bad (va j).toNat → (∀ i ∈ s.activeLanes, i < j → ¬bad (va i).toNat) →
        exec ins s = .next ((s.entered (encode ins)).takePrecise
          ⟨if (va j).toNat % n ≠ 0 then 3 else 0x0B, false, s.th.pc, va j, 0, none⟩))
  let v := s.varch d
  let strided (j : Nat) : Word := s.sget a + BitVec.ofNat 64 j * (if b = 0 then BitVec.ofNat 64 n else s.sget b)
  let offset (j : Nat) : Word := s.sget b + (s.elem a j).signExtend 64
  let listed (j : Nat) : Word := (s.elem a j).setWidth 64
  let data (j : Nat) : Nat := (s.elem d j).toNat % 2 ^ (8 * n)
  let zero (_ : Nat) : Nat := 0
  let atom (ins : Instr) (op : AtomOp) : Prop := generic ins .atomic .ld (.atomV v op) .llc 4 offset (fun j => (s.elem d j).toNat)
    (fun j => if op = .cas then (s.elem (d + 1) j).toNat else 0) true
  generic (.vld d a b z p) .load .ld (.loadV v n) p n strided zero zero true ∧
  generic (.vst d a b z p) .store .st (.store n) p n strided data zero false ∧
  generic (.vgth d a b z p) .load .ld (.loadV v n) p n offset zero zero true ∧
  generic (.vsct d a b z p) .store .st (.store n) p n offset data zero false ∧
  locals (.vll d a b z) .ld (.loadV v n) strided zero true ∧ locals (.vsl d a b z) .st (.store n) strided data false ∧
  locals (.vllg d a z) .ld (.loadV v n) listed zero true ∧ locals (.vslg d a z) .st (.store n) listed data false ∧
  atom (.vamoAdd d a b) .add ∧ atom (.vamoAnd d a b) .and ∧ atom (.vamoOr d a b) .or ∧ atom (.vamoXor d a b) .xor ∧
  atom (.vamoMin d a b) .min ∧ atom (.vamoMax d a b) .max ∧ atom (.vamoMinu d a b) .minu ∧ atom (.vamoMaxu d a b) .maxu ∧
  atom (.vamoXchg d a b) .xchg ∧ atom (.vamoFadd d a b) .fadd ∧ atom (.vamoCas d a b) .cas

/-- R225, R374: a prefetch completes at issue and changes no register, no local store, no Seedbank word and no host byte. Where its
address leads to memory of the package on a page that is not NS, or in the private area, and no error lies in what is read, its LLC line
is held afterwards, and with level 0 the L1 holds those words of the 64-byte line that it held before, and as Valid copies those that no
agent has registered, that no commit holds and that are not poisoned. Anywhere else, and where the translation finds a fault, it has no
effect (log 78). -/
def Obligations.PrefetchResults : Prop := ∀ (l : PfLevel) (a : Reg) (i : BitVec 11) (s : State), s.passes (encode (.pf l a i)) →
  let va := (s.sget a + i.signExtend 64).toNat
  let e := s.entered (encode (.pf l a i))
  let r := e.translate s.th.core s.th.ctx va .load
  let q := e.reach s.th .load none va 1
  let leads (pa g : Nat) : Prop := (va < 2 ^ 56 ∧ ∃ x, r.2 = .ok x ∧ x.ns = false ∧ placeOf (x.addr va) x.region = .mem pa g) ∨
    (va / 2 ^ 60 = 3 ∧ q.2 = .ok (.mem pa g))
  let answers (pa : Nat) : Prop := s.dies.states.getD (homeDie pa) 0 < 3
  let sound : Prop := s.unitsOk ∧ s.err.plant = none ∧ s.err.rows = [] ∧ s.err.found = [] ∧ ∀ x ∈ s.lines, x.2.ue = none
  let kept (t : State) : Prop := { t.th with score := 0 } = { e.adv.th with score := 0 } ∧
    (∀ u, u ≠ s.th.uid → { t.thread u with score := 0 } = { s.thread u with score := 0 }) ∧
    t.blocks = s.blocks ∧ t.seed = s.seed ∧ t.host.mem = s.host.mem
  (encode (.pf l a i)).toNat = 0x3D + 2 ^ 7 * l.code + 2 ^ 14 * a.toNat + 2 ^ 21 * i.toNat ∧
  (∃ t, exec (.pf l a i) s = .next t ∧
    ((∀ pa g, leads pa g → ¬answers pa) → t.th = e.adv.th ∧ t.threads = s.threads ∧ kept t ∧
      t.lines = s.lines ∧ t.home = s.home ∧ t.tier = s.tier ∧ ∀ c w, t.l1 c w = s.l1 c w) ∧
    (∀ pa g, leads pa g → answers pa → sound → kept t ∧
      ((∃ k < 16, wayCode (lineOf (pa / 4)) k ∉ s.quarantined) → t.lines.has (lineOf (pa / 4)) = true ∨ l = .toL1) ∧
      (l = .toLlc → ∀ w, t.l1 s.th.core w = s.l1 s.th.core w ∨ lineOf w ≠ lineOf (pa / 4)) ∧
      (l = .toL1 → ∀ k < 16, let w := pa / 64 * 16 + k
        t.l1 s.th.core w = (s.l1 s.th.core w).orElse fun _ => match s.home.get? w with
          | some (.registered _) => none
          | _ => if s.memPoison.has w || !s.unlocked s.pkg runtime (4 * w) 4 then none else some ⟨false, s.homeVal w, 0, 0, g, false⟩))) ∧
  (va / 2 ^ 60 ∉ [0, 3] ∨ (va / 2 ^ 60 = 0 ∧ 2 ^ 56 ≤ va) → exec (.pf l a i) s = .next e.adv)

/-- R371, R375, R379, R380: a load, store or atomic of which an address does not translate. In a context that does not handle its own
faults the wave stays at its instruction, and the 64-byte record joins the records that the runtime writes to the context's fault ring
and launches its handler for; in trap mode, on a Frailor core or in a self-handling context the trap is taken. A prefetch has no fault
(R225), and the local-store forms translate nothing. -/
def Obligations.TranslationFaults : Prop := ∀ (d a b : Reg) (i : BitVec 11) (z4 : Size4) (z : Size3) (p : Policy) (s : State),
  let selfHandling := s.th.frailor || s.th.trapMode || s.selfHandling s.th
  let translation (cause code : Nat) : Prop := cause = 4 ∨ (cause = 5 ∧ code = 13)
  let faults (ins : Instr) (k : AccessKind) (vec : Bool) (u : State) (va cause code lane : Nat) (lns : List Nat) : Prop :=
    let c := s.ctx s.th.ctx
    let slot := c.faultRing + 64 * (c.faultNext % max c.faultSlots 1)
    let record := leBytes 1 cause ++ leBytes 1 k.code ++ leBytes 2 (if vec then 2 else 0) ++ leBytes 2 s.th.ctx ++
      leBytes 2 (dieOf s.th.core * 2 ^ 12 + s.th.core % 128 * 2 ^ 5 + s.th.wslot % 32) ++ leBytes 8 (va % 2 ^ 64) ++
      leBytes 4 (tripleWord 0 lns.contains).toNat ++ leBytes 4 (tripleWord 1 lns.contains).toNat ++ leBytes 4 (tripleWord 2 lns.contains).toNat ++
      leBytes 4 0 ++ leBytes 8 s.th.pc.toNat ++ leBytes 4 0 ++ leBytes 4 0 ++ leBytes 8 0 ++ leBytes 8 0
    (selfHandling = true →
      exec ins s = .next (u.takePrecise ⟨cause, false, s.th.pc, BitVec.ofNat 64 va, faultInfo k lane code, none⟩)) ∧
    (selfHandling = false → record.length = 64 ∧ ∃ t, exec ins s = .next t ∧ t.runs = false ∧
      t.th.wait.any (fun w => w.kind = .fault) = true ∧ t.th = { u.th with wait := t.th.wait, faultRec := some slot } ∧
      t = { u with th := t.th, ctxs := t.ctxs } ∧ (∀ c, c ≠ s.th.ctx → t.ctx c = s.ctx c) ∧
      t.ctx s.th.ctx = { c with
        faults := c.faults ++ [⟨record, slot, s.now, s.th.uid, none, record, [], [], false⟩], faultNext := c.faultNext + 1 })
  let scalar (ins : Instr) (k : AccessKind) (va : Word) (n : Nat) : Prop :=
    let e := s.entered (encode ins)
    let r := e.reach e.th k none va.toNat n
    s.passes (encode ins) → s.emulates 127 = false → ∀ cause code, r.2 = .error (.trap cause code) → translation cause code →
      faults ins k false r.1 va.toNat cause code 127 []
  let vector (ins : Instr) (k : AccessKind) (n : Nat) (va : Nat → Word) : Prop :=
    let e := s.entered (encode ins)
    let extra : Extra := if k = .atomic then e.atomExtra true false else Extra.none
    let r := e.reachAll [] e.th k extra n (s.activeLanes.map fun j => (j, (va j).toNat))
    let failing := s.activeLanes.filter fun j => match (e.reach e.th k (some j) (va j).toNat n).2 with
      | .error (.trap cause code) => decide (cause = 4 ∨ (cause = 5 ∧ code = 13))
      | _ => false
    s.passes (encode ins) → s.th.emulated = none → ∀ f cause code, r.2 = .error f → f.flaw = .trap cause code → translation cause code →
      faults ins k true r.1 f.va cause code f.lane failing
  let strided (j : Nat) : Word := s.sget a + BitVec.ofNat 64 j * (if b = 0 then BitVec.ofNat 64 (2 ^ z.code) else s.sget b)
  let offset (j : Nat) : Word := s.sget b + (s.elem a j).signExtend 64
  let va := s.sget a + i.signExtend 64
  let vx := s.sget a + s.sget b <<< z4.code
  (∀ q ∈ [(Instr.lb d a i, 1), (.lbu d a i, 1), (.lh d a i, 2), (.lhu d a i, 2), (.lw d a i, 4), (.lwu d a i, 4), (.ld d a i, 8)],
    scalar q.1 .load va q.2) ∧
  (∀ q ∈ [(Instr.sb d a i, 1), (.sh d a i, 2), (.sw d a i, 4), (.sd d a i, 8)], scalar q.1 .store va q.2) ∧
  scalar (.lp d a b z4 p) .load vx (2 ^ z4.code) ∧ scalar (.sp d a b z4 p) .store vx (2 ^ z4.code) ∧
  (∀ ins ∈ [Instr.amoAdd d a b, .amoAnd d a b, .amoOr d a b, .amoXor d a b, .amoMin d a b, .amoMax d a b, .amoMinu d a b, .amoMaxu d a b,
    .amoXchg d a b, .amoFadd d a b, .amoCas d a b], scalar ins .atomic (s.sget a) 4) ∧
  (∀ ins ∈ [Instr.amoDAdd d a b, .amoDAnd d a b, .amoDOr d a b, .amoDXor d a b, .amoDMin d a b, .amoDMax d a b, .amoDMinu d a b,
    .amoDMaxu d a b, .amoDXchg d a b, .amoDFadd d a b, .amoDCas d a b], scalar ins .atomic (s.sget a) 8) ∧
  vector (.vld d a b z p) .load (2 ^ z.code) strided ∧ vector (.vst d a b z p) .store (2 ^ z.code) strided ∧
  vector (.vgth d a b z p) .load (2 ^ z.code) offset ∧ vector (.vsct d a b z p) .store (2 ^ z.code) offset ∧
  (∀ ins ∈ [Instr.vamoAdd d a b, .vamoAnd d a b, .vamoOr d a b, .vamoXor d a b, .vamoMin d a b, .vamoMax d a b, .vamoMinu d a b,
    .vamoMaxu d a b, .vamoXchg d a b, .vamoFadd d a b, .vamoCas d a b], vector ins .atomic 4 offset)
/-- R71, R84, R90, R100, R189, R198, R223, R229, R368, R392: LOAD_COMPLETION delivers the value its place holds, extended, to the
destination, and to nothing else; no byte of memory changes. Of memory of the package each word comes from the L1, where the policy reads
it and it holds the word, and otherwise from the home; only `l1` then leaves it in the L1. A word of another package is asked for by a
packet, and its reply is delivered. A word under an error is not delivered, and leaves UE_CONSUMED pending. A vector load delivers to
the lanes it was issued for. -/
def Obligations.LoadsDeliver : Prop := ∀ (s : State) (seq k sn : Nat) (pc : Word) (pol : Policy) (ph : Bool),
  s.unitsOk → s.th.partner = none → s.th.life ≠ .stopped → s.err.plant = none →
  let core := s.th.core
  let kept (t : State) : Prop := t.th.pc = s.th.pc ∧ t.blocks = s.blocks ∧ t.seed = s.seed ∧ t.tier = s.tier ∧
    t.home = s.home ∧ t.host.mem = s.host.mem ∧ ∀ u, u ≠ s.th.uid → { t.thread u with score := 0 } = { s.thread u with score := 0 }
  let regs (t : State) : Prop := (∀ r, t.sget r = s.sget r) ∧ t.th.vreg = s.th.vreg
  let access (d : Reg) (n : Nat) (sx : Bool) (ps : List Part) : Access := ⟨seq, .ld, k, pc, .loadS d n sx, pol, ps, [d.toNat], false, s.th.trapMode, ph, sn⟩
  let delivers (d : Reg) (n v : Nat) (sx : Bool) (t : State) : Prop := t.th.out = [] ∧
    t.sget d = (if sx then (BitVec.ofNat (8 * n) v).signExtend 64 else BitVec.ofNat 64 v) ∧
    (∀ r, r ≠ d → t.sget r = s.sget r) ∧ t.th.vreg = s.th.vreg ∧ t.th.pc = s.th.pc
  let copy (w : Nat) : Option L1Word := if pol = .llc then none else s.l1 core w
  let reaches (pa n : Nat) : Prop := pa % n = 0 ∧ s.dies.states.getD (homeDie pa) 0 < 3 ∧ s.unlocked s.pkg s.th.uid pa n = true
  let atHome (w : Nat) : Prop := (s.lines.get? (lineOf w)).any (fun l => l.ue = none) = true ∧ s.raceCheck (s.ownerOf s.th) w = none ∧
    (pol = .l1 → (l1SetLines (s.core core).l1 (l1Sets core) (w / 16)).length < 8)
  let word (w : Nat) (x : W32) : Prop := match copy w with
    | some e => e.bad = false ∧ (e.registered = true → s.home.get? w = some (.registered (s.ownerOf s.th))) ∧ x = e.data
    | none => atHome w ∧ s.wordBad w = false ∧ x = s.homeVal w
  (∀ (d : Reg) (n v va : Nat) (sx : Bool) (pl : Place), d ≠ 0 → n ∈ [1, 2, 4, 8] →
    s.th.out = [access d n sx (mkParts 127 va pl n 0 0 true)] →
    (match pl with
      | .loc o => s.blk.lsBad o n = false ∧ v = s.blk.ls.readN o n
      | .seed o => s.seedBad o = false ∧ v = s.seed.readN o n
      | .host i h => s.hostUp i = true ∧ v = s.host.mem.readN (hostAddr i h) n
      | .mem pa _ => reaches pa n ∧ ∃ x, word (pa / 4) x ∧
        if n = 8 then ∃ y, word (pa / 4 + 1) y ∧ v = x.toNat + 2 ^ 32 * y.toNat else v = x.toNat / 2 ^ (8 * (pa % 4)) % 2 ^ (8 * n)
      | .remote g o r => n ≤ 4 ∧ s.canSend g 1 = true ∧ (copy ((Place.remote g o r).pa / 4)).any (fun e =>
          !e.bad && decide (v = e.data.toNat / 2 ^ (8 * (o % 4)) % 2 ^ (8 * n))) = true) →
    ∃ t, exec (.loadCompletion s.th.uid seq []) s = .next t ∧ kept t ∧ delivers d n v sx t ∧
      ∀ w, t.l1 core w = s.l1 core w ∨ (s.l1 core w = none ∧ pol = .l1 ∧ ∃ g, t.l1 core w = some ⟨false, s.homeVal w, 0, 0, g, false⟩)) ∧
  (∀ (d : Reg) (n va g o r : Nat) (sx : Bool), n ∈ [1, 2, 4] → s.canSend g 1 = true → copy ((Place.remote g o r).pa / 4) = none →
    let f := s.flows.getD g Flow.reset
    let part (p : Phase) : Part := ⟨127, va, .remote g o r, n, 0, 0, 0, p⟩
    s.th.out = [access d n sx [part .idle]] → ∃ t, exec (.loadCompletion s.th.uid seq []) s = .next t ∧ kept t ∧ regs t ∧
      t.th.out = [access d n sx [part (.sent g f.next)]] ∧ (t.flows.getD g Flow.reset).unacked = f.unacked ++
        [(⟨s.pkg, g, f.next, s.th.ctx, s.ownerOf s.th, if pol = .llc then o else o / 4 * 4, .load (if pol = .llc then n else 4), none, ph, false,
          f.resync, [], pc⟩, s.now)]) ∧
  (∀ (d : Reg) (n v va g o r q : Nat) (sx : Bool), d ≠ 0 → n ∈ [1, 2, 4] → v < 2 ^ 32 → (pol = .llc → v < 2 ^ (8 * n)) →
    s.th.out = [access d n sx [⟨127, va, .remote g o r, n, 0, 0, 0, .sent g q⟩]] →
    delivers d n (if pol = .llc then v else v / 2 ^ (8 * (o % 4)) % 2 ^ (8 * n)) sx (s.replyTo g q (.value v))) ∧
  (∀ (d : Reg) (n va : Nat) (sx : Bool) (pl : Place), n ∈ [1, 2, 4] →
    s.th.out = [access d n sx [⟨127, va, pl, n, 0, 0, 0, .idle⟩]] →
    (match pl with
      | .loc o => s.blk.lsBad o n = true
      | .seed o => s.seedBad o = true
      | .mem pa _ => reaches pa n ∧ copy (pa / 4) = none ∧ atHome (pa / 4) ∧ s.wordBad (pa / 4) = true
      | _ => False) →
    ∃ t, exec (.loadCompletion s.th.uid seq []) s = .next t ∧ kept t ∧ regs t ∧ t.th.out = [] ∧
      t.th.pending = s.th.pending ++ [⟨seq, .ld, k, 0x11, pc, BitVec.ofNat 64 va, 0, none, false, s.th.trapMode⟩]) ∧
  (∀ (v n : Nat) (ls : List (Nat × Nat)), (ls.map (·.1)).Nodup → (∀ p ∈ ls, p.1 < 96 ∧ s.blk.lsBad p.2 n = false) →
    s.th.out = [⟨seq, .ld, k, pc, .loadV v n, pol, ls.map (fun p => (⟨p.1, p.2, .loc p.2, n, 0, 0, 0, .idle⟩ : Part)), [v], false, s.th.trapMode, ph, sn⟩] →
    ∃ t, exec (.loadCompletion s.th.uid seq []) s = .next t ∧ kept t ∧ t.th.out = [] ∧ (∀ r, t.sget r = s.sget r) ∧
      (∀ p ∈ ls, lane (t.th.vreadA v) p.1 = BitVec.ofNat 32 (s.blk.ls.readN p.2 n)) ∧
      (∀ j, j ∉ ls.map (·.1) → j < 96 → lane (t.th.vreadA v) j = lane (s.th.vreadA v) j) ∧
      (∀ u, u ≠ v → t.th.vreadA u = s.th.vreadA u))

/-- R71, R74, R78, R84, R90, R189, R223, R368, R392: STORE_COMPLETION writes the stored bytes where the access leads, and every other
byte of every memory reads as before. A store of policy llc, and of st that misses the L1, leaves its words Valid at their home; one of
l1, and of st to a word the block holds, leaves them registered to the block, with RSCOPE 0 and the data in its L1. A word of another
package is written by a packet (log 76). A store to a part of a word under an error changes nothing, and leaves UE_CONSUMED pending. -/
def Obligations.StoresArePerformed : Prop := ∀ (s : State) (seq k va n x sn : Nat) (pc : Word) (pol : Policy) (pl : Place) (ph : Bool),
  s.unitsOk → s.th.partner = none → s.th.life ≠ .stopped → s.err.plant = none → n ∈ [1, 2, 4, 8] → x < 2 ^ (8 * n) →
  let access (ps : List Part) : Access := ⟨seq, .st, k, pc, .store n, pol, ps, [], false, s.th.trapMode, ph, sn⟩
  s.th.out = [access (mkParts 127 va pl n x 0 true)] →
  let core := s.th.core
  let o := s.ownerOf s.th
  let stored (m m' : Memory) (o : Nat) : Prop :=
    ∀ p, m'.read p = if o ≤ p ∧ p < o + n then BitVec.ofNat 8 (x / 2 ^ (8 * (p - o))) else m.read p
  let goes (p : State → Prop) : Prop := ∃ t, exec (.storeCompletion s.th.uid seq []) s = .next t ∧ t.th.pc = s.th.pc ∧
    (∀ r, t.sget r = s.sget r) ∧ t.th.vreg = s.th.vreg ∧ (∀ u, u ≠ s.th.uid → (t.thread u).out = (s.thread u).out ∨ pl.pkg.isSome = true) ∧ p t
  let done (p : State → Prop) : Prop := goes fun t => t.th.out = [] ∧ t.th.pending = s.th.pending ∧ p t
  let bad (p : State → Prop) : Prop := goes fun t => t.th.out = [] ∧ p t ∧
    t.th.pending = s.th.pending ++ [⟨seq, .st, k, 0x11, pc, BitVec.ofNat 64 va, 0, none, false, s.th.trapMode⟩]
  let byteAt (s : State) (p : Nat) : Nat := (s.homeVal (p / 4)).toNat / 2 ^ (8 * (p % 4)) % 256
  match pl with
  | .loc o => (4 ≤ n ∨ s.blk.lsBad o n = false → done fun t => stored s.blk.ls t.blk.ls o ∧
      (∀ b, b ≠ s.th.blk → t.block b = s.block b) ∧ t.tier = s.tier ∧ t.home = s.home ∧ t.seed = s.seed ∧ t.host.mem = s.host.mem) ∧
    (n < 4 → s.blk.lsBad o n = true → bad fun t => t.blocks = s.blocks)
  | .seed o => (n = 8 ∨ s.seedBad o = false → done fun t => stored s.seed t.seed o ∧
      t.blocks = s.blocks ∧ t.tier = s.tier ∧ t.home = s.home ∧ t.host.mem = s.host.mem) ∧
    (n < 8 → s.seedBad o = true → bad fun t => t.seed = s.seed)
  | .host i h => s.hostUp i = true → done fun t => stored s.host.mem t.host.mem (hostAddr i h) ∧
      t.blocks = s.blocks ∧ t.tier = s.tier ∧ t.home = s.home ∧ t.seed = s.seed
  | .mem pa g =>
    let ws := if n = 8 then [pa / 4, pa / 4 + 1] else [pa / 4]
    let registers (w : Nat) : Prop := pol = .l1 ∨ (pol = .st ∧ s.holdsReg (s.who s.th) w = true)
    pa % n = 0 → pa < 2 ^ 53 → s.dies.states.getD (homeDie pa) 0 < 3 → s.unlocked s.pkg s.th.uid pa n = true →
    (s.lines.get? (lineOf (pa / 4))).any (fun l => l.ue = none) = true → (pol ≠ .llc → oCore o = core) →
    (∀ w ∈ ws, s.raceCheck o w = none ∧ (pol = .llc ∨ s.l1 core w = none ∨ s.holdsReg (s.who s.th) w = true)) →
    (pol = .l1 → (l1SetLines (s.core core).l1 (l1Sets core) (pa / 64)).length < 8) →
    ((n < 4 → s.wordBad (pa / 4) = false) → done fun t =>
      (∀ p < 2 ^ 53, byteAt t p = if pa ≤ p ∧ p < pa + n then x / 2 ^ (8 * (p - pa)) % 256 else byteAt s p) ∧
      (∀ w ∈ ws, registers w → t.home.get? w = some (.registered o) ∧ ∃ e, t.l1 core w = some e ∧ e.registered = true ∧
        e.data = t.homeVal w ∧ e.rscope = 0 ∧ e.bad = false) ∧
      (∀ w ∈ ws, ¬registers w → t.home.get? w = some (.valid (t.homeVal w))) ∧
      t.blocks = s.blocks ∧ t.tier = s.tier ∧ t.seed = s.seed ∧ t.host.mem = s.host.mem) ∧
    (n < 4 → s.wordBad (pa / 4) = true → bad fun t => ∀ p < 2 ^ 53, byteAt t p = byteAt s p)
  | .remote g off r =>
    let f := s.flows.getD g Flow.reset
    s.canSend g 1 = true → goes fun t => t.th.out = [access [⟨127, va, pl, n, 0, x, 0, .sent g f.next⟩]] ∧ t.l1 core (pl.pa / 4) = none ∧
      (t.flows.getD g Flow.reset).unacked = f.unacked ++
        [(⟨s.pkg, g, f.next, s.th.ctx, o, off, .store (leBytes n x), none, ph, false, f.resync, [], pc⟩, s.now)] ∧
      t.blocks = s.blocks ∧ t.tier = s.tier ∧ t.home = s.home ∧ t.seed = s.seed ∧ t.host.mem = s.host.mem

/-- R91, R230, R231, R339, R340, R368: the operations of the atomics, and a scalar atomic of 4 or 8 bytes performed at the local store, at a
home, in the Seedbank or in host memory: with a destination it returns the old value, without one it returns nothing; it writes the new
value, leaves no registration of its words, and changes nothing else. To a word of another package it goes as a packet. -/
def Obligations.AtomicResults : Prop := ∀ (s : State) (op : AtomOp) (seq k va n x y sn : Nat) (pc : Word) (dst : Option Reg) (pl : Place) (ph : Bool),
  n = 4 ∨ n = 8 → x < 2 ^ (8 * n) → y < 2 ^ (8 * n) → dst ≠ some 0 →
  let m := 2 ^ (8 * n)
  let sg (a : Nat) : Int := if a < 2 ^ (8 * n - 1) then (a : Int) else (a : Int) - (m : Nat)
  let new (w : Nat) : Nat := match op with
    | .add => (w + x) % m
    | .and => w &&& x
    | .or => w ||| x
    | .xor => w ^^^ x
    | .min => if sg w ≤ sg x then w else x
    | .max => if sg w ≤ sg x then x else w
    | .minu => if w ≤ x then w else x
    | .maxu => if w ≤ x then x else w
    | .xchg => x
    | .fadd => if n = 8 then (fp64.addV 0 false (fp64.val w) (fp64.val x)).1 else (fp32.addV 0 false (fp32.val w) (fp32.val x)).1
    | .cas => if w = x then y else w
  let ctr : Ctr := if dst.isSome then .ld else .st
  let access (p : Phase) : Access := ⟨seq, ctr, k, pc, .atomS dst op n, .llc, [⟨127, va, pl, n, 0, x, y, p⟩],
    (dst.map fun d => [d.toNat]).getD [], false, s.th.trapMode, ph, sn⟩
  let ev : Instr := if dst.isSome then .loadCompletion s.th.uid seq [] else .storeCompletion s.th.uid seq []
  (∀ w < m, atomNew op n w x y = new w) ∧
  (s.unitsOk → s.th.partner = none → s.th.life ≠ .stopped → s.err.plant = none → s.th.out = [access .idle] →
    let done (old : Nat) (p : State → Prop) : Prop := ∃ t, exec ev s = .next t ∧ t.th.out = [] ∧
      (∀ r, t.sget r = if dst = some r then (if n = 4 then (BitVec.ofNat 32 old).signExtend 64 else BitVec.ofNat 64 old) else s.sget r) ∧
      t.th.pc = s.th.pc ∧ t.th.vreg = s.th.vreg ∧ p t
    let writes (m m' : Memory) (o : Nat) : Prop := m'.readN o n = new (m.readN o n) ∧ ∀ p, p < o ∨ o + n ≤ p → m'.read p = m.read p
    match pl with
    | .loc o => s.blk.lsBad o n = false → done (s.blk.ls.readN o n) fun t => writes s.blk.ls t.blk.ls o ∧
        t.tier = s.tier ∧ t.home = s.home ∧ t.seed = s.seed ∧ t.host.mem = s.host.mem
    | .seed o => s.seedBad o = false → done (s.seed.readN o n) fun t => writes s.seed t.seed o ∧
        t.tier = s.tier ∧ t.home = s.home ∧ t.blocks = s.blocks ∧ t.host.mem = s.host.mem
    | .host i h => s.hostUp i = true → done (s.host.mem.readN (hostAddr i h) n) fun t => writes s.host.mem t.host.mem (hostAddr i h) ∧
        t.tier = s.tier ∧ t.home = s.home ∧ t.blocks = s.blocks ∧ t.seed = s.seed
    | .mem pa _ =>
      let ws := if n = 8 then [pa / 4, pa / 4 + 1] else [pa / 4]
      let value (s : State) : Nat := (s.homeVal (pa / 4)).toNat + if n = 8 then 2 ^ 32 * (s.homeVal (pa / 4 + 1)).toNat else 0
      pa % n = 0 → pa < 2 ^ 53 → s.dies.states.getD (homeDie pa) 0 < 3 → s.unlocked s.pkg s.th.uid pa n = true →
      (s.lines.get? (lineOf (pa / 4))).any (fun l => l.ue = none) = true →
      (∀ w ∈ ws, s.raceCheck (s.ownerOf s.th) w = none ∧ s.wordBad w = false) →
      done (value s) fun t => value t = new (value s) ∧ (∀ w ∈ ws, t.home.get? w = some (.valid (t.homeVal w)) ∧
          ∀ e, t.l1 s.th.core w = some e → e.registered = true) ∧
        (∀ w, w < 2 ^ 51 → w ∉ ws → t.homeVal w = s.homeVal w) ∧ t.blocks = s.blocks ∧ t.seed = s.seed ∧ t.host.mem = s.host.mem
    | .remote g off r =>
      let f := s.flows.getD g Flow.reset
      s.canSend g 1 = true → ∃ t, exec ev s = .next t ∧ t.th.out = [access (.sent g f.next)] ∧ (∀ r, t.sget r = s.sget r) ∧ t.home = s.home ∧
        (t.flows.getD g Flow.reset).unacked = f.unacked ++ [(⟨s.pkg, g, f.next, s.th.ctx, s.ownerOf s.th, off,
          .atomic op n x y dst.isSome false, none, ph, false, f.resync, [], pc⟩, s.now)])

/-- R78, R85, R86, R89: the scope an access needs against another agent's registration, what is refused, and what is not: a load
is answered from the owner's copy, a registration moves to the requester with RSCOPE 0. A refused access changes no word and
leaves one record in the owner's race log. The line of the word is in the LLC. -/
def Obligations.RegistrationAndRaces : Prop := ∀ (s : State) (p : Who) (uid w region off n x : Nat) (f : Nat → Nat),
  let o := p.owner
  let found (y : BitVec 32) : Nat := s.ownerScope y w
  let other (y : BitVec 32) : Prop := s.home.get? w = some (.registered y) ∧ o ≠ y
  let refused (r : State) (cause need fnd : Nat) (y : BitVec 32) : Prop := r.home = s.home ∧ r.cores = s.cores ∧ r.tier = s.tier ∧
    r.blocks = s.blocks ∧ r.seed = s.seed ∧
    ∃ c, (r.ctx c).races = ((s.ctx c).races.push s.logCap
      (leBytes 8 (4 * w) ++ leBytes 4 o.toNat ++ leBytes 1 cause ++ leBytes 1 need ++ leBytes 1 fnd ++ [0])) ∧ c = s.ownerCtx y w
  (∀ y, needScope o y = if oKind o = 3 ∨ oKind y = 3 ∨ oPkg o ≠ oPkg y then 4
    else if oKind o = 2 ∨ oKind y = 2 ∨ oDie o ≠ oDie y then 3 else 2) ∧
  (∀ a b y, s.raceCheck o w = some (a, b, y) ↔ other y ∧ a = needScope o y ∧ b = found y ∧ b < a) ∧
  (s.lines.has (lineOf w) = true →
    (∀ need fnd y, s.raceCheck o w = some (need, fnd, y) →
      (∃ r, s.loadHome p w = (r, .nak need fnd y) ∧ refused r 6 need fnd y) ∧
      (∃ r, s.regReq p uid w region = (r, .nak need fnd y) ∧ refused r 7 need fnd y) ∧
      (∃ r, s.storeWord p uid .llc w region off n x = (r, .nak need fnd y) ∧ refused r 7 need fnd y) ∧
      (∃ r, s.atomicHome p false (4 * w) 4 f = (r, .nak need fnd y, 0) ∧ refused r 8 need fnd y)) ∧
    (∀ y, other y → s.raceCheck o w = none → s.ownerBad y w = false →
      ∃ r, s.loadHome p w = (r, .ok (s.ownerData y w)) ∧ r.home = s.home ∧ r.cores = s.cores) ∧
    (s.raceCheck o w = none →
      let r := s.regReq p uid w region
      r.2 = .ok (s.homeVal w) ∧ r.1.home.get? w = some (.registered o) ∧
      r.1.l1 p.core w = some ⟨true, s.homeVal w, oSlot o, 0, region, s.wordBad w⟩ ∧
      (∀ y, other y → oKind y = 0 ∨ oKind y = 2 → oCore y ≠ p.core → r.1.l1 (oCore y) w = none)))

/-- R78, R79, R84, R86, R87, R109, R273, R274, R302, R371, R374, R408: the messages between cores, homes and owners as events of
their own, for the running thread's one outstanding access, and the fills. A home revokes a registration only for an atomic of the
word or the eviction of its line. -/
def Obligations.TrafficEvents : Prop := ∀ (s : State) (seq k va n x pa region sn : Nat) (pc : Word) (d : Reg) (ph : Bool),
  let u := s.th.uid
  let w := pa / 4
  let o := s.ownerOf s.th
  let reaches := s.th.partner = none ∧ s.th.life ≠ .stopped ∧ s.dies.states.getD (homeDie pa) 0 < 3 ∧ s.unlocked s.pkg u pa n = true
  let clean := reaches ∧ (s.lines.get? (lineOf w)).any (fun l => l.ue = none) = true
  let sound := s.unitsOk ∧ s.err.plant = none ∧ s.err.rows = [] ∧ ∀ x ∈ s.lines, x.2.ue = none
  let others := ∀ x ∈ s.threads, x.2.out = []
  let part (p : Phase) (y : Nat) : Part := ⟨127, va, .mem pa region, n, 0, y, 0, p⟩
  let store (p : Phase) : Access := ⟨seq, .st, k, pc, .store n, .l1, [part p x], [], false, s.th.trapMode, ph, sn⟩
  let load (p : Phase) : Access := ⟨seq, .ld, k, pc, .loadS d n false, .llc, [part p 0], [d.toNat], false, s.th.trapMode, ph, sn⟩
  let atom : Access := ⟨seq, .st, k, pc, .atomS none .add n, .llc, [part .idle x], [], false, s.th.trapMode, ph, sn⟩
  (clean → s.th.out = [store .idle] → s.raceCheck o w = none → s.holdsReg (s.who s.th) w = false →
    ∃ t, exec (.regReq u seq 0) s = .next t ∧ t.th.out = [store .granted] ∧ t.home.get? w = some (.registered o) ∧ t.th.pc = s.th.pc) ∧
  (clean → ∀ need fnd y, s.raceCheck o w = some (need, fnd, y) →
    let info : Word := BitVec.ofNat 64 (127 + need * 2 ^ 8 + fnd * 2 ^ 11 + y.toNat * 2 ^ 32)
    (s.th.out = [store .idle] → ∃ t, exec (.raceNak u seq 0) s = .next t ∧ t.th.out = [] ∧ t.home = s.home ∧
      t.th.pending = s.th.pending ++ [⟨seq, .st, k, 7, pc, BitVec.ofNat 64 va, info, none, false, s.th.trapMode⟩]) ∧
    (s.th.out = [load .idle] → ∃ t, exec (.raceNak u seq 0) s = .next t ∧ t.th.out = [] ∧ t.home = s.home ∧ (∀ r, t.sget r = s.sget r) ∧
      t.th.pending = s.th.pending ++ [⟨seq, .ld, k, 6, pc, BitVec.ofNat 64 va, info, none, false, s.th.trapMode⟩])) ∧
  (clean → s.th.out = [load .idle] → ∀ y, s.home.get? w = some (.registered y) → y ≠ o → s.raceCheck o w = none → s.ownerBad y w = false →
    ∃ t, exec (.regFwd u seq 0) s = .next t ∧ t.home = s.home ∧
      t.th.out = [load (.got ((s.ownerData y w).toNat / 2 ^ (8 * (pa % 4)) % 2 ^ (8 * n)))]) ∧
  (clean → s.th.out = [atom] → ∀ y, s.home.get? w = some (.registered y) → s.ownerBad y w = false →
    (∀ v ∈ wordsOf pa n, s.raceCheck o v = none) → ∃ t, exec (.regRevoke pa) s = .next t ∧ t.home.get? w = some (.valid (s.ownerData y w)) ∧
      (oKind y = 0 ∨ oKind y = 2 → t.l1 (oCore y) w = none)) ∧
  ((∀ y, s.home.get? w ≠ some (.registered y)) ∨ (s.th.out = [] ∧ others) ∨
    (clean ∧ s.th.out = [atom] ∧ others ∧ (s.raceCheck o w).isSome = true) → exec (.regRevoke pa) s = .next s) ∧
  (∀ core c, (s.heldXlat core c va).isSome = true → exec (.pageTableWalk core c va) s = .next s) ∧
  (sound → ∀ core c y, s.heldXlat core c va = none → s.walk c va = .leaf y → ∃ t, exec (.pageTableWalk core c va) s = .next t ∧
    (t.core core).tlb.get? (tlbKey c va y.bits) = some y ∧
    (core < 512 → (t.dieTlbOf (dieOf core)).get? (tlbKey c va y.bits) = some y) ∧ t.th = s.th) ∧
  (sound → reaches → s.th.out = [load .idle] → ∃ t, exec (.llcFill pa) s = .next t ∧ t.th = s.th ∧ t.blocks = s.blocks ∧ t.seed = s.seed ∧
    (s.freeWay (lineOf w) ≠ none ∨ s.lines.has (lineOf w) = true → t.home = s.home ∧ t.tier = s.tier ∧ t.lines.has (lineOf w) = true)) ∧
  (s.th.out = [] → others → (∀ t ∈ s.allThreads, s.wantsWord t = false) → exec (.llcFill pa) s = .next s) ∧
  (∀ core c, (tlbFind (s.core core).tlb c va = none → exec (.l1Fill core c va) s = .next s) ∧
    (∀ x pa' g, tlbFind (s.core core).tlb c va = some x → va / 2 ^ 56 = 0 → placeOf (x.addr va) x.region = .mem pa' g →
      (x.ns = true ∨ 3 ≤ s.dies.states.getD (homeDie pa') 0 → exec (.l1Fill core c va) s = .next s) ∧
      (x.ns = false → s.dies.states.getD (homeDie pa') 0 < 3 → sound →
        ∃ t, exec (.l1Fill core c va) s = .next t ∧ { t.th with score := 0 } = { s.th with score := 0 } ∧ t.blocks = s.blocks ∧ t.seed = s.seed ∧
          ∀ k < 16, let w := pa' / 64 * 16 + k
            t.l1 core w = (s.l1 core w).orElse fun _ => match s.home.get? w with
              | some (.registered _) => none
              | _ => if s.memPoison.has w || !s.unlocked s.pkg runtime (4 * w) 4 then none else some ⟨false, s.homeVal w, 0, 0, g, false⟩))) ∧
  (s.wantsWord s.th = false → exec (.fetchFill ⟨u, 0⟩) s = .next s) ∧
  (s.wantsWord s.th = true → s.th.pc.toNat / 2 ^ 56 ≠ 0 →
    exec (.fetchFill ⟨u, 0⟩) s = .next (s.takePrecise ⟨5, false, s.th.pc, s.th.pc, faultInfo .fetch 127 14, none⟩)) ∧
  (∀ ev y h i, (ev = .fetchFill ⟨u, 0⟩ ∧ s.wantsWord s.th = true) ∨
      (ev = .fetchRetry u ∧ (s.core s.th.core).unfilled.has (bufKey s.th.ctx s.th.pc.toNat) = true ∧
        (s.core s.th.core).ibuf.has (bufKey s.th.ctx s.th.pc.toNat) = false) → s.th.pc.toNat / 2 ^ 56 = 0 → s.th.pc.toNat % 4 = 0 →
    (s.translate s.th.core s.th.ctx s.th.pc.toNat .fetch).2 = .ok y →
    placeOf (y.addr s.th.pc.toNat) y.region = .host i h → h % 64 = s.th.pc.toNat % 64 → s.hostUp i = true →
    ∃ t, exec ev s = .next t ∧ t.fetched = some (BitVec.ofNat 32 (s.host.mem.readN (hostAddr i h) 4)) ∧ t.th.pc = s.th.pc) ∧
  (∀ m, (∀ x, s.coreXlat s.th.core s.th.ctx x = none) → exec (.fetchFill ⟨u, m + 1⟩) s = .next s) ∧
  ((s.core s.th.core).unfilled.has (bufKey s.th.ctx s.th.pc.toNat) = false → exec (.fetchRetry u) s = .next s)

/-! ### Ordering, transactions and sleeping -/

/-- R81, R82, R83, R88, R94, R104, R191, R233, R234, R235, R236: acquire, release, fences, ifence and waitc. `quiet` says that every
earlier load, store, atomic and fence of the thread is done, the interrupted wave's too in trap mode; where it is not, acq waits at its
instruction and keeps the mask it read (R173). A fill on its way from another package leaves no word of the mask Valid (R83). A rel waits
for the accesses of its own mode, and a trap point covers what its own mode left pending (log 70). While an earlier access that a fence
waits for is to be performed, a later access that it orders is not performed. -/
def Obligations.OrderingResults : Prop := ∀ (a l st m : Reg) (sc : Scope) (s : State),
  let quiet : Bool := s.th.out.all fun x => x.ctr = .mx
  let waits (i : Instr) (k : WaitKind) (args : List Word) : Prop := exec i s = .next ((s.entered (encode i)).waitWith k args)
  let same (i : Instr) (t : State) : Prop := t.th = (s.entered (encode i)).adv.th ∧ t.threads = s.threads ∧ t.blocks = s.blocks ∧
    t.tier = s.tier ∧ t.home = s.home ∧ t.seed = s.seed ∧ t.host = s.host ∧ t.ctxs = s.ctxs ∧ t.lines = s.lines
  let races : List Pending := s.th.pending.filter fun p => p.inTrap == s.th.trapMode &&
    (p.cause = 6 || p.cause = 7 || p.cause = 8 || (p.cause = 0x11 && p.ctr ≠ .mx && p.bar.isNone) || (p.cause = 5 && p.ctr = .fence))
  let filled (p : Part) : Part := match p.phase, p.place with
    | .sent .., .remote _ _ g => if (s.src 0 a).getLsbD g then { p with x := 1 } else p
    | _, _ => p
  let fills (t : Thread) : Thread := if sc = .blk ∨ t.core ≠ s.th.core then t else { t with out := t.out.map fun x => match x.kind with
    | .loadS .. => { x with parts := x.parts.map filled }
    | .loadV .. => { x with parts := x.parts.map filled }
    | _ => x }
  let here : Bool := s.th.out.all fun x => x.ctr = .mx || x.inTrap != s.th.trapMode
  (s.passes (encode (.acq a sc)) → (quiet = false → waits (.acq a sc) .memory [s.src 0 a]) ∧
    (quiet = true → ∃ t, exec (.acq a sc) s = .next t ∧ t.th = fills (s.entered (encode (.acq a sc))).adv.th ∧
      t.threads = s.threads.map (fun x => (x.1, fills x.2)) ∧ t.blocks = s.blocks ∧ t.tier = s.tier ∧ t.home = s.home ∧ t.seed = s.seed ∧
      t.host = s.host ∧ t.ctxs = s.ctxs ∧ t.lines = s.lines ∧ (∀ c, c ≠ s.th.core → t.core c = s.core c) ∧
      t.core s.th.core = { s.core s.th.core with
        l1 := (s.core s.th.core).l1.filter fun x => sc = .blk || x.2.registered || !(s.src 0 a).getLsbD x.2.region
        fetching := if sc = .blk then (s.core s.th.core).fetching
          else (s.core s.th.core).fetching.map fun x => { x with parts := x.parts.map filled } })) ∧
  (s.passes (encode (.rel sc)) → (here = false → waits (.rel sc) .memory []) ∧
    (here = true → races = [] → ∃ t, exec (.rel sc) s = .next t ∧ same (.rel sc) t ∧
      ∀ w, t.l1 (oCore (s.ownerOf s.th)) w = (s.l1 (oCore (s.ownerOf s.th)) w).map fun e =>
        if e.registered && decide (e.wslot = oSlot (s.ownerOf s.th)) then { e with rscope := max e.rscope (sc.code + 1) } else e) ∧
    (here = true → ∀ p ∈ races, (∀ q ∈ races, p.seq ≤ q.seq) → (∀ q ∈ races, q.seq = p.seq → q = p) → ∃ v : State,
      exec (.rel sc) s = .next (v.takeTrap s.th.uid ⟨p.cause, true, p.pc, p.addr, p.info, none⟩) ∧ v.cores = s.cores)) ∧
  (∀ i ∈ [Instr.fence sc, .fenceSs sc, .fenceLl sc, .fenceIo sc], s.passes (encode i) → ∃ t, exec i s = .next t ∧
    t = { s with th := t.th } ∧ t.th.pc = s.th.pc + 4 ∧ (∀ r, t.sget r = s.sget r) ∧ t.th.vreg = s.th.vreg ∧ t.th.pending = s.th.pending ∧
    (s.th.out = [] → t.th.out = []) ∧
    (∀ b, s.th.out = [b] → b.finished = false → b.kind.isStore = true →
      (i = .fenceLl sc → t.th.out = [b]) ∧ (i ≠ .fenceLl sc → ∃ k x, t.th.out = [b, x] ∧ x.kind = .fence k sc.code))) ∧
  (∀ (b c : Access) (p : Part) (fk fseq : Nat) (fpc : Word), s.th.partner = none → b.seq < fseq → fseq < c.seq → b.finished = false →
    c.ctr = .ld ∨ c.ctr = .st → c.parts = [p] → p.phase = .idle →
    s.th.out = [b, ⟨fseq, .fence, 0, fpc, .fence fk sc.code, .llc, [], [], false, b.inTrap, b.ph, b.since⟩, c] →
    let writes (x : Access) : Bool := x.kind.isStore || x.kind.isAtomic
    let toHost : Bool := writes c && (match p.place with
      | .host .. => true
      | _ => false)
    let orders : Bool := match fk with
      | 0 => (b.kind.isLoad || writes b) && (if sc = .sys then c.kind.isLoad || writes c || c.kind.isSend else (c.kind.isLoad || writes c) && !toHost)
      | 1 => writes b && writes c && !toHost
      | 2 => (b.kind.isLoad || b.kind.isAtomic) && (c.kind.isLoad || c.kind.isAtomic)
      | 3 => writes b && (c.kind.isSend || toHost)
      | _ => false
    orders = true → exec (if c.ctr = .ld then .loadCompletion s.th.uid c.seq [] else .storeCompletion s.th.uid c.seq []) s = .next s) ∧
  (s.passes (encode .ifence) → ∃ t, exec .ifence s = .next t ∧ same .ifence t ∧ (∀ c, c ≠ s.th.core → t.core c = s.core c) ∧
    t.core s.th.core = { s.core s.th.core with ibuf := [], unfilled := [], fetching := [] }) ∧
  (s.passes (encode (.waitc l st m)) →
    let met := (l = 127 ∨ s.th.count .ld ≤ l.toNat) ∧ (st = 127 ∨ s.th.count .st ≤ st.toNat) ∧ (m = 127 ∨ s.th.count .mx ≤ m.toNat)
    let covered : List Pending := s.th.pending.filter fun p => p.inTrap == s.th.trapMode && p.bar.isNone && (match p.ctr with
      | .ld => l ≠ 127 && decide (l.toNat < s.th.issued .ld - p.k)
      | .st => st ≠ 127 && decide (st.toNat < s.th.issued .st - p.k)
      | _ => m ≠ 127 && decide (m.toNat < s.th.issued .mx - p.k))
    (¬met → waits (.waitc l st m) .waitc []) ∧
    (met → covered = [] → exec (.waitc l st m) s = .next s.adv) ∧
    (met → ∀ p ∈ covered, (∀ q ∈ covered, p.seq ≤ q.seq) → (∀ q ∈ covered, q.seq = p.seq → q = p) → ∃ v : State,
      exec (.waitc l st m) s = .next (v.takeTrap s.th.uid ⟨p.cause, true, p.pc, p.addr, p.info, none⟩) ∧
      (∀ q ∈ v.th.pending, q ≠ p) ∧
      (∀ q ∈ covered, q.cause = 6 ∨ q.cause = 7 ∨ q.cause = 8 → q ∉ v.th.pending) ∧
      (∀ q ∈ s.th.pending, q ∉ covered → q ∈ v.th.pending)))

/-- R237, R238, R239, R240, R241: opening, aborting and ending a lane transaction. `busy`: a transactional access is still to be
performed; `held`: an access to a word of the sets, or a fence, comes first (R97, R104). The committed lanes of txe do not meet a
lower committed lane's writes. One surviving lane that writes one word commits exactly where every word it read still has the
value it read and no other agent holds a word of its sets too narrowly; then the word is registered to the block with RSCOPE 4 and
its bytes are the lane's. A txe over words of other packages first holds every word of its sets there, for itself alone (R105, R368); the
commit waits while another one holds a word of its sets. An instruction that may not run in
a transaction first aborts every open lane with reason 6. -/
def Obligations.TransactionResults : Prop := ∀ (d : Reg) (w : W32) (s : State),
  let busy : Bool := s.th.out.any fun a => a.tx && !a.finished
  let held : Bool := s.th.txHeld
  let lane? (t : State) (j : Nat) : Option Nat := (t.th.tx.lanes.get? j).map (·.aborted)
  let goes (i : Instr) (p : State → Prop) : Prop := ∃ t, exec i s = .next t ∧ t.th.pc = s.th.pc + 4 ∧ (∀ r, t.sget r = s.sget r) ∧
    t.th.vreg = s.th.vreg ∧ t.blocks = s.blocks ∧ t.seed = s.seed ∧ p t
  let asked := (s.entered (encode .txe)).txAsk
  let sound : Prop := s.err.plant = none ∧ s.err.rows = [] ∧ ∀ x ∈ s.lines, x.2.ue = none
  (s.passes (encode .txb) → busy = false → goes .txb fun t => t = { s with th := t.th } ∧
    t.th.tx = ⟨true, 0, 0, 127, 0, false, s.activeLanes.map fun j => (j, ⟨[], [], [], [], 0⟩), []⟩) ∧
  (∀ i ∈ [Instr.txb, .txe], s.passes (encode i) → busy = true → exec i s = .next ((s.entered (encode i)).waitAt .memory)) ∧
  (s.passes (encode .txe) → busy = false → s.th.tx.isOpen = false → goes .txe fun t => t = { s with th := t.th } ∧
    t.th.tx = { s.th.tx with committed := [], ncommit := 0 }) ∧
  (s.passes (encode .txe) → busy = false → s.th.tx.isOpen = true →
    (held = true → exec .txe s = .next ((s.entered (encode .txe)).waitAt .memory)) ∧
    (s.th.tx.remotes = [] → asked = s.entered (encode .txe) ∧
      (asked.txReady = true ↔ ∀ x ∈ s.th.tx.words, x < 2 ^ 44 → s.unlocked s.pkg s.th.uid (4 * x) 4 = true)) ∧
    (held = false → asked.txReady = false → exec .txe s = .next (asked.waitAt .memory)) ∧
    (held = false → asked.txReady = true → sound → goes .txe fun t =>
      t.th.tx.isOpen = false ∧ t.th.tx.lanes = [] ∧ t.th.tx.ncommit = t.th.tx.committed.length ∧
      (∀ j ∈ t.th.tx.committed, ∃ x ∈ s.th.tx.lanes, x.1 = j ∧ x.2.aborted = 0) ∧
      (s.th.tx.survivors = [] → t.th.tx.committed = [] ∧ t.home = s.home ∧ t.tier = s.tier ∧ t.host = s.host) ∧
      ((s.th.tx.lanes.map (·.1)).Nodup → s.th.tx.lanes.Pairwise (fun x y => x.1 ∈ t.th.tx.committed → y.1 ∈ t.th.tx.committed →
        ∀ v, (y.2.reads.has v = true ∨ v ∈ y.2.writes.map (·.1 / 4)) → v ∉ x.2.writes.map (·.1 / 4)))) ∧
    (held = false → sound → ∀ j L v, s.th.tx.survivors = [(j, L)] → L.written = [v] → (∀ x ∈ L.touched, x < 2 ^ 43) →
      s.wordBad v = false → (∀ x ∈ L.touched, s.lines.has (lineOf x) = true ∧ s.unlocked s.pkg s.th.uid (4 * x) 4 = true) →
      (l1SetLines (s.core s.th.core).l1 (l1Sets s.th.core) (v / 16)).length < 8 →
      let valid : Prop := (∀ p ∈ L.reads, s.raceCheck (s.ownerOf s.th) p.1 = none ∧ s.wordBad p.1 = false ∧ (s.homeVal p.1).toNat = p.2) ∧
        s.raceCheck (s.ownerOf s.th) v = none
      (¬valid → goes .txe fun t => t.th.tx.committed = [] ∧ t.th.tx.ncommit = 0 ∧ t.th.tx.nabort = s.th.tx.nabort + 1 ∧ t.home = s.home ∧ t.tier = s.tier) ∧
      (valid → goes .txe fun t => t.th.tx.committed = [j] ∧ t.th.tx.ncommit = 1 ∧ t.th.tx.nabort = s.th.tx.nabort ∧
        t.home.get? v = some (.registered (s.ownerOf s.th)) ∧ ∃ e, t.l1 s.th.core v = some e ∧ e.registered = true ∧ e.rscope = 4 ∧
          ∀ i < 4, BitVec.ofNat 8 (e.data.toNat / 2 ^ (8 * i)) = L.writes.getD (4 * v + i) (BitVec.ofNat 8 ((s.homeVal v).toNat / 2 ^ (8 * i)))))) ∧
  (s.passes (encode .txa) → goes .txa fun t => t = { s with th := t.th } ∧
    (∀ j, lane? t j = (lane? s j).map fun x => if s.th.tx.isOpen && decide (x = 0) && s.active j then 3 else x) ∧
    t.th.tx.nabort = s.th.tx.nabort + (if s.th.tx.isOpen then s.th.tx.lanes.countP fun x => x.2.aborted = 0 && s.active x.1 else 0)) ∧
  (s.passes (encode (.txs d)) → exec (.txs d) s = .next ((s.entered (encode (.txs d))).tset d fun j => decide (j ∈ s.th.tx.committed)).adv) ∧
  (txDisallowed (wOp w) (wF w) = true ↔ wOp w ∈ [0x5C, 0x5D, 0x5E, 0x60, 0x61, 0x62, 0x63, 0x65] ∨ (wOp w = 0x64 ∧ wF w = 0) ∨
    (0x66 ≤ wOp w ∧ wOp w ≤ 0x7C)) ∧
  (txDisallowed (wOp w) (wF w) = true → s.th.tx.isOpen = true →
    ∀ j, lane? (s.entered w) j = (lane? s j).map fun x => if x = 0 then 6 else x) ∧
  (txDisallowed (wOp w) (wF w) = false ∨ s.th.tx.isOpen = false → (s.entered w).th.tx = s.th.tx)

/-- R242, R243, R244: wsleep, on every kind of word. It ends with the value it read where the condition holds; otherwise the wave
sleeps at its instruction, with what it read kept (R173). A wake event, a re-evaluation that is due, and the timeout after WTIMEOUT
ticks of TIME as the wave reads it read as R243 states, the last without the scope check where no value has been read; the result is written when the
instruction is next executed. `free`: no earlier access of the wave that the read must follow is outstanding. -/
def Obligations.SleepResults : Prop := ∀ (d a b : Reg) (s : State) (v : Nat) (pl : Place),
  let holds (cc : Nat) (x cmp : Word) : Prop := match cc with
    | 0 => x = cmp
    | 1 => x ≠ cmp
    | 2 => cmp.toInt ≤ x.toInt
    | _ => cmp.toNat ≤ x.toNat
  let reads (final : Bool) : Prop := match pl with
    | .loc o => s.blk.lsBad o 8 = false ∧ v = s.blk.ls.readN o 8
    | .seed o => s.seedBad o = false ∧ v = s.seed.readN o 8
    | .host i h => s.hostUp i = true ∧ v = s.host.mem.readN (hostAddr i h) 8
    | .mem pa _ =>
      let w := pa / 4
      s.dies.states.getD (homeDie pa) 0 < 3 ∧ s.unlocked s.pkg s.th.uid pa 8 = true ∧ (s.lines.get? (lineOf w)).any (fun l => l.ue = none) = true ∧ s.wordBad w = false ∧ s.wordBad (w + 1) = false ∧
        (final = true ∨ s.raceCheck (s.ownerOf s.th) w = none ∧ s.raceCheck (s.ownerOf s.th) (w + 1) = none) ∧
        v = (s.homeVal w).toNat + 2 ^ 32 * (s.homeVal (w + 1)).toNat
    | .remote .. => False
  let u := s.th.uid
  let free (va : Nat) : Prop := s.th.readsNow va 8 pl = true
  let kept (t : State) : Prop := t.blocks = s.blocks ∧ t.seed = s.seed ∧ t.tier = s.tier ∧ t.home = s.home ∧ t.host = s.host ∧
    t.th.vreg = s.th.vreg
  let four := [(Instr.wsleepEq d a b, 0), (.wsleepNe d a b, 1), (.wsleepGe d a b, 2), (.wsleepGeu d a b, 3)]
  let ends (i : Instr) (x : Nat) : Prop := ∃ t, exec i s = .next t ∧ t.th.pc = s.th.pc + 4 ∧ (d ≠ 0 → t.sget d = BitVec.ofNat 64 x) ∧
    (∀ r, r ≠ d → t.sget r = s.sget r) ∧ kept t ∧ ∀ e ∈ t.watch, e.1 ≠ u
  let sleeps (i : Instr) (cc : Nat) (last : Option Nat) (p : State → Prop) : Prop := ∃ t w, exec i s = .next t ∧ t.th.pc = s.th.pc ∧
    (∀ r, t.sget r = s.sget r) ∧ kept t ∧ t.th.wait = some w ∧ w.kind = .sleep cc (s.sget a).toNat (s.sget b) ∧ w.since = s.timeOf s.th ∧
    w.last = last ∧ w.result = none ∧ w.fail = none ∧ w.args = [s.sget a, s.sget b] ∧ p t
  s.err.plant = none → s.th.life ≠ .stopped → (reads true → v < 2 ^ 64) ∧
  (s.th.wait = none → s.emulates 127 = false → s.reach s.th .load none (s.sget a).toNat 8 = (s, .ok pl) → free (s.sget a).toNat →
    ∀ p ∈ four, s.passes (encode p.1) →
      (reads false → holds p.2 (BitVec.ofNat 64 v) (s.sget b) → ends p.1 v) ∧
      (reads false → ¬holds p.2 (BitVec.ofNat 64 v) (s.sget b) → sleeps p.1 p.2 (some v) fun _ => True) ∧
      (∀ g o rg, pl = .remote g o rg → s.canSend g 1 = true → (∀ x ∈ s.th.out, x.kind ≠ .record) → sleeps p.1 p.2 none fun t =>
        ∃ q, (t.flows.get? g).any (fun f => decide (f.unacked.length = s.unacked g + 1)) = true ∧ t.th.out = s.th.out ++ [q] ∧ q.kind = .record)) ∧
  (∀ p ∈ four, s.passes (encode p.1) → s.emulates 127 = false → ∀ w x, s.th.wait = some w →
    w.kind = .sleep p.2 (s.src 0 a).toNat (s.src 1 b) → w.result = some x → ends p.1 x) ∧
  (∀ cc va cmp w, s.reach s.th .load none va 8 = (s, .ok pl) → free va → s.th.wait = some w → w.kind = .sleep cc va cmp →
    w.result = none → w.fail = none → (∀ x ∈ s.th.out, x.kind ≠ .record) →
    let due : Prop := (w.last = none ∧ w.again = none) ∨ u ∈ s.woken ∨ (∃ g, w.again = some g ∧ g + 1000 ≤ s.now) ∨
      match pl with
      | .mem .. => False
      | .remote .. => False
      | _ => True
    let late : Prop := s.th.wtimeout ≠ 0 ∧ s.th.wtimeout.toNat ≤ s.timeOf s.th - w.since
    (∀ i ∈ [Instr.wsleepWakeEvent u, .wsleepReevaluation u],
      (¬due → exec i s = .next s) ∧
      (due → reads false → ∃ t x, exec i s = .next t ∧ t.th.pc = s.th.pc ∧ kept t ∧ (∀ r, t.sget r = s.sget r) ∧ u ∉ t.woken ∧ t.th.wait = some x ∧
        x.kind = w.kind ∧ x.since = w.since ∧ x.args = w.args ∧ x.fail = none ∧ x.last = some v ∧
        (holds cc (BitVec.ofNat 64 v) cmp → x.result = some v) ∧ (¬holds cc (BitVec.ofNat 64 v) cmp → x.result = none))) ∧
    (¬late → exec (.wsleepTimeout u) s = .next s) ∧
    (late → w.last.isSome = true ∨ reads true → ∃ t, exec (.wsleepTimeout u) s = .next t ∧ t.th.pc = s.th.pc ∧ kept t ∧
      (∀ r, t.sget r = s.sget r) ∧ t.th.wait = some { w with result := some (w.last.getD v) }))

/-! ### Waiting on other waves -/

/-- R44, R248 to R254: bar and the named barriers; the number of a barrier that the block does not own raises LOCAL_BOUNDS. A status
ends nbwait unchecked; otherwise the check of R44 comes first, and an arrival-mode wait ends once the wave's earlier accesses are
done. -/
def Obligations.BarrierResults : Prop := ∀ (d a b : Reg) (s : State), s.unitsOk →
  let n := (s.sget a).toNat % 1024
  let x := s.blk.bar n
  let owned := n < s.blk.lsBytes / 1024
  let quiet : Bool := s.th.out.all fun x => x.ctr = .mx
  let fresh : Prop := ∀ w, s.th.wait = some w → w.args = []
  let kept (t : State) : Prop := t.th.pc = s.th.pc + 4 ∧ (∀ v, t.th.vreg.get? v = s.th.vreg.get? v) ∧ t.tier = s.tier ∧ t.home = s.home ∧
    t.seed = s.seed ∧ t.blk.ls = s.blk.ls ∧ (∀ m, m ≠ n → t.blk.bar m = s.blk.bar m)
  let regs (t : State) : Prop := ∀ r, t.sget r = s.sget r
  let gets (t : State) (v : Nat) : Prop := (∀ r, r ≠ d → t.sget r = s.sget r) ∧ (d ≠ 0 → t.sget d = BitVec.ofNat 64 v)
  let value (y : Barrier) : Nat := y.expected * 2 ^ 40 + y.arrived * 2 ^ 16 + (if y.sector then 32 else 0) + (if y.phase then 16 else 0) + y.status
  let tested (y z : Barrier) : Prop := if y.expected ≠ 0 ∧ y.arrived = y.expected then
      z.phase = !y.phase ∧ z.arrived = 0 ∧ z.sector = y.sector ∧ z.status = y.status ∧
        (if y.sector then z.expected = 0 ∧ z.amask = y.amask else z.expected = y.expected ∧ z.amask = []) ∧ z.comp = some (value z)
    else z = y
  let all := [Instr.nbinit a b, .nbexp a b, .nbarr a, .nbwait d a, .nbtest d a]
  (∀ i ∈ all, s.passes (encode i) → fresh → ¬owned →
    exec i s = .next ((s.entered (encode i)).takePrecise ⟨0x0B, false, s.th.pc, 0, 1, none⟩)) ∧
  (s.passes (encode (.nbinit a b)) → owned → ∃ t, exec (.nbinit a b) s = .next t ∧ kept t ∧ regs t ∧
    t.blk.bar n = ⟨(s.sget b).getLsbD 31, (s.sget b).toNat % 2 ^ 24, 0, false, 0, [], none⟩) ∧
  (s.passes (encode (.nbexp a b)) → owned → let e := x.expected + (s.sget b).toNat % 2 ^ 24
    (2 ^ 24 ≤ e → exec (.nbexp a b) s = .next ((s.entered (encode (.nbexp a b))).takePrecise ⟨0x0B, false, s.th.pc, 0, 2, none⟩)) ∧
    (e < 2 ^ 24 → ∃ t, exec (.nbexp a b) s = .next t ∧ kept t ∧ regs t ∧ tested { x with expected := e } (t.blk.bar n))) ∧
  (s.passes (encode (.nbarr a)) → fresh → owned → quiet = true → ∃ t m, exec (.nbarr a) s = .next t ∧ kept t ∧ regs t ∧
    (∀ w, w ∈ m ↔ w ∈ x.amask ∨ (x.sector = false ∧ w = s.th.wib)) ∧
    tested { x with arrived := (x.arrived + 1) % 2 ^ 24, amask := m } (t.blk.bar n)) ∧
  (s.passes (encode (.nbtest d a)) → owned → s.th.pending = [] → ∃ t, exec (.nbtest d a) s = .next t ∧ kept t ∧ gets t (value x) ∧
    t.blk.bar n = x) ∧
  (s.passes (encode (.nbwait d a)) → owned → s.th.pending = [] → s.th.wait = none →
    let p := (s.sget a).getLsbD 16
    let may := s.blk.waves.countP fun u => !(s.thread u).gone && !x.amask.contains (s.thread u).wib
    let fails : Prop := x.sector = false ∧ x.arrived + may < x.expected
    (x.status ≠ 0 → ∃ t, exec (.nbwait d a) s = .next t ∧ kept t ∧ gets t (value x)) ∧
    (x.status = 0 → fails → exec (.nbwait d a) s = .next ((s.entered (encode (.nbwait d a))).takePrecise
      ⟨9, false, s.th.pc, 0, BitVec.ofNat 64 (3 + n * 2 ^ 16), none⟩)) ∧
    (x.status = 0 → ¬fails → x.phase ≠ p →
      (x.sector = true ∨ quiet = true → ∃ t, exec (.nbwait d a) s = .next t ∧ kept t ∧ gets t (x.comp.getD (value x))) ∧
      (x.sector = false → quiet = false → exec (.nbwait d a) s = .next
        ((s.entered (encode (.nbwait d a))).waitDone (.nb n p) [s.sget a] (x.comp.getD (value x))))) ∧
    (x.status = 0 → ¬fails → x.phase = p → exec (.nbwait d a) s = .next ((s.entered (encode (.nbwait d a))).waitWith (.nb n p) [s.sget a]))) ∧
  (s.passes (encode .bar) → s.th.wait = none →
    ((∃ u ∈ s.blk.waves, (s.thread u).gone = true) → exec .bar s = .next ((s.entered (encode .bar)).takePrecise ⟨9, false, s.th.pc, 0, 3, none⟩)) ∧
    (quiet = true → (∀ u ∈ s.blk.waves, (s.thread u).gone = false) →
      ((∀ u ∈ s.blk.waves, (s.thread u).wib = s.th.wib ∨ (s.thread u).wib ∈ s.blk.atBar) → ∃ t, exec .bar s = .next t ∧ t.th.pc = s.th.pc + 4 ∧
        t.blk.atBar = [] ∧ t.blk.barDone = s.blk.barDone + 1 ∧ regs t ∧ t.blk.ls = s.blk.ls) ∧
      ((∃ u ∈ s.blk.waves, (s.thread u).wib ≠ s.th.wib ∧ (s.thread u).wib ∉ s.blk.atBar) → ∃ t, exec .bar s = .next t ∧ t.th.pc = s.th.pc ∧
        t.th.wait.any (fun w => w.kind = .bar) = true ∧ s.th.wib ∈ t.blk.atBar ∧ regs t))) ∧
  (s.passes (encode .bar) → ∀ v w, s.th.wait = some w → w.kind = .bar → w.fail = none → w.result = some v →
    exec .bar s = .next (s.entered (encode .bar)).adv)

/-- R44, R255, R256: the Trellis. An arrival counts; the N-th is released 48 ns later, and then the generation flips. `blocked`: a launched
member task of class W, or one of class C with a block that has not started; the first such member fails the wait. An identifier whose
launched members have all ended short of N arrivals completes ABANDONED. -/
def Obligations.TrellisResults : Prop := ∀ (d a : Reg) (s : State) (x : Trellis), s.unitsOk →
  let id := (s.sget a).toNat % 64
  let all := [Instr.tbarr a, .tbwait d a, .tbar d a]
  let arrived (y : Trellis) : Prop := if x.n ≤ x.count + 1 then y = { x with count := 0, due := x.due ++ [s.now + 48] } else y = { x with count := x.count + 1 }
  let value (y : Trellis) : Nat := (if y.gen then 16 else 0) + y.status
  let regs (t : State) : Prop := ∀ r, t.sget r = s.sget r
  let blocked (u f : Nat) : Prop := ∃ k, s.tasks.get? u = some k ∧ ((k.record.cls = 2 ∧ f = 1 + id * 2 ^ 16) ∨
    (k.record.cls = 1 ∧ k.isOver = false ∧ f = 2 + id * 2 ^ 16 ∧
      (k.placed < k.record.blocks ∨ ∃ p ∈ s.blocks, p.2.task = u ∧ p.2.started = false)))
  let fails (f : Nat) : Prop := ∃ l u r, x.tasks = l ++ u :: r ∧ blocked u f ∧ ∀ v ∈ l, ∀ g, ¬blocked v g
  let clear : Prop := ∀ u ∈ x.tasks, ∀ f, ¬blocked u f
  let ended (u : Nat) : Bool := (s.tasks.get? u).any (·.isOver)
  (∀ i ∈ all, s.passes (encode i) → (∀ w, s.th.wait = some w → w.args = []) → (s.trellis.get? id = none ∨ (s.trellis.get? id = some x ∧ x.due = [] ∧ (x.ctx ≠ s.th.ctx ∨ x.n = 0))) →
    exec i s = .next ((s.entered (encode i)).takePrecise ⟨5, false, s.th.pc, 0, 4, none⟩)) ∧
  (s.trellis.get? id = some x → x.ctx = s.th.ctx → x.n ≠ 0 → (∀ t ∈ x.due, s.now < t) →
    (s.passes (encode (.tbarr a)) → ∃ t y, exec (.tbarr a) s = .next t ∧ t.th.pc = s.th.pc + 4 ∧ regs t ∧
      t.trellis.get? id = some y ∧ arrived y ∧ (∀ j, j ≠ id → t.trellis.get? j = s.trellis.get? j)) ∧
    (s.passes (encode (.tbwait d a)) → s.th.wait = none → let g := (s.sget a).getLsbD 8
      (∀ f, fails f →
        exec (.tbwait d a) s = .next ((s.entered (encode (.tbwait d a))).takePrecise ⟨9, false, s.th.pc, 0, BitVec.ofNat 64 f, none⟩)) ∧
      (clear →
        (x.gen ≠ g ∨ x.status ≠ 0 → exec (.tbwait d a) s = .next ((s.entered (encode (.tbwait d a))).sset d (BitVec.ofNat 64 (value x))).adv) ∧
        (x.gen = g → x.status = 0 → exec (.tbwait d a) s = .next ((s.entered (encode (.tbwait d a))).waitWith (.trellis id g) [s.sget a])))) ∧
    (s.passes (encode (.tbar d a)) → s.th.wait = none → ∀ f, fails f →
      exec (.tbar d a) s = .next ((s.entered (encode (.tbar d a))).takePrecise ⟨9, false, s.th.pc, 0, BitVec.ofNat 64 f, none⟩)) ∧
    (s.passes (encode (.tbar d a)) → s.th.wait = none → clear → ∃ t y, exec (.tbar d a) s = .next t ∧
      t.trellis.get? id = some y ∧ arrived y ∧
      (x.status = 0 → t.th.pc = s.th.pc ∧ regs t ∧ t.th.wait = some ⟨.trellis id x.gen, s.timeOf s.th, s.cycles, none, none, none, [s.sget a], none⟩) ∧
      (x.status ≠ 0 → t.th.pc = s.th.pc + 4 ∧ (d ≠ 0 → t.sget d = BitVec.ofNat 64 (value x)))) ∧
    (∀ i ∈ [Instr.tbwait d a, .tbar d a], s.passes (encode i) → ∀ g w v, s.th.wait = some w → w.kind = .trellis id g → w.fail = none → w.result = some v →
      s.src 0 a = s.sget a → (i = .tbwait d a → g = (s.sget a).getLsbD 8) →
      exec i s = .next ((s.entered (encode i)).sset d (BitVec.ofNat 64 v)).adv)) ∧
  (∀ j y, s.trellis.get? j = some y →
    let released (z : Trellis) : Prop := ∃ t, exec (.trellisRelease j) s = .next t ∧ t.trellis.get? j = some z ∧ t.th.pc = s.th.pc ∧
      (∀ w g, s.th.wait = some w → w.kind = .trellis j g → w.result = none → g = y.gen → t.th.wait = some { w with result := some (value z) })
    (y.due = [s.now] → (∀ p ∈ s.trellis, p.2.tasks = [] ∨ ∃ u ∈ p.2.tasks, ended u = false) → released { y with gen := !y.gen, due := [] }) ∧
    (s.trellis.filter (fun p => p.1 = j) = [(j, y)] → y.status = 0 → y.count < y.n → y.due = [] → y.tasks ≠ [] → (∀ u ∈ y.tasks, ended u = true) →
      released { y with gen := !y.gen, status := 1, count := 0 }))
/-! ### Launching, leaving, queues and lists -/

/-- R36, R37, R38, R41, R44, R45, R61, R62, R64, R257, R258: launch, launch.wait, exit and exit.succ. `readable`: the record, and the
role table it names, read as bytes before anything is validated; `parsed`: the limits of R36 and R38 hold. A wave that `leaves` has
nothing outstanding, nothing pending and no list; where another wave of its block is still there, only its own state goes, and with
the last one the block ends, and a successor that fits starts on the block's core. -/
def Obligations.LaunchAndExit : Prop := ∀ (d a : Reg) (s s2 : State) (b tb : List Byte) (r : Record), s.unitsOk →
  let va := s.sget a
  let u := s.th.uid
  let e (i : Instr) : State := s.entered (encode i)
  let fresh : Prop := ∀ w, s.th.wait = some w → w.args = []
  let traps (i : Instr) (t : State) (cause : Nat) (addr info : Word) : Prop := exec i s = .next (t.takePrecise ⟨cause, false, s.th.pc, addr, info, none⟩)
  let status (i : Instr) (v : Nat) : Prop := exec i s = .next (s2.sset d (BitVec.ofNat 64 v)).adv
  let parsed : Option Record := s2.parseRecord b tb va.toNat s2.th.ctx s2.th.privileged false
  let begins (i : Instr) : Prop := s.passes (encode i) ∧ fresh ∧ (i = .launchWait d a → s.th.wait = none)
  let readable (i : Instr) : Prop := va.toNat % 64 = 0 ∧ ∃ s1, (e i).recordWords va.toNat 8 = (s1, .bytes b) ∧
    if fld b 29 1 = 0 then tb = [] ∧ s2 = s1.dropRecords
    else ∃ s3, s2 = s3.dropRecords ∧ s1.recordWords (fld b 32 8 / 8 * 8) (if fld b 32 8 % 8 = 0 then 4 * fld b 29 1 else 4 * fld b 29 1 + 1) = (s3, .bytes tb)
  let above : Prop := (let c := s2.ctx r.ctx; (c.budget ≠ 0 ∧ c.budget < r.energy) ∨ 24000000 < r.energy)
  let k0 : Task := s2.newTask r s2.th.die (if s2.th.frailor then none else some s2.blk.task) none 0 false
  let places : Option State := if maxPlaces < r.blocks ∨ s2.fitsWindow r.ctx (r.blocks * r.energy) = false then none
    else ({ s2 with nextUid := s2.nextUid + 1, tasks := s2.tasks.set k0.uid k0 } : State).reserveC k0 r.blocks 0
  let known (t : State) (placed : Nat) : Prop := ∃ k, t.tasks.get? s2.nextUid = some k ∧ k.record = r ∧ k.placed = placed ∧ k.ended = 0 ∧
    k.isOver = false ∧ k.eff = r.prio ∧ k.word = none
  let accepted (i : Instr) (placed : Nat) : Prop :=
    (i = .launch d a → ∃ t, exec i s = .next t ∧ t.th.pc = s.th.pc + 4 ∧ (d ≠ 0 → t.sget d = 0) ∧ (∀ x, x ≠ d → t.sget x = s2.sget x) ∧ known t placed) ∧
    (i = .launchWait d a → ∃ t w, exec i s = .next t ∧ t.th.pc = s.th.pc ∧ (∀ x, t.sget x = s2.sget x) ∧ t.th.wait = some w ∧
      w.kind = .task s2.nextUid ∧ w.args = [va] ∧ known t placed)
  let leaves (i : Instr) : Prop := s.passes (encode i) ∧ fresh ∧ s.th.out = [] ∧ s.th.pending = [] ∧ s.th.latList = none ∧ s.th.barList = none ∧
    (∀ c ∈ (s.core s.th.core).latq, c.thr ≠ u) ∧ (∀ c ∈ (s.core s.th.core).barrow, c.thr ≠ u)
  let others : Prop := ∃ v ∈ s.blk.waves, v ≠ u ∧ (s.thread v).gone = false
  let last (i : Instr) : Prop := leaves i ∧ ¬others ∧ s.engineBusy s.th.blk = false
  let left (i : Instr) : Prop := ∃ t, exec i s = .next t ∧ t.th.life = .exited ∧ t.th.uid = u ∧ t.th.vreg = [] ∧ t.tasks = s.tasks ∧
    t.blk = { s.blk with exits := s.blk.exits + 1, tiles := t.blk.tiles } ∧
    (∀ j x, t.blk.tiles.get? j = some x → ∀ c ∈ x.claims, c.2 ≠ s.th.wib) ∧ t.tier = s.tier ∧ t.home = s.home ∧ t.cores = s.cores
  let closed (k : Task) : Task := { k with ended := k.ended + 1, counted := k.counted + (if s.blk.halts = 0 then 1 else 0)
                                           status := if s.blk.halts = 0 then k.status else max k.status 1 }
  (∀ i ∈ [Instr.launch d a, .launchWait d a], begins i →
    (va.toNat % 64 ≠ 0 → traps i (e i) 3 va 0) ∧
    (va.toNat % 64 = 0 →
      (∀ s1 x n, (e i).recordWords va.toNat 8 = (s1, .stop x n) → exec i s = s1.dropRecords.faulted x n false []) ∧
      (∀ s1, (e i).recordWords va.toNat 8 = (s1, .wait) → exec i s = .next (s1.waitWith .memory [va]))) ∧
    (readable i → (i = .launchWait d a → fld b 21 1 = 0) →
      (parsed = none → status i 2) ∧
      (parsed = some r → above → status i 3) ∧
      (parsed = some r → ¬above → r.cls = 0 → places = none → status i 1) ∧
      (parsed = some r → ¬above → r.cls = 0 → places.isSome = true → accepted i r.blocks) ∧
      (parsed = some r → ¬above → r.cls ≠ 0 → accepted i 0))) ∧
  (begins (.launchWait d a) → readable (.launchWait d a) → fld b 21 1 ≠ 0 → traps (.launchWait d a) s2 9 0 4) ∧
  (s.passes (encode (.launchWait d a)) → ∀ k w, s.th.wait = some w → w.kind = .task k →
    ((s.tasks.get? k).bind (·.word) = none → exec (.launchWait d a) s = .next (e (.launchWait d a))) ∧
    (∀ v, (s.tasks.get? k).bind (·.word) = some v → (∀ x ∈ s.th.out, x.ctr = .mx) → ∃ t, exec (.launchWait d a) s = .next t ∧ t.th.pc = s.th.pc + 4 ∧
      (d ≠ 0 → t.sget d = BitVec.ofNat 64 v) ∧ (∀ x, x ≠ d → t.sget x = s.sget x) ∧
      ∀ x ∈ (t.core s.th.core).l1, x.2.region < 64 → x.2.registered = true)) ∧
  (∀ i ∈ [Instr.exit, .exitSucc a], s.passes (encode i) → fresh →
    (s.th.out.any fun x => x.kind ≠ .record) = true ∨ (∃ c ∈ (s.core s.th.core).barrow, c.thr = u) →
    exec i s = .next ((e i).waitWith .exiting (if i = .exit then [] else [va]))) ∧
  (∀ i ∈ [Instr.exit, .exitSucc a], leaves i → others → left i) ∧
  (last .exit → ∀ k, s.tasks.get? s.blk.task = some k →
    (k.ended + 1 < k.record.blocks → ∃ t, exec .exit s = .next t ∧ t.th.life = .exited ∧ t.blk.resident = false ∧ t.blk.waves = [] ∧
      t.tasks.get? s.blk.task = some (closed k)) ∧
    (k.ended + 1 = k.record.blocks → k.gangKey = none → ∃ t x, exec .exit s = .next t ∧ t.th.life = .exited ∧ t.blk.resident = false ∧
      t.tasks.get? s.blk.task = some x ∧ x.isOver = true ∧ x.slot = none ∧
      x.word = some (2 ^ 63 + (closed k).status % 2 ^ 8 * 2 ^ 32 + (closed k).counted % 2 ^ 32))) ∧
  (last (.exitSucc a) → readable (.exitSucc a) → s2.engineBusy s.th.blk = false → s2.succRecord va b tb = none → fld b 48 8 % 8 = 0 →
    exec (.exitSucc a) s = .next ((s2.leave u .exited).writeDone s2.th.ctx (fld b 48 8) (2 ^ 63 + 4 * 2 ^ 32)) ∧
    (s2.leave u .exited).th.life = .exited ∧ (s2.leave u .exited).blk.resident = false) ∧
  (last (.exitSucc a) → readable (.exitSucc a) → u < s2.nextUid → s2.succRecord va b tb = some r → ∃ t x k,
    exec (.exitSucc a) s = .next t ∧ t.th.life = .exited ∧ t.blocks.get? (s2.nextUid + 1) = some x ∧ x.core = s2.blk.core ∧ x.slot = s2.blk.slot ∧
    x.started = true ∧ x.succ = true ∧ (∀ p, p < r.lsBytes → x.ls.read p = s2.blk.ls.read p) ∧
    t.tasks.get? s2.nextUid = some k ∧ k.record = r ∧ k.placed = 1)

/-- R44, R54, R55, R260, R261, R264, R265, R392: the stage queues keep first-in, first-out order; a head slot under an uncorrectable error
is consumed precisely; quotas; starting lists and joining them. Where a slot stands in the window, and what a slot lost to an error does,
are the model's choices (logs 80, 15). -/
def Obligations.QueuesAndLists : Prop := ∀ (d a b : Reg) (s : State) (x : Queue), s.unitsOk →
  let q := (s.sget a).toNat % 16
  let o := (s.sget b).toNat
  let slot := 32 * 2 ^ x.code
  let flat (y : Queue) : List (List Byte) := y.segs.flatMap (·.2)
  let quiet : Bool := s.th.out.all fun y => y.ctr = .mx
  let fresh : Prop := ∀ w, s.th.wait = some w → w.args = [] ∧ w.fail = none
  let place (n : Nat) : Nat := x.base + 64 + slot * (n % max x.depth 1)
  let based : Bool := (x.segs.find? fun y => y.2 ≠ []).any (·.1)
  let lost : Prop := x.head ∈ x.bad ∨ (based = true ∧ s.blk.lsBad (place x.head) slot = true)
  let e (i : Instr) : State := s.entered (encode i)
  let traps (i : Instr) (cause : Nat) (addr info : Word) : Prop := exec i s = .next ((e i).takePrecise ⟨cause, false, s.th.pc, addr, info, none⟩)
  let regs (t : State) : Prop := (∀ r, t.sget r = s.sget r) ∧ t.th.vreg = s.th.vreg
  let pp := [Instr.qpush a b, .qpop a b]
  (∀ i ∈ pp ++ [Instr.qstat d a], s.passes (encode i) → fresh → s.blk.queues.get? q = none → traps i 0x0B 0 3) ∧
  (s.blk.queues.get? q = some x →
    (∀ i ∈ pp, s.passes (encode i) → fresh → (o % 32 ≠ 0 → traps i 3 (s.sget b) 0) ∧ (o % 32 = 0 → s.blk.usable < o + slot → traps i 0x0B (s.sget b) 0)) ∧
    (s.passes (encode (.qpush a b)) → fresh → o % 32 = 0 → o + slot ≤ s.blk.usable →
      (x.full = false → quiet = true → s.err.plant = none → s.blk.lsBad o slot = false → ∃ t y, exec (.qpush a b) s = .next t ∧ t.th.pc = s.th.pc + 4 ∧ regs t ∧
        t.blk = { s.blk with queues := t.blk.queues, lsPoison := t.blk.lsPoison } ∧ (∀ p ∈ t.blk.lsPoison, p ∈ s.blk.lsPoison) ∧
        (∀ p ∈ s.blk.lsPoison, p ∈ t.blk.lsPoison ∨ (place (x.head + x.count) ≤ 4 * p.1 ∧ 4 * p.1 < place (x.head + x.count) + slot)) ∧
        t.blk.queues.get? q = some y ∧ flat y = flat x ++ [s.blk.ls.readBytes o slot] ∧
        (∀ j, j ≠ q → t.blk.queues.get? j = s.blk.queues.get? j)) ∧
      (x.full = true → s.th.wait = none →
        ((∀ v ∈ s.blk.waves, (s.thread v).role = x.consumer → (s.thread v).gone = true) → traps (.qpush a b) 9 0 (BitVec.ofNat 64 (3 + q * 2 ^ 16))) ∧
        ((∃ v ∈ s.blk.waves, (s.thread v).role = x.consumer ∧ (s.thread v).gone = false) →
          exec (.qpush a b) s = .next ((e (.qpush a b)).waitWith (.queuePush q) [s.sget a, s.sget b])))) ∧
    (s.passes (encode (.qpop a b)) → fresh → o % 32 = 0 → o + slot ≤ s.blk.usable →
      (∀ v y dr, x.pop = some (v, y, dr) → quiet = true → s.err.plant = none → lost → traps (.qpop a b) 0x11 (s.sget b) 0) ∧
      (∀ v y dr, x.pop = some (v, y, dr) → ¬lost → quiet = true → s.err.plant = none → v.length = slot → ∃ t, exec (.qpop a b) s = .next t ∧ t.th.pc = s.th.pc + 4 ∧
        regs t ∧ flat x = v :: flat y ∧ t.blk.queues.get? q = some y ∧ t.blk.ls.readBytes o slot = v ∧
        (∀ p, p < o ∨ o + slot ≤ p → t.blk.ls.read p = s.blk.ls.read p) ∧ (∀ j, j ≠ q → t.blk.queues.get? j = s.blk.queues.get? j)) ∧
      (x.pop = none → s.th.wait = none →
        (x.count = 0 → (∀ v ∈ s.blk.waves, (s.thread v).role = x.producer → (s.thread v).gone = true) →
          traps (.qpop a b) 9 0 (BitVec.ofNat 64 (3 + q * 2 ^ 16))) ∧
        ((∃ v ∈ s.blk.waves, (s.thread v).role = x.producer ∧ (s.thread v).gone = false) →
          exec (.qpop a b) s = .next ((e (.qpop a b)).waitWith (.queuePop q) [s.sget a, s.sget b])))) ∧
    (s.passes (encode (.qstat d a)) → exec (.qstat d a) s = .next ((e (.qstat d a)).sset d (BitVec.ofNat 64
      ((x.segs.countP fun y => !y.1) % 2 ^ 16 * 2 ^ 48 + x.depth * 2 ^ 40 + x.code * 2 ^ 32 + (flat x).length))).adv)) ∧
  (s.passes (encode (.qset d a b)) →
    let role := (s.sget a).toNat % 4
    let quota := (s.sget b).toNat % 2 ^ 10
    let mine := s.blk.waves.filter fun v => (s.thread v).role = role
    let total := ((s.blk.waves.filter fun v => (s.thread v).role ≠ role).map fun v => (s.thread v).quota).sum + mine.length * quota
    let status (v : Nat) : Prop := exec (.qset d a b) s = .next ((e (.qset d a b)).sset d (BitVec.ofNat 64 v)).adv
    let bad := quota < 8 ∨ 512 < quota ∨ s.blk.roles.length ≤ role
    (s.th.role ≠ 0 → status 2) ∧ (s.th.role = 0 → bad → status 3) ∧ (s.th.role = 0 → ¬bad → s.blk.quotaTotal < total → status 1) ∧
    (s.th.role = 0 → ¬bad → total ≤ s.blk.quotaTotal → ∃ t, exec (.qset d a b) s = .next t ∧ t.th.pc = s.th.pc + 4 ∧ (d ≠ 0 → t.sget d = 0) ∧
      (∀ r, r ≠ d → t.sget r = s.sget r) ∧ t.blocks = s.blocks ∧
      (∀ v ∈ mine, (t.thread v).quota = quota ∧ (t.thread v).bound.length ≤ quota ∧ (t.thread v).fixq = (s.sget b).getLsbD 16))) ∧
  (let none64 : Word := 0xFFFFFFFF
   let f := Instr.fork a b
   let idle := (s.core s.th.core).latq = [] ∧ (s.core s.th.core).barrow = []
   let started (v : Word) (l : Option EList) : Prop := ∃ y, l = some y ∧ y.start = v.toNat ∧ y.next = v.toNat ∧ y.loop = none ∧ y.ended = false ∧ y.trap = none
   (s.passes (encode f) → fresh → s.sget a ≠ none64 → (s.sget a).toNat % 16 ≠ 0 → traps f 3 (s.sget a) 0) ∧
   (s.passes (encode f) → fresh → s.sget a = none64 ∨ (s.sget a).toNat % 16 = 0 → s.sget b = none64 ∨ o % 16 = 0 → s.th.latList = none → s.th.barList = none → idle →
     ∃ t, exec f s = .next t ∧ t.th.pc = s.th.pc + 4 ∧ regs t ∧ t = { s with th := t.th } ∧
       (if s.sget a = none64 then t.th.latList = none else started (s.sget a) t.th.latList) ∧
       (if s.sget b = none64 then t.th.barList = none else started (s.sget b) t.th.barList)) ∧
   (∀ p ∈ [(Instr.rendezL, true, false), (.rendezB, false, true), (.rendezLb, true, true)], s.passes (encode p.1) → idle →
     let ran (l : Option EList) : Prop := ∃ y, l = some y ∧ y.ended = false ∧ y.trap = none
     let ok (l : Option EList) : Prop := ∀ y, l = some y → y.ended = true ∧ y.trap = none
     ((p.2.1 = true ∧ ran s.th.latList) ∨ (p.2.2 = true ∧ ran s.th.barList) → exec p.1 s = .next ((e p.1).waitAt .engine)) ∧
     (ok s.th.latList → ok s.th.barList → ∃ t, exec p.1 s = .next t ∧ t.th.pc = s.th.pc + 4 ∧ regs t ∧ t = { s with th := t.th } ∧
       t.th.latList = (if p.2.1 then none else s.th.latList) ∧ t.th.barList = (if p.2.2 then none else s.th.barList)) ∧
     (∀ y c ad info, s.th.latList = some y → y.trap = some (c, ad, info) → p.2.1 = true → ok s.th.barList → ∃ t : State,
       exec p.1 s = .next (t.takePrecise ⟨c, false, s.th.pc, BitVec.ofNat 64 ad, BitVec.ofNat 64 info, none⟩) ∧ t.th.latList = none)))

/-! ### Control registers, traps and the system instructions -/

/-- R10, R11, R21, R42, R118, R122 to R124, R177, R194, R241, R268, R347, R369, R370, R376, R401, R402, R404, R405: csrr, csrw and the
register writes listed as events. -/
def Obligations.CsrResults : Prop := ∀ (d a : Reg) (n : BitVec 11) (s : State) (v : Word),
  let t := s.th
  let c := s.ctx t.ctx
  let x := s.sget a
  let one (p : Bool) : Nat := if p then 1 else 0
  let now : Nat := if t.frailor then s.now else ((s.now : Int) + s.skew.getD (if t.core < 512 then t.core / 128 else 0) 0).toNat
  let out (k : Ctr) : Nat := t.out.countP fun y => y.ctr = k ∧ (k = .mx ∨ y.inTrap = false)
  let rd (p : BitVec 11 × Nat) : Prop := s.passes (encode (.csrr d p.1)) → ∃ z, exec (.csrr d p.1) s = .next z ∧ z = { s with th := z.th } ∧
    z.th.pc = t.pc + 4 ∧ z.th.vreg = t.vreg ∧ (d ≠ 0 → z.sget d = BitVec.ofNat 64 p.2) ∧ (∀ r, r ≠ d → z.sget r = s.sget r) ∧
    z.th.fstat = t.fstat ∧ z.th.timeKept = (if p.1 = 0x010 then max now t.timeKept else t.timeKept)
  let wr (k : BitVec 11) (f : State → State) : Prop := s.passes (encode (.csrw a k)) → exec (.csrw a k) s = .next (f (s.entered (encode (.csrw a k)))).adv
  let user : List (BitVec 11 × Nat) := [(0x000, t.wib * 2 ^ 7 + t.wslot / 8 * 2 ^ 5 + t.wslot), (0x001, (s.block t.blk).idx), (0x003, t.ctx),
    (0x004, t.prio * 16 + one t.shadow * 8 + one t.succ * 4 + t.cls),
    (0x005, s.pkg * 2 ^ 10 + (if t.frailor then 2 ^ 9 + (t.core - 512) * 4 else t.core % 128 * 4 + t.core / 128 % 4)), (0x008, t.vbase),
    (0x009, t.fstat.toNat), (0x00A, t.frm.toNat), (0x00B, out .mx * 2 ^ 16 + out .st * 2 ^ 8 + out .ld), (0x00C, t.mstat.toNat), (0x00D, t.flogen.toNat),
    (0x010, max now t.timeKept), (0x011, (if t.frailor then s.svcCycles else s.cycles) + (s.core t.core).clk), (0x012, c.energy), (0x013, c.budget), (0x014, c.tdmask.toNat),
    (0x018, t.trapcause.toNat), (0x019, t.trappc.toNat), (0x01A, t.trapaddr.toNat), (0x01B, t.trapinfo.toNat), (0x01C, t.tvec.toNat),
    (0x020, one t.fixq * 2 ^ 10 + t.quota), (0x021, t.bound.length),
    (0x030, one t.tx.isOpen * 2 ^ 31 + t.tx.ncommit * 2 ^ 24 + t.tx.nabort * 2 ^ 17 + t.tx.lane * 2 ^ 10 + t.tx.reason * 2 ^ 4 + one t.tx.mixed * 2 ^ 3),
    (0x031, t.wtimeout.toNat)]
  let priv : List (BitVec 11 × Nat) := [(0x400, t.tepc.toNat), (0x410, c.ptroot), (0x4E0, s.err.status * 64 + one s.err.ue * 32 + s.err.target * 4),
    (0x4E1, s.err.addr), (0x4F0, s.unreach.toNat * 2 ^ 48 + s.reroute.toNat * 2 ^ 32 + s.replayed.toNat), (0x4F2, s.down.toNat),
    (0x4F8, one s.fxEn * 2 ^ 63 + s.fxBase * 2 ^ 38)]
  let userNo := [0x002, 0x006] ++ user.map (·.1)
  let privNo := 0x4E4 :: priv.map (·.1)
  let th (g : Thread → Thread) (y : State) : State := { y with th := g y.th }
  let die := v.toNat % 4
  let state (i : Nat) : Nat := s.dies.states.getD i 0
  let mask : BitVec 32 := BitVec.ofNat 32 (2 ^ (v.toNat % 32))
  let e : Errors := { s.err with ue := v.getLsbD 5, target := v.toNat / 4 % 8 }
  (∀ p ∈ user, rd p) ∧ (s.th.privileged = true → ∀ p ∈ priv, rd p) ∧
  (t.frailor = true ∨ t.core < 512 → rd (0x006, if t.frailor then 0 else t.core / 128)) ∧
  (∀ k i, s.tasks.get? (s.block t.blk).task = some k → k.slot = some i → rd (0x002, k.die * 2 ^ 8 + i)) ∧
  (s.dies.states.length = 4 → s.dies.short < 2 ^ 24 → t.privileged = true → rd (0x4E4, s.dies.short * 2 ^ 16 +
    (state 0 + state 1 * 4 + state 2 * 16 + state 3 * 64) * 2 ^ 8 + s.dies.result * 2 ^ 4 + s.dies.die)) ∧
  (t.partner = none → ∀ i ∈ [Instr.csrr d n, .csrw a n],
    let traps (k : Nat) : Prop := exec i s = .next (s.takePrecise ⟨k, false, t.pc, 0, (encode i).setWidth 64, none⟩)
    (n.toNat < 0x400 → n ∉ userNo → traps 1) ∧ (0x400 ≤ n.toNat → t.privileged = false → traps 2) ∧
    (0x400 ≤ n.toNat → t.privileged = true → n ∉ privNo → traps 1)) ∧
  (∀ k ∈ userNo, k ∉ [0x009, 0x00A, 0x00C, 0x00D, 0x01C, 0x031] → wr k id) ∧
  wr 0x009 (th fun t => { t with fstat := x.setWidth 5 }) ∧ wr 0x00A (th fun t => { t with frm := x.setWidth 3 }) ∧
  wr 0x00C (th fun t => { t with mstat := t.mstat &&& ~~~(x.setWidth 3) }) ∧ wr 0x00D (th fun t => { t with flogen := x.setWidth 7 }) ∧
  wr 0x01C (th fun t => { t with tvec := x &&& ~~~3#64 }) ∧ wr 0x031 (th fun t => { t with wtimeout := x.setWidth 40 }) ∧
  (t.privileged = true →
    wr 0x400 (th fun t => { t with tepc := x &&& ~~~3#64 }) ∧
    wr 0x410 (fun y => if t.frailor then { y with ctxs := s.ctxs.set t.ctx { c with ptroot := x.toNat / 2 ^ 11 % 2 ^ 41 * 2 ^ 11 } } else y) ∧
    wr 0x4E1 (fun y => { y with err := { s.err with addr := x.toNat % 2 ^ 52 } }) ∧ wr 0x4F0 id ∧ wr 0x4F2 (fun y => { y with down := x.setWidth 32 }) ∧
    wr 0x4F8 (fun y => { y with fxEn := x.getLsbD 63, fxBase := x.toNat / 2 ^ 38 % 2 ^ 14 }) ∧
    (t.frailor = false → wr 0x4E4 id) ∧
    (x = v → ∀ z, v.getLsbD 0 = true → exec (.errinjGo v) s = .next z → wr 0x4E0 fun _ => z) ∧
    (x = v → v.getLsbD 0 = false → wr 0x4E0 fun y => { y with err := e }) ∧
    (t.frailor = true → x = v → ∀ z,
      (v.getLsbD 2 = true → v.getLsbD 3 = false → exec (.diectlGo die) s = .next z → wr 0x4E4 fun _ => z) ∧
      (v.getLsbD 2 = false → v.getLsbD 3 = true → exec (.diectlCancel die) s = .next z → wr 0x4E4 fun _ => z) ∧
      (v.getLsbD 2 = false → v.getLsbD 3 = false → wr 0x4E4 fun y => { y with dies := { s.dies with die := die } }))) ∧
  (s.err.status = 1 → exec (.errinjGo v) s = .next { s with err := e }) ∧
  (s.err.status ≠ 1 → (e.target ∈ [1, 2, 3] → exec (.errinjGo v) s = .next { s with err := { e with status := 1, plant := some ⟨e.target, e.ue, e.addr⟩ } }) ∧
    (4 ≤ e.target ∨ (e.target = 0 ∧ s.lines.get? (s.err.addr / 256) = none) → exec (.errinjGo v) s = .next { s with err := { e with status := 3 } }) ∧
    (∀ l, e.target = 0 → s.lines.get? (s.err.addr / 256) = some l → exec (.errinjGo v) s = .next { s with
      err := { e with status := 1, plant := some ⟨0, e.ue, e.addr⟩ }, lines := s.lines.set (s.err.addr / 256) { l with ue := some e.ue } })) ∧
  (∃ z, exec (.diectlGo die) s = .next { s with dies := z } ∧ z.die = die ∧ z.result = s.dies.result ∧ z.short = s.dies.short ∧
    z.states = (if state die = 0 ∨ state die = 1 then s.dies.states.set die 1 else s.dies.states)) ∧
  (∃ z, exec (.diectlCancel die) s = .next { s with dies := z } ∧ z.die = die ∧ z.result = s.dies.result ∧ z.short = s.dies.short ∧
    z.states = (if state die = 1 then s.dies.states.set die 0 else s.dies.states)) ∧
  exec (.linkctlDownSet v.toNat) s = .next { s with down := s.down ||| mask } ∧
  exec (.linkctlDownClear v.toNat) s = .next { s with down := s.down &&& ~~~mask } ∧
  exec (.fstatWrite v) s = .next (th (fun t => { t with fstat := v.setWidth 5 }) s) ∧ exec (.frmWrite v) s = .next (th (fun t => { t with frm := v.setWidth 3 }) s) ∧
  exec (.mstatClear v) s = .next (th (fun t => { t with mstat := t.mstat &&& ~~~(v.setWidth 3) }) s)

/-- R118, R120, R175, R199, R237, R269, R386, R392: what an instruction word meets before its own effect, for a wave without a shadow:
the checks of the word and of the CSR number first, then a source register, an element it reads, or the mask of a masked form under an
uncorrectable error. -/
def Obligations.GateTraps : Prop := ∀ (i : Instr) (s : State), i.wf = true → isWord i → s.th.partner = none →
  let w := encode i
  let op := wOp w
  let f := wF w
  let t := s.th
  let traps (c : Nat) (info : Word) : Prop := exec i s = .next (s.takePrecise ⟨c, false, t.pc, 0, info, none⟩)
  let word : Word := w.setWidth 64
  let within (l : List (Nat × Nat)) (k : Nat) : Prop := ∃ p ∈ l, p.1 ≤ k ∧ k ≤ p.2
  let inTrap := within [(0x01, 0x2E), (0x30, 0x3E), (0x5C, 0x5D), (0x60, 0x63), (0x7D, 0x7D)] op ∨ (op = 0x69 ∧ f = 0) ∨ (op = 0x7C ∧ f = 5)
  let onFrailor := within [(0x01, 0x2E), (0x30, 0x3E), (0x5C, 0x5D), (0x60, 0x63), (0x65, 0x65), (0x68, 0x69), (0x7D, 0x7D)] op ∨ (op = 0x7C ∧ f ∈ [0, 2, 3, 4, 5])
  let privileged := t.frailor = true ∨ t.trapMode = true
  let isTxb := op = 0x64 ∧ f = 0
  let csrOk : Prop := op = 0x2D ∨ op = 0x2E → t.csrCause (w.toNat / 2 ^ 21) = none
  let high := ∃ r ∈ wordRegs w .s false, 32 ≤ r
  (t.frailor = true → ¬onFrailor → traps 1 word) ∧
  (t.frailor = false → t.trapMode = true → ¬inTrap → ¬isTxb → traps 1 word) ∧
  (t.frailor = false → t.trapMode = true → isTxb → ¬high → traps 0x19 0) ∧
  (t.trapMode = true → op ≠ 0x3E → high → (if t.frailor then onFrailor else inTrap) → traps 1 word) ∧
  (¬privileged → (op = 0x7D ∧ f ∈ [2, 3, 4, 5, 6]) ∨ (op = 0x7C ∧ f = 5) → traps 2 word) ∧
  (t.trapMode = false → op = 0x7D → f = 1 → traps 1 word) ∧
  (t.trapMode = false → (t.frailor = true → onFrailor) → (t.frailor = false → ¬((op = 0x7D ∧ f ∈ [2, 3, 4, 5, 6]) ∨ (op = 0x7C ∧ f = 5))) →
    ¬(op = 0x7D ∧ f = 1) → csrOk → op ≠ 0x3E → (∀ y, t.wait = some y → y.args = []) →
    (∀ r, r ∈ wordRegs w .s true ∨ (readsMask op f = true ∧ r ∈ [125, 126, 127]) → t.sPoison.has r = true → traps 0x11 0) ∧
    (∀ r ∈ wordRegs w .v true, ∀ j < 96, t.vPoison.has (96 * (t.vbase + r) + j) = true →
      (op = 0x4D → f = 2 → (s.sget (BitVec.ofNat 7 (w.toNat / 2 ^ 21 % 128))).toNat = j) → (op = 0x4E → s.active j = true) → traps 0x11 0)) ∧
  (t.frailor = false → t.trapMode = false → csrOk → (∀ r, t.sPoison.has r = false) → t.vPoison = [] →
    ¬((op = 0x7D ∧ f ∈ [1, 2, 3, 4, 5, 6]) ∨ (op = 0x7C ∧ f = 5)) → s.passes w) ∧
  (∀ x : W32, exec (.illegalInstruction x) s = .next (s.takePrecise ⟨1, false, t.pc, 0, x.setWidth 64, none⟩))

/-- R126, R267, R269, R375, R376, R378, R386, R387, R389, R392, R399: taking a trap, `trap`, `sret` and an asynchronous trap. -/
def Obligations.TrapEntryAndReturn : Prop := ∀ (a : Reg) (s : State) (u : Nat) (x : Trap), s.unitsOk →
  let t := s.thread u
  let aborted (r : Thread) : Prop := ∀ j, r.tx.lanes.get? j = (t.tx.lanes.get? j).map fun l =>
    if t.tx.isOpen = true ∧ l.aborted = 0 then { l with aborted := 4 } else l
  let entered (r : Thread) : Prop := r = { t with tx := r.tx, trapcause := r.trapcause, trappc := x.pc, trapaddr := x.addr, trapinfo := x.info
                                                  tepc := if x.cause = 0x17 then x.pc + 4 else x.pc
                                                  trapMode := true, treg := [], tPoison := [], tLd := 0, tSt := 0, trapBarrow := x.barrow, pc := t.tvec
                                                  frozenWait := if x.cause = 0x13 ∨ x.cause = 0x14 ∨ x.barrow.isSome = true then t.wait.map fun w => { w with fail := none } else none
                                                  wait := none, out := t.out.filter fun y => y.kind ≠ .record, locking := []
                                                  lastIssue := if t.wait = none then t.lastIssue else s.cycles } ∧
    r.trapcause.toNat = x.cause + (if x.deferred then 256 else 0) ∧ aborted r
  let swaps (z : State) : Prop := z = (if u = s.th.uid then { s with th := z.thread u } else { s with threads := s.threads.set u (z.thread u) })
  let held : State := s.txUnlock u
  let base : State := { held with watch := s.watch.filter fun e => e.1 ≠ u, woken := s.woken.filter (· ≠ u) }
  let enters (z : State) : Prop := z = (if u = s.th.uid then { base with th := z.thread u } else { base with threads := base.threads.set u (z.thread u) })
  let halting := x.cause = 0x11 ∨ x.cause = 0x12
  let noHandler := t.tvec = 0 ∨ t.trapMode = true
  let idle := s.th.out.all (fun y => (y.ctr ≠ .ld && y.ctr ≠ .st) || y.inTrap != s.th.trapMode)
  (t.locking = [] → held = s) ∧
  (x.cause < 256 → t.partner = none → (t.frailor = true ∨ ¬halting) → ¬noHandler → enters (s.takeTrap u x) ∧ entered ((s.takeTrap u x).thread u)) ∧
  (t.partner = none → t.frailor = true → noHandler → ∃ z, s.takeTrap u x = z.logPkg 0x19 (t.core - 512) 0xFFFF ∧ swaps z ∧
    z.thread u = { Thread.reset u with core := t.core }) ∧
  (t.partner = none → t.frailor = false → ¬halting → noHandler → s.takeTrap u x = s.terminate t.ctx x.cause false) ∧
  (t.partner = none → t.frailor = false → halting → s.takeTrap u x = s.haltWave u (if x.cause = 0x11 then 0x10 else 0x11) x.pc) ∧
  (∀ k pc, t.partner = none → (∃ v ∈ (s.block t.blk).waves, v ≠ u ∧ (s.thread v).gone = false) →
    let z := s.haltWave u k pc
    let r := z.thread u
    r = { t with out := t.out.filter (·.ctr = .mx), pending := [], async := [], latList := none, barList := none, trapMode := false, locking := []
                 life := .halted, wait := none, frozenWait := r.frozenWait } ∧
    (z.block t.blk).halts = (s.block t.blk).halts + 1 ∧ z.tasks = s.tasks ∧ z.tier = s.tier ∧ z.home = s.home ∧
    (∀ n < (s.block t.blk).lsBytes / 1024, ((z.block t.blk).bar n).status = if ((s.block t.blk).bar n).status = 0 then 1 else ((s.block t.blk).bar n).status) ∧
    (∀ v, v ≠ u → (z.thread v).life = (s.thread v).life ∧ (z.thread v).sreg = (s.thread v).sreg ∧ (z.thread v).pc = (s.thread v).pc)) ∧
  (s.passes (encode (.trap a)) → exec (.trap a) s = .next (s.takePrecise ⟨0x17, false, s.th.pc, 0, s.sget a, none⟩)) ∧
  (s.th.trapMode = true ∨ (∀ y ∈ s.th.async, y.cause ≠ 0x13) → s.takePrecise x = s.takeTrap s.th.uid x) ∧
  (∀ y, s.th.trapMode = false → s.th.async = [y] → y.cause = 0x13 → s.takePrecise x =
    ({ s with th := { s.th with async := [] } } : State).takeTrap s.th.uid ⟨0x13, true, s.th.pc, y.addr, y.info, y.barrow⟩) ∧
  (s.passes (encode .sret) → s.th.trapMode = true ∧
    (idle = false → exec .sret s = .next (s.waitAt .memory)) ∧
    (idle = true → (∀ p ∈ s.th.pending, p.inTrap = false ∧ p.due = false) → s.th.async = [] → s.th.partner = none → ∃ z, exec .sret s = .next z ∧
      z = { s with th := z.th, watch := z.watch, woken := z.woken } ∧ (∀ e, e.1 ≠ s.th.uid → (e ∈ z.watch ↔ e ∈ s.watch)) ∧
      (∀ v, v ≠ s.th.uid → (v ∈ z.woken ↔ v ∈ s.woken)) ∧
      ((∀ cc va c, z.th.wait.map (·.kind) ≠ some (.sleep cc va c)) → z.watch = s.watch ∧ z.woken = s.woken) ∧
      (∀ cc va c, z.th.wait.map (·.kind) = some (.sleep cc va c) → s.th.uid ∈ z.woken) ∧
      z.th = { s.th with trapMode := false, treg := [], tPoison := [], pc := s.th.tepc, trapBarrow := none, seq := s.th.seq + 1
                         icount := s.th.icount + 1, wait := z.th.wait, frozenWait := none } ∧
      z.th.wait = (if s.th.tepc = s.th.trappc then s.th.frozenWait else none).map fun w =>
        if w.result = none ∧ w.fail = none ∧ s.th.life = .running then { w with fail := s.waitFails s.blk w.kind } else w)) ∧
  (t.async = [] ∨ t.gone = true ∨ t.trapMode = true ∨ (∃ v, t.partner = some v ∧ (s.thread v).icount ≠ t.icount) →
    exec (.asynchronousTrapDelivery u) s = .next s) ∧
  (∀ y rest, t.async = y :: rest → t.gone = false → t.trapMode = false → (∀ v, t.partner = some v → (s.thread v).icount = t.icount) →
    ∃ z, exec (.asynchronousTrapDelivery u) s = .next (z.takeTrap u ⟨y.cause, true, t.pc, y.addr, y.info, y.barrow⟩) ∧ swaps z ∧
      z.thread u = { t with async := rest })

/-- R270 to R272, R298, R367, R371, R380, R381: pgres, mapu, tlbinv, lanerd and lanewr in trap mode or on a Frailor core, and the time limit
of a fault. After a successful mapu whose leaf has a place (`there`: the tables of the walk stand in this package's memory, outside the page,
the one that takes the leaf in a line of the LLC), a walk of the address ends at the leaf with the page's address and attributes, the
page's words read 0, and no held translation of it is left. Rests on logs 36, 81. -/
def Obligations.SystemInstructions : Prop := ∀ (d a b : Reg) (s : State),
  let t := s.th
  let x := s.sget a
  let y := s.sget b
  let c := s.ctx t.ctx
  let runs (i : Instr) : Prop := s.passes (encode i) ∧ ∀ w, t.wait = some w → w.args = []
  let goes (i : Instr) : Prop := exec i s = .next (s.entered (encode i)).adv
  let sets (i : Instr) (v : Word) : Prop := exec i s = .next ((s.entered (encode i)).sset d v).adv
  let th (r : Thread) : State := { s with th := r }
  let idx := x.toNat % 2048
  let space := x.toNat / 4096 % 4
  let code := t.trapinfo.toNat % 256
  let own := t.trapMode = true ∧ (t.trapcause.toNat % 256 = 4 ∨ (t.trapcause.toNat % 256 = 5 ∧ 11 ≤ code ∧ code ≤ 13))
  let act := x.toNat % 4
  let size := y.toNat % 4
  let sh := if size = 0 then 16 else if size = 1 then 21 else 30
  let bytes := 2 ^ sh
  let va := x.toNat
  let pages := bytes / 2 ^ 16
  let outside := va < c.poolVa ∨ c.poolVa + c.poolLen < va + bytes
  let known := ∃ l ∈ s.leaves t.ctx, l.va < va + bytes ∧ va < l.va + 2 ^ l.sh
  let free (p : Nat) : Prop := p % pages = 0 ∧ s.host.code = 0 ∧ 4 ≤ s.host.stage ∧ s.dies.states.getD (homeDie (p * 2 ^ 16)) 0 = 0 ∧ ∀ i < pages, p + i ∈ c.poolPages
  let ok := ¬(size = 3 ∨ va % bytes ≠ 0) ∧ ¬outside ∧ ¬known
  let first (q : Nat × Xlat) : Nat := q.1 % 2 ^ 40 * 2 ^ (q.2.bits - 16)
  let page := x.toNat % 2 ^ 56 / 2 ^ 16
  let stays (n : Nat) (q : Nat × Xlat) : Bool := !(decide (q.1 / 2 ^ 46 = t.ctx) && (decide (n = 0) ||
    (decide (page < first q + 2 ^ (q.2.bits - 16)) && decide (first q < page + n))))
  let ws := s.walkWords (va % 2 ^ 56) levels c.ptroot
  let there (q : Nat) : Prop := s.walk t.ctx va = .notPresent ∧ s.spaceOk (q * 2 ^ 16) bytes = true ∧
    (∀ w ∈ ws, 4 * w < q * 2 ^ 16 ∨ q * 2 ^ 16 + bytes ≤ 4 * w) ∧ ws.length = (if size = 0 then 5 else if size = 1 then 4 else 3) ∧
    ∀ w, ws.getLast? = some w → w % 2 = 0 ∧ (∃ l, s.lines.get? (w / 64) = some l) ∧ ∀ v ∈ [w, w + 1], ∀ o, s.home.get? v ≠ some (.registered o)
  (runs (.pgres a) →
    (x.toNat < 64 → ¬own → t.trapBarrow = none → exec (.pgres a) s = .next s.adv) ∧
    (x.toNat < 64 → act = 3 → exec (.pgres a) s = .next s.adv) ∧
    (x.toNat < 64 → own → t.trapBarrow = none →
      (act = 0 → exec (.pgres a) s = .next (th { t with tepc := t.trappc }).adv) ∧
      (act = 1 → exec (.pgres a) s = .next (th { t with tepc := t.trappc + 4 }).adv) ∧
      (act = 2 → t.frailor = false → exec (.pgres a) s = .next (s.haltWave t.uid 0x1A t.trappc))) ∧
    (∀ id k dst ad cause h, x.toNat < 64 → act < 2 → t.trapMode = true → t.trapBarrow = some id → (s.core t.core).barrow.find? (fun k => k.id = id) = some k →
      k.suspended = some (dst, ad, cause, h) → k.told = true → cause = 4 → ∃ z r, exec (.pgres a) s = .next z ∧ z.th = s.adv.th ∧
        (z.core t.core).barrow.find? (fun k => k.id = id) = some r ∧ r.suspended = none ∧ r.next = k.next ∧ r.sectors = k.sectors ∧
        (act = 0 → r.skip = k.skip ∧ r.staged = k.staged) ∧ (act = 1 → r.skip = (dst, ad / 2 ^ 16 * 2 ^ 16, 2 ^ 16) :: k.skip) ∧
        z.tier = s.tier ∧ z.home = s.home ∧ z.blocks = s.blocks) ∧
    (64 ≤ x.toNat → act = 3 ∨ (∀ r ∈ c.faults, r.addr ≠ x.toNat / 64 * 64) → exec (.pgres a) s = .next s.adv) ∧
    (∀ r, 64 ≤ x.toNat → c.faults.find? (fun r => r.addr = x.toNat / 64 * 64) = some r → r.barrow = none → r.uid ≠ t.uid →
      (s.threads.getD r.uid (Thread.reset r.uid)).uid = r.uid → (s.thread r.uid).gone = false → (s.thread r.uid).faultRec = some r.addr →
      let resumed (e : Option (List Nat × Nat)) : Prop := ∃ z, exec (.pgres a) s = .next z ∧
        z.thread r.uid = { s.thread r.uid with faultRec := none, wait := none, emulated := e, lastIssue := s.cycles } ∧ z.th.pc = t.pc + 4 ∧
        (∀ q, z.sget q = s.sget q) ∧ r.addr ∉ (z.ctx t.ctx).faults.map (·.addr) ∧ z.tier = s.tier ∧ z.home = s.home
      (act = 0 → resumed none) ∧
      (act = 1 → ∀ bs, s.faultRead t.ctx (r.addr + 48) 1 r = (s, .bytes bs) →
        (fld r.bytes 1 1 ∈ [3, 6] → resumed none) ∧ (fld r.bytes 1 1 ∉ [3, 6] → ∃ ls, resumed (some (ls, leNat bs)) ∧
          ∀ j, j ∈ ls ↔ if (fld r.bytes 2 2).testBit 1 then j < 96 ∧ (fld r.bytes (16 + 4 * (j / 32)) 4).testBit (j % 32) = true else j = 127)) ∧
      (act = 2 → exec (.pgres a) s = .next (({ s with ctxs := s.ctxs.set t.ctx { c with faults := c.faults.filter fun q => q.addr ≠ r.addr } } :
        State).haltWave r.uid 0x1A (s.thread r.uid).pc).adv))) ∧
  (runs (.mapu d a b) →
    (size = 3 ∨ va % bytes ≠ 0 → sets (.mapu d a b) 4) ∧
    (¬(size = 3 ∨ va % bytes ≠ 0) → outside → sets (.mapu d a b) 3) ∧
    (¬(size = 3 ∨ va % bytes ≠ 0) → ¬outside → known → sets (.mapu d a b) 2) ∧
    (ok → (∀ p ∈ c.poolPages, ¬free p) → sets (.mapu d a b) 1) ∧
    (ok → ∀ p ∈ c.poolPages, free p → ∃ z q, exec (.mapu d a b) s = .next z ∧ z.th.pc = t.pc + 4 ∧ (d ≠ 0 → z.sget d = 0) ∧
      (∀ r, r ≠ d → z.sget r = s.sget r) ∧ z.th.vreg = t.vreg ∧ z.blocks = s.blocks ∧ z.tasks = s.tasks ∧
      free q ∧ (∀ p, p ∈ c.poolPages → free p → q ≤ p) ∧
      (z.ctx t.ctx).poolPages = c.poolPages.filter (fun p => ¬(q ≤ p ∧ p < q + pages)) ∧
      (z.ctx t.ctx).tdmask.getLsbD (homeDie (q * 2 ^ 16)) = true ∧
      (there q → z.walk t.ctx va = .leaf ⟨q * 2 ^ 16, sh, y.toNat / 4 % 64, y.getLsbD 8, y.getLsbD 10, y.getLsbD 9⟩ ∧
        (∀ w, q * 2 ^ 14 ≤ w → w < q * 2 ^ 14 + bytes / 4 → z.homeVal w = 0) ∧
        (∀ k, (z.core k).tlb = (s.core k).tlb.filter (stays pages)) ∧ ∀ k, z.dieTlbOf k = (s.dieTlbOf k).filter (stays pages)))) ∧
  (runs (.tlbinv a b) → ∃ z, exec (.tlbinv a b) s = .next z ∧ z.th = s.adv.th ∧ z.ctxs = s.ctxs ∧ z.tier = s.tier ∧ z.home = s.home ∧
    (∀ k, (z.core k).tlb = (s.core k).tlb.filter (stays y.toNat)) ∧ ∀ k, z.dieTlbOf k = (s.dieTlbOf k).filter (stays y.toNat)) ∧
  (runs (.lanerd d a b) → (∀ r, t.sPoison.has r = false) → (∀ r, t.vPoison.has r = false) →
    (∃ z, exec (.lanerd d a b) s = .next z ∧ z = { s with th := z.th } ∧ z.th.pc = t.pc + 4 ∧ (∀ r, r ≠ d → z.sget r = s.sget r) ∧ z.th.vreg = t.vreg) ∧
    (space = 0 → sets (.lanerd d a b) (if idx < 128 ∧ idx ≠ 0 then t.sreg.getD idx 0 else 0)) ∧
    (space = 1 → sets (.lanerd d a b) (if idx < 512 ∧ y.toNat < 96 then (((t.vreg.getD idx zeroVReg).getD y.toNat 0).setWidth 64) else 0)) ∧
    (space = 2 → (∀ p ∈ [(0x003, t.ctx), (0x008, t.vbase), (0x009, t.fstat.toNat), (0x00A, t.frm.toNat), (0x00C, t.mstat.toNat), (0x00D, t.flogen.toNat),
          (0x018, t.trapcause.toNat), (0x019, t.trappc.toNat), (0x01A, t.trapaddr.toNat), (0x01B, t.trapinfo.toNat), (0x01C, t.tvec.toNat),
          (0x021, t.bound.length), (0x031, t.wtimeout.toNat)],
        idx = p.1 → sets (.lanerd d a b) (BitVec.ofNat 64 p.2)) ∧
      (idx = 0x010 → exec (.lanerd d a b) s = .next (({ s.entered (encode (.lanerd d a b)) with
        th := { (s.entered (encode (.lanerd d a b))).th with timeKept := s.timeOf t } } : State).sset d (BitVec.ofNat 64 (s.timeOf t))).adv) ∧
      (1024 ≤ idx ∨ idx = 0x007 → sets (.lanerd d a b) 0)) ∧
    (space = 3 → sets (.lanerd d a b) 0)) ∧
  (runs (.lanewr d a b) →
    let v := s.sget d
    let csr (f : Thread → Thread) : Prop := exec (.lanewr d a b) s = .next ({ s.entered (encode (.lanewr d a b)) with th := f (s.entered (encode (.lanewr d a b))).th } : State).adv
    (space = 3 ∨ (space = 0 ∧ (idx = 0 ∨ 128 ≤ idx)) ∨ (space = 1 ∧ (512 ≤ idx ∨ 96 ≤ y.toNat)) ∨
      (space = 2 ∧ idx ∉ [0x009, 0x00A, 0x00C, 0x00D, 0x01C, 0x031]) → goes (.lanewr d a b)) ∧
    (space = 0 → idx ≠ 0 → idx < 128 → ∃ z, exec (.lanewr d a b) s = .next z ∧ z = { s with th := z.th } ∧ z.th.pc = t.pc + 4 ∧ z.th.treg = t.treg ∧
      z.th.vreg = t.vreg ∧ ∀ r, z.th.sreg.getD r 0 = if r = idx then v else t.sreg.getD r 0) ∧
    (space = 1 → idx < 512 → y.toNat < 96 → ∃ z, exec (.lanewr d a b) s = .next z ∧ z = { s with th := z.th } ∧ z.th.pc = t.pc + 4 ∧
      z.th.sreg = t.sreg ∧ z.th.treg = t.treg ∧ z.th.vreg.has idx = true ∧
      (∀ r, r ≠ idx → z.th.vreg.get? r = t.vreg.get? r) ∧
      ∀ j < 96, (z.th.vreg.getD idx zeroVReg).getD j 0 = if j = y.toNat then v.setWidth 32 else (t.vreg.getD idx zeroVReg).getD j 0) ∧
    (space = 2 →
      (idx = 0x009 → csr fun t => { t with fstat := v.setWidth 5 }) ∧ (idx = 0x00A → csr fun t => { t with frm := v.setWidth 3 }) ∧
      (idx = 0x00C → csr fun t => { t with mstat := t.mstat &&& ~~~(v.setWidth 3) }) ∧ (idx = 0x00D → csr fun t => { t with flogen := v.setWidth 7 }) ∧
      (idx = 0x01C → csr fun t => { t with tvec := v &&& ~~~3#64 }) ∧ (idx = 0x031 → csr fun t => { t with wtimeout := v.setWidth 40 }))) ∧
  (∀ k ad, (∀ r ∈ (s.ctx k).faults, r.addr = ad → s.now < r.since + 2 ^ 24) → exec (.faultResolutionTimeout k ad) s = .next s) ∧
  (∀ k ad r, (s.ctx k).faults.find? (fun r => r.addr = ad) = some r → r.since + 2 ^ 24 ≤ s.now →
    exec (.faultResolutionTimeout k ad) s = .next (s.terminate k (fld r.bytes 0 1) false))
/-! ### The Lattice -/

/-- R71, R308, R309, R311, R313, R321, R324, R325, R327 to R332, R334 to R336: Lattice instructions at issue: what traps, what enters the
sequencer queue, and how tiles are made, freed and claimed. An accfree that must wait makes its handle stale from its issue (R328). One that reads local store as it issues waits for its wave's earlier
local-store accesses (log 46). -/
def Obligations.LatticeIssue : Prop := ∀ (d a b : Reg) (g : BitVec 2) (o : Bool) (s : State), s.err.plant = none →
  let x := (s.sget d).toNat
  let y := (s.sget a).toNat
  let z := (s.sget b).toNat
  let u := s.th.uid
  let fresh : Prop := ∀ w, s.th.wait = some w → w.args = []
  let q := (s.core s.th.core).latq
  let room := q.countP (fun c => c.order = 0) < 64 ∧ s.th.out.countP (fun c => c.ctr = .mx) < 64
  let live (h : Nat) (T : Tile) : Prop := s.blk.tiles.get? (h % 32) = some T ∧ T.used = true ∧ T.gen = h / 2 ^ 8 % 2 ^ 8 ∧ T.freeing = false
  let stale (h : Nat) : Prop := ∀ T, ¬live h T
  let e (i : Instr) : State := s.entered (encode i)
  let traps (i : Instr) (c : Nat) (addr info : Nat) : Prop :=
    exec i s = .next ((e i).takePrecise ⟨c, false, s.th.pc, BitVec.ofNat 64 addr, BitVec.ofNat 64 info, none⟩)
  let same (t : State) : Prop := t.th.pc = s.th.pc + 4 ∧ (∀ r, t.sget r = s.sget r) ∧ t.tier = s.tier ∧ t.home = s.home ∧ t.blk.ls = s.blk.ls ∧
    t.th.fstat = s.th.fstat
  let queued (i : Instr) (t : State) (op : LatOp) (cost granule : Nat) : Prop := exec i s = .next t ∧ same t ∧ t.blk.tiles = s.blk.tiles ∧
    t.th.out.countP (fun c => c.ctr = .mx) = s.th.out.countP (fun c => c.ctr = .mx) + 1 ∧
    ∃ c : LatCmd, (t.core s.th.core).latq = q ++ [c] ∧ c.thr = u ∧ c.blk = s.th.blk ∧ c.op = op ∧ c.cost = cost ∧ c.granule = granule ∧ c.order = 0 ∧
      c.token = some s.th.seq ∧ c.list = none ∧ c.pc = s.th.pc
  let queues (i : Instr) (op : LatOp) (cost granule : Nat) : Prop := ∃ t : State, queued i t op cost granule ∧ t.blk = s.blk ∧ t.th.vreg = s.th.vreg
  let tagged (t : State) (tag : Nat) (ws : List Nat) : Prop := (∀ w ∈ ws, t.blk.tags.get? (w / 4096) = some tag) ∧
    ∀ p, (∀ w ∈ ws, w / 4096 ≠ p) → t.blk.tags.get? p = s.blk.tags.get? p
  let holder (T : Tile) (band : Nat) : Option Nat := if T.claims.get? band = some s.th.wib then none else T.claims.get? band
  let tile (t : State) (h : Nat) (T : Tile) : Prop := t.blk.tiles.get? (h % 32) = some T ∧ (∀ j, j ≠ h % 32 → t.blk.tiles.get? j = s.blk.tiles.get? j) ∧
    t.cores = s.cores ∧ t.th.vreg = s.th.vreg
  let col := z % 2 ^ 8
  let band := z / 2 ^ 8 % 2 ^ 8
  let M := z % 2 ^ 8
  let fb := s.blk.lsSlice y 32
  let rec16 := s.blk.lsSlice z 16
  let L := 8 * 2 ^ fld rec16 14 1
  let w := fld rec16 13 1 % 16
  let g0 := fld rec16 12 1
  let word (p g : Nat) : Nat := fld rec16 0 4 + ((p * fld rec16 10 1 + fld rec16 11 1) * fld rec16 8 2 + g) * 2
  let laneWords := (List.range w).flatMap fun p => s.activeLanes.map fun j => word p (g0 + j / 16)
  let field (off : Nat) (ok : Prop) : Prop × Nat × Nat × Nat := (ok, 0x18, 0, 0x30 + off)
  let control (qnt tag : Bool) : List (Prop × Nat × Nat × Nat) := [(z % 16 = 0, 3, z, 0), (z + 16 ≤ s.blk.usable, 0x0B, z, 5),
    field 0 (fld rec16 0 4 % 2 = 0), field 8 (1 ≤ fld rec16 8 2 ∧ fld rec16 8 2 ≤ 256), field 10 (1 ≤ fld rec16 10 1),
    field 11 (fld rec16 11 1 < fld rec16 10 1), field 13 (2 ≤ w ∧ w ≤ 8 ∧ fld rec16 13 1 / 16 % 8 = 0),
    field 14 (qnt = true → 1 ≤ fld rec16 14 1 ∧ fld rec16 14 1 ≤ 4), field 15 (tag = true → fld rec16 15 1 = 0x10 ∨ fld rec16 15 1 = 0x11)]
  let laneTop := (laneWords.map (· + 2)).foldl max 0
  let lanes6 : List (Prop × Nat × Nat × Nat) := [(∀ j ∈ s.activeLanes, g0 + j / 16 < fld rec16 8 2, 0x0B, 0, 6), (laneTop ≤ s.blk.usable, 0x0B, laneTop - 1, 3)]
  let first (i : Instr) (l : List (Prop × Nat × Nat × Nat)) : Prop :=
    ∀ (n : Nat) (k : Prop × Nat × Nat × Nat), l[n]? = some k → (∀ m < n, ∀ j : Prop × Nat × Nat × Nat, l[m]? = some j → j.1) → ¬k.1 → traps i k.2.1 k.2.2.1 k.2.2.2
  let taken (i : Nat) : Bool := (s.blocksOn s.th.core).any fun k => k.tiles.any fun p => p.2.used && p.2.banks.contains i
  let held := ((s.blk.tiles.filter fun p => p.2.used).map fun p => p.2.banks.length).sum
  let slotFree (i : Nat) : Prop := ∀ T, s.blk.tiles.get? i = some T → T.used = false
  let done : Prop := ∀ v ∈ s.th.out, v.seq < s.th.seq → (∀ k sc, v.kind = .fence k sc → k ≠ 0 ∧ k ≠ 2) ∧
    ∀ p ∈ v.parts, p.phase.final = true ∨ ∀ n, p.place ≠ .loc n
  (∀ i ∈ [Instr.mma d a b g o, .mmag d a b g o, .qnt d a b, .plpack a b, .plunp d b], s.passes (encode i) →
    (∀ v ∈ s.th.out, v.seq < s.th.seq → v.kind.isLoad = true ∨ v.kind.isStore = true → ∀ p ∈ v.parts, p.phase.final = false → ∀ n, p.place = .loc n →
      exec i s = .next ((e i).waitAt .memory)) ∧
    (done → ¬room → exec i s = .next ((e i).waitAt .counter))) ∧
  (∀ i ∈ [Instr.acczero a, .accwr d a b], s.passes (encode i) → ¬room → exec i s = .next ((e i).waitAt .counter)) ∧
  (∀ p ∈ [(Instr.mma d a b g o, false), (.mmag d a b g o, true)], s.passes (encode p.1) → done → room →
    (stale x → traps p.1 0x0C 0 0) ∧
    (∀ T : Tile, live x T →
      let N := z / 2 ^ 8 % 2 ^ 8
      let KG := z / 2 ^ 16 % 2 ^ 9
      let RA := z / 2 ^ 32 % 2 ^ 8
      let RB := z / 2 ^ 40 % 2 ^ 8
      let GS := if z / 2 ^ 48 % 2 ^ 9 = 0 then KG else z / 2 ^ 48 % 2 ^ 9
      let base (h : Nat) : Nat := fld fb (4 * h) 4
      let scale (h : Nat) : Nat := fld fb (8 + 4 * h) 4
      let code (h : Nat) : Nat := fld fb (16 + h) 1
      let planes (h : Nat) : Nat := fld fb (18 + h) 1
      let len (h : Nat) : Nat := if fld fb (20 + h) 1 = 0 then 0 else 8 * 2 ^ fld fb (20 + h) 1
      let tag (h : Nat) : Nat := fld fb (22 + h) 1
      let mille (h : Nat) : Prop := code h = 0x20 ∨ code h = 0x21
      let scaled (h : Nat) : Prop := scale h ≠ 0xFFFFFFFF
      let R (h : Nat) : Nat := if h = 0 then (if RA = 0 then M else RA) else if RB = 0 then N else RB
      let wt (h : Nat) : Nat := if h = 0 then T.wa else T.wb
      let width (h : Nat) : Nat := if mille h then (if wt h = 0 then planes h else wt h)
        else if code h = 0x10 then 8 else if code h = 0x11 then 11 else if code h = 0x12 then 4 else 3
      let sz (h : Nat) : Nat := if code h = 0x10 ∨ code h = 0x11 then 2 else 1
      let gb := fld fb 24 4
      let entry (m : Nat) : Nat := if p.2 then s.blk.ls.readN (gb + 2 * m) 2 else m
      let elem (h i k : Nat) : Nat :=
        let rk := base h + (i * (16 * GS) + k) * sz h
        if tag h = 1 then base h + (k * R h + i) * sz h else if tag h = 0x20 then rk ^^^ (rk / 2 ^ 7 % 8 * 2 ^ 4) else rk
      let reads (h i : Nat) : List (Nat × Nat) := if mille h then
          (List.range (width h)).flatMap fun p => (List.range KG).map fun g => (base h + ((p * R h + i) * GS + g) * 2, 2)
        else (List.range (16 * KG)).map fun k => (elem h i k, sz h)
      let scales (h i : Nat) : List (Nat × Nat) := if scaled h then
          (List.range (16 * KG / len h)).map fun b => (scale h + i * (16 * GS / len h) + b, 1) else []
      let rowsA := ((List.range M).map entry).filter fun e => e ≠ 0xFFFF
      let rows (h : Nat) : List Nat := if h = 0 then rowsA.filter fun e => e < R 0 else List.range N
      let all := ((rows 0).flatMap fun i => reads 0 i ++ scales 0 i) ++ (rows 1).flatMap fun i => reads 1 i ++ scales 1 i
      let top := (all.map fun q => q.1 + q.2).foldl max 0
      let tagged (h i : Nat) : Prop := ∀ q ∈ reads h i, let k := s.blk.tags.getD (q.1 / 4096) 0xFF; k = tag h ∨ (k = 0xFF ∧ (tag h = 0 ∨ tag h = 1))
      let formed (h : Nat) : Prop := if mille h then
          (if scaled h then len h ≠ 0 ∧ 16 * KG % len h = 0 ∧ 16 * GS % len h = 0 else len h = 0) else ¬scaled h ∧ len h = 0
      let field (off : Nat) (ok : Prop) : Prop × Nat × Nat × Nat := (ok, 0x18, 0, off)
      let checks : List (Prop × Nat × Nat × Nat) := [(y % 32 = 0, 3, y, 0), (y + 32 ≤ s.blk.usable, 0x0B, y, 5),
        field 16 (code 0 ∈ [0x10, 0x11, 0x12, 0x13, 0x20, 0x21]), field 17 (code 1 ∈ [0x10, 0x11, 0x12, 0x13, 0x20, 0x21]),
        field 18 (if mille 0 then 2 ≤ planes 0 ∧ planes 0 ≤ 8 else planes 0 = 8), field 19 (if mille 1 then 2 ≤ planes 1 ∧ planes 1 ≤ 8 else planes 1 = 8),
        field 20 (fld fb 20 1 ≤ 4), field 21 (fld fb 21 1 ≤ 4), field 22 (if mille 0 then tag 0 = 0x10 else tag 0 ∈ [0, 1, 0x20]),
        field 23 (if mille 1 then tag 1 = 0x11 else tag 1 ∈ [0, 1, 0x20]), field 28 (fld fb 28 1 < 4), field 29 (fld fb 29 3 = 0),
        field 0x20 (z / 2 ^ 57 = 0 ∧ z / 2 ^ 25 % 2 ^ 7 = 0 ∧ 1 ≤ M ∧ M ≤ 128 ∧ 1 ≤ N ∧ N ≤ 64 ∧ 1 ≤ KG ∧ KG ≤ 256 ∧ KG ≤ GS ∧ GS ≤ 256 ∧
          (RB = 0 ∨ N ≤ RB) ∧ (RA = 0 ∨ p.2 = true ∨ M ≤ RA)),
        (M ≤ 32 * T.banks.length, 0x0C, 0, 1),
        field 0x22 ((mille 0 ↔ mille 1) ∧ formed 0 ∧ formed 1 ∧ (scaled 0 → scaled 1 → fld fb 20 1 = fld fb 21 1) ∧
          (T.int32 = true → mille 0 ∧ ¬scaled 0 ∧ ¬scaled 1)),
        field 0x21 ((mille 0 → T.wa ≤ planes 0) ∧ (mille 1 → T.wb ≤ planes 1)),
        (base 0 % 2 = 0 ∨ (¬mille 0 ∧ sz 0 = 1), 3, base 0, 0), (base 1 % 2 = 0 ∨ (¬mille 1 ∧ sz 1 = 1), 3, base 1, 0),
        (p.2 = true → gb % 2 = 0, 3, gb, 0), (p.2 = true → gb + 2 * M ≤ s.blk.usable, 0x0B, gb, 3), (top ≤ s.blk.usable, 0x0B, top - 1, 3),
        (∀ e ∈ rowsA, e < R 0, 0x0B, 0, 4), (∀ i ∈ rowsA, tagged 0 i, 0x0E, 0, 0), (∀ i < N, tagged 1 i, 0x0E, 0, 1)]
      first p.1 checks ∧
      ((∀ k ∈ checks, k.1) → queues p.1 (.mma x ((List.range M).map entry) fb z T.wa T.wb o) (KG * width 0 * width 1 + 8) g.toNat))) ∧
  (s.passes (encode (.acczero a)) → room → (stale y → traps (.acczero a) 0x0C 0 0) ∧ (∀ T : Tile, live y T → queues (.acczero a) (.zero y) 8 0)) ∧
  (s.passes (encode (.accwr d a b)) → room → (stale x → traps (.accwr d a b) 0x0C 0 0) ∧ (∀ T : Tile, live x T →
    (T.banks.length ≤ band → traps (.accwr d a b) 0x0C 0 2) ∧
    (∀ k, band < T.banks.length → holder T band = some k → traps (.accwr d a b) 0x0D 0 (band + k * 2 ^ 8)) ∧
    (band < T.banks.length → holder T band = none → queues (.accwr d a b) (.write x band col (s.vget a) s.activeLanes) 8 0))) ∧
  (s.passes (encode (.qnt d a b)) → done → room →
    let words := (List.range w).flatMap fun p => (List.range (L / 16)).map fun h => word p (g0 + h)
    let top := (words.map (· + 2)).foldl max 0
    let checks := control true true ++ [(y % 4 = 0, 3, y, 0), (g0 + L / 16 ≤ fld rec16 8 2, 0x0B, 0, 6), (y + 4 * L ≤ s.blk.usable, 0x0B, y + 4 * L - 1, 3),
      (top ≤ s.blk.usable, 0x0B, top - 1, 3), (fld rec16 4 4 = 0xFFFFFFFF ∨ fld rec16 4 4 < s.blk.usable, 0x0B, fld rec16 4 4, 3)]
    first (.qnt d a b) checks ∧
    ((∀ k ∈ checks, k.1) → ∃ t : State, queued (.qnt d a b) t (.quant y rec16 d) (3 * L / 16 + 8) 0 ∧ t.th.vreg = s.th.vreg ∧
      tagged t (fld rec16 15 1) words)) ∧
  (s.passes (encode (.plpack a b)) → done → room →
    let checks := control false true ++ lanes6
    first (.plpack a b) checks ∧
    ((∀ k ∈ checks, k.1) → ∃ t : State, queued (.plpack a b) t (.pack rec16 (s.vget a) s.activeLanes) (w + 8) 0 ∧
      t.th.vreg = s.th.vreg ∧ tagged t (fld rec16 15 1) laneWords)) ∧
  (s.passes (encode (.plunp d b)) → done → room →
    let checks := control false false ++ lanes6
    first (.plunp d b) checks ∧
    ((∀ k ∈ checks, k.1) → ∃ t : State, queued (.plunp d b) t (.unpack rec16 (s.varch d) s.activeLanes) (w + 8) 0 ∧
      t.blk = s.blk ∧ t.th.vreg.get? (s.varch d) = some (s.th.vreadA (s.varch d)) ∧ ∀ v, v ≠ s.varch d → t.th.vreg.get? v = s.th.vreg.get? v)) ∧
  (s.passes (encode (.twset d a b)) → (stale x → traps (.twset d a b) 0x0C 0 0) ∧ (∀ T : Tile, live x T →
    (8 < y % 16 ∨ 8 < z % 16 → traps (.twset d a b) 0x18 0 0x21) ∧
    (y % 16 ≤ 8 → z % 16 ≤ 8 → ∃ t : State, exec (.twset d a b) s = .next t ∧ same t ∧ tile t x { T with wa := y % 16, wb := z % 16 }))) ∧
  (s.passes (encode (.accalloc d a b)) →
    (y < 1 ∨ 4 < y ∨ 1 < z → traps (.accalloc d a b) 0x18 0 0x23) ∧
    (1 ≤ y → y ≤ 4 → z ≤ 1 → (∀ i < 32, ¬slotFree i) ∨ s.blk.accBanks < held + y ∨ (List.range 32).countP (fun i => !taken i) < y →
      exec (.accalloc d a b) s = .next ((e (.accalloc d a b)).sset d 0xFFFFFFFF).adv) ∧
    (∀ i < 32, 1 ≤ y → y ≤ 4 → z ≤ 1 → slotFree i → (∀ j < i, ¬slotFree j) → held + y ≤ s.blk.accBanks → y ≤ (List.range 32).countP (fun i => !taken i) →
      let gen := (s.blk.tiles.getD i Tile.reset).gen
      ∃ (t : State) (banks : List Nat), exec (.accalloc d a b) s = .next t ∧ t.th.pc = s.th.pc + 4 ∧ (d ≠ 0 → t.sget d = BitVec.ofNat 64 (gen * 2 ^ 8 + i)) ∧
        (∀ r, r ≠ d → t.sget r = s.sget r) ∧ t.blk.ls = s.blk.ls ∧ tile t i ⟨gen, true, decide (z = 1), banks, 0, 0, [], false, [], [], false⟩ ∧
        banks.length = y ∧ (∀ k ∈ banks, k < 32 ∧ taken k = false ∧ ∀ j < k, taken j = false → j ∈ banks))) ∧
  (s.passes (encode (.accfree a)) → fresh → (stale y → traps (.accfree a) 0x0C 0 0) ∧ (∀ T : Tile, live y T →
    ((∃ c ∈ q, c.blk = s.th.blk ∧ c.uid < s.nextUid ∧ c.op.slot = some (y % 32)) → ∃ (t : State) (w : Wait), exec (.accfree a) s = .next t ∧
      t.th.pc = s.th.pc ∧ (∀ r, t.sget r = s.sget r) ∧ t.th.wait = some w ∧ w.kind = .engine ∧ w.args = [s.sget a, BitVec.ofNat 64 s.nextUid] ∧
      t.blk.tiles.get? (y % 32) = some { T with freeing := true }) ∧
    (q = [] → (∀ v ∈ s.allThreads, v.out = []) → ∃ t : State, exec (.accfree a) s = .next t ∧ same t ∧ tile t y { Tile.reset with gen := (T.gen + 1) % 256 }))) ∧
  (s.passes (encode (.accfree a)) → ∀ (w : Wait) (v x : Word), s.th.wait = some w → w.kind = .engine → w.args = [v, x] →
    ((∃ c ∈ q, c.blk = s.th.blk ∧ c.uid < x.toNat ∧ c.op.slot = some (v.toNat % 32)) → exec (.accfree a) s = .next (e (.accfree a))) ∧
    (q = [] → (∀ v ∈ s.allThreads, v.out = []) → ∃ t : State, exec (.accfree a) s = .next t ∧ same t ∧
      tile t v.toNat { Tile.reset with gen := ((s.blk.tiles.getD (v.toNat % 32) Tile.reset).gen + 1) % 256 })) ∧
  (s.passes (encode (.accclaim a b)) → (stale y → traps (.accclaim a b) 0x0C 0 0) ∧ (∀ T : Tile, live y T →
    (T.banks.length ≤ col → traps (.accclaim a b) 0x0C 0 2) ∧
    (col < T.banks.length → (s.sget b).getLsbD 8 = true → T.claims.get? col ≠ some s.th.wib → exec (.accclaim a b) s = .next (e (.accclaim a b)).adv) ∧
    (col < T.banks.length → (s.sget b).getLsbD 8 = true → T.claims.get? col = some s.th.wib → ∃ (t : State) (T' : Tile), exec (.accclaim a b) s = .next t ∧ same t ∧ tile t y T' ∧
      T' = { T with claims := T'.claims } ∧ ∀ k, T'.claims.get? k = if k = col then none else T.claims.get? k) ∧
    (∀ k, col < T.banks.length → (s.sget b).getLsbD 8 = false → holder T col = some k → traps (.accclaim a b) 0x0D 0 (col + k * 2 ^ 8)) ∧
    (col < T.banks.length → (s.sget b).getLsbD 8 = false → holder T col = none → ∃ (t : State) (T' : Tile), exec (.accclaim a b) s = .next t ∧ same t ∧ tile t y T' ∧
      T' = { T with claims := T'.claims } ∧ ∀ k, T'.claims.get? k = if k = col then some s.th.wib else T.claims.get? k))) ∧
  (∀ p ∈ [(Instr.accrd d a b, false), (.accrdClr d a b, true)], s.passes (encode p.1) →
    (∀ (T : Tile) (k : Nat), live y T → band < T.banks.length → holder T band = some k → traps p.1 0x0D 0 (band + k * 2 ^ 8)) ∧
    ((∀ T : Tile, live y T → band < T.banks.length → holder T band = none) → s.th.count .ld < 63 → ∃ (t : State) (c : Access), exec p.1 s = .next t ∧ same t ∧ t.blk = s.blk ∧
      c ∈ t.th.out ∧ c.ctr = .ld ∧ c.kind = .accrd (s.varch d) y band col p.2 ∧ c.parts.map (·.lane) = s.activeLanes ∧ (∀ k ∈ c.parts, k.phase = .idle) ∧
      t.th.count .ld = s.th.count .ld + 1 ∧
      t.th.vreg.get? (s.varch d) = some (s.th.vreadA (s.varch d)) ∧ ∀ v, v ≠ s.varch d → t.th.vreg.get? v = s.th.vreg.get? v))

/-- R53, R139 to R149, R262, R263, R265, R303, R306, R314, R316, R317, R324, R329, R332, R335, R336: the sequencer's round, of one wave and of
several at different priorities, the commands as they are performed on error-free data, with what each leaves of local store, and the
records of a list. `int` is an operand's value as R140 and R141 let it enter a sum, `group` the term of a float K-group (R149); the exponent
and the integers of the Sieve are stated by what R145 asks of them. -/
def Obligations.LatticeWork : Prop := ∀ (s : State) (core id : Nat) (bad : Bool) (c : LatCmd) (T : Tile), s.unitsOk → s.err.plant = none →
  let q := (s.core core).latq
  let i := Instr.latticeCommandPerformed core id bad
  let blk := s.block c.blk
  let found := q.find? (fun y => y.uid = id) = some c ∧ s.latEnabled core c = true
  let after (t : State) : Prop := exec i s = .next t ∧ (t.core core).latq = q.filter (fun y => y.uid ≠ c.uid) ∧ t.tier = s.tier ∧ t.home = s.home
  let has (h : Nat) : Prop := blk.tiles.get? (h % 32) = some T
  let tile (t : State) (h : Nat) (T' : Tile) : Prop := (t.block c.blk).tiles.get? (h % 32) = some T' ∧ (t.block c.blk).ls = blk.ls ∧
    (∀ j, j ≠ h % 32 → (t.block c.blk).tiles.get? j = blk.tiles.get? j) ∧ T'.banks = T.banks ∧ T'.gen = T.gen ∧ T'.wa = T.wa ∧ T'.wb = T.wb ∧ T'.claims = T.claims
  let value (y : Tile) (r k : Nat) : W32 := if y.poison then (if y.int32 then 0x80000000 else 0x7FC00000) else y.elems.getD (64 * r + k) 0
  let clean := c.bad = false ∧ blk.lsPoison = []
  (¬(∃ y, q.find? (fun y => y.uid = id) = some y ∧ s.latEnabled core y = true) → exec i s = .next s) ∧
  (found → ∀ h : Nat, c.op = .zero h → has h → ∃ (t : State) (T' : Tile), after t ∧ tile t h T' ∧ ∀ r k, value T' r k = 0) ∧
  (found → ∀ (h band col : Nat) (v : VReg) (mask : List Nat), c.op = .write h band col v mask → has h → (∀ j ∈ mask, j < 96) → ∃ (t : State) (T' : Tile), after t ∧ tile t h T' ∧ T'.poison = T.poison ∧
    (T.poison = false → (∀ j ∈ mask, col + j / 32 < 64 → value T' (32 * band + j % 32) (col + j / 32) = v.getD j 0) ∧
      ∀ r k, k < 64 → (∀ j ∈ mask, (32 * band + j % 32, col + j / 32) ≠ (r, k)) → value T' r k = value T r k)) ∧
  (found → ∀ (h : Nat) (rows : List Nat) (fb : List Byte) (dims wa wb : Nat) (ow : Bool), c.op = .mma h rows fb dims wa wb ow → has h → (T.poison = false → clean ∧ T.bad = []) →
    dims / 2 ^ 8 % 2 ^ 8 ≤ 64 → c.at' = 0 → (T.int32 = true → fld fb 16 1 = 0x20 ∨ fld fb 16 1 = 0x21) → (fld fb 16 1 ∈ [0x20, 0x21] ↔ fld fb 17 1 ∈ [0x20, 0x21]) → c.list = none ∨ bad = false ∨ T.poison = true →
    let kg := dims / 2 ^ 16 % 2 ^ 9
    let N := dims / 2 ^ 8 % 2 ^ 8
    let GS := if dims / 2 ^ 48 % 2 ^ 9 = 0 then kg else dims / 2 ^ 48 % 2 ^ 9
    let R (x : Nat) : Nat := if dims / 2 ^ (32 + 8 * x) % 2 ^ 8 ≠ 0 then dims / 2 ^ (32 + 8 * x) % 2 ^ 8 else if x = 0 then dims % 2 ^ 8 else N
    let org (x : Nat) : Nat := fld fb (4 * x) 4
    let scale (x : Nat) : Nat := fld fb (8 + 4 * x) 4
    let code (x : Nat) : Nat := fld fb (16 + x) 1
    let planes (x : Nat) : Nat := fld fb (18 + x) 1
    let len (x : Nat) : Nat := if fld fb (20 + x) 1 = 0 then 0 else 8 * 2 ^ fld fb (20 + x) 1
    let scaled (x : Nat) : Bool := scale x != 0xFFFFFFFF
    let wt (x : Nat) : Nat := if (if x = 0 then wa else wb) = 0 then planes x else if x = 0 then wa else wb
    let plane (x i k p : Nat) : Bool := (blk.ls.readN (org x + ((p * R x + i) * GS + k / 16) * 2) 2).testBit (k % 16)
    let int (x i k : Nat) : Int :=
      let v := ((List.range (wt x)).map fun p => if plane x i k p then 2 ^ (wt x - 1 - p) else 0).sum
      let q : Int := if code x = 0x21 ∨ v < 2 ^ (wt x - 1) then v else v - 2 ^ wt x
      q * 2 ^ (planes x - wt x) + if (fld fb 28 1).testBit x = true ∧ wt x < planes x then 2 ^ (planes x - wt x - 1) else 0
    let float (x i k : Nat) : FpVal :=
      let sz := if code x = 0x10 ∨ code x = 0x11 then 2 else 1
      let rk := org x + (i * (16 * GS) + k) * sz
      let o := if fld fb (22 + x) 1 = 1 then org x + (k * R x + i) * sz else if fld fb (22 + x) 1 = 0x20 then rk ^^^ (rk / 2 ^ 7 % 8 * 2 ^ 4) else rk
      (if code x = 0x10 then bf16 else if code x = 0x11 then fp16 else if code x = 0x12 then e4m3 else e5m2).val (blk.ls.readN o sz)
    let exp (x i p : Nat) : Nat := if scaled x then blk.ls.readN (scale x + i * (16 * GS / len x) + p) 1 else 127
    let base (r k : Nat) : W32 := if ow then 0 else value T r k
    let L := if scaled 0 then len 0 else if scaled 1 then len 1 else 16
    let dot (m n p l : Nat) : Int := ((List.range l).map fun k => int 0 m (p + k) * int 1 n (p + k)).sum
    let plus (acc v : Nat) : Nat := (fp32.addV 0 false (fp32.val acc) (fp32.val v)).1
    let group (m n p : Nat) : Option Nat :=
      let ab := (List.range 16).map fun k => (float 0 m (16 * p + k), float 1 n (16 * p + k))
      let bad := ab.any fun y => match y with
        | (.nan _, _) => true
        | (_, .nan _) => true
        | (.inf _, .fin _ j _) => decide (j = 0)
        | (.fin _ j _, .inf _) => decide (j = 0)
        | _ => false
      let infs := ab.filterMap fun y => match y with
        | (.inf u, .inf v) => some (u != v)
        | (.inf u, .fin v _ _) => some (u != v)
        | (.fin u _ _, .inf v) => some (u != v)
        | _ => none
      let fins : List (Bool × Nat × Int) := ab.filterMap fun y => match y with
        | (.fin u j e, .fin v j' e') => if j * j' = 0 then none else some (u != v, j * j', e + e')
        | _ => none
      if bad || (infs.contains true && infs.contains false) then some 0x7FC00000
      else if infs.contains false then some 0x7F800000
      else if infs.contains true then some 0xFF800000
      else (fins.map fun (y : Bool × Nat × Int) => y.2.2 + (Nat.log2 y.2.1 : Int)).max?.map fun E =>
        let cut (m : Nat) (e : Int) : Nat := if E - 47 ≤ e then m * 2 ^ (e - (E - 47)).toNat else m / 2 ^ (E - 47 - e).toNat
        (fp32.roundInt 0 false (fins.map fun y => (if y.1 then -1 else 1) * (cut y.2.1 y.2.2 : Int)).sum (E - 47) false).1
    let out (r k : Nat) (m : Nat) : W32 :=
      if T.int32 then BitVec.ofInt 32 (dot m k 0 (16 * kg) + (base r k).toInt)
      else if code 0 = 0x20 ∨ code 0 = 0x21 then BitVec.ofNat 32 ((List.range (16 * kg / L)).foldl (fun acc p =>
        let ea := exp 0 m p
        let eb := exp 1 k p
        plus acc (if ea = 255 ∨ eb = 255 then 0x7FC00000 else (fp32.roundInt 0 false (dot m k (L * p) L) (ea + eb - 254 : Int) false).1)) (base r k).toNat)
      else BitVec.ofNat 32 ((List.range kg).foldl (fun acc p => match group m k p with
        | some v => plus acc v
        | none => acc) (base r k).toNat)
    ∃ (t : State) (T' : Tile), after t ∧ tile t h T' ∧ T'.poison = (T.poison || bad) ∧ (T.poison = true → T' = T) ∧
      (T.poison = false → bad = false → ∀ r k, k < 64 → value T' r k =
        if r < rows.length ∧ k < N then (if rows.getD r 0xFFFF = 0xFFFF then base r k else out r k (rows.getD r 0xFFFF)) else value T r k) ∧
      (T.poison = false → bad = true → (t.thread c.thr).mstat.getLsbD 2 = true ∧ ∀ (n : Nat) (y : Access), c.list = none → c.token = some n → (s.thread c.thr).access n .mx = some y →
        ∃ p ∈ (t.thread c.thr).pending, p.cause = 0x10 ∧ p.pc = c.pc)) ∧
  (found → ∀ (h : Nat) (rows : List Nat) (fb : List Byte) (dims wa wb : Nat) (ow : Bool) (l : EList), c.op = .mma h rows fb dims wa wb ow → has h →
    T.poison = false → clean → T.bad = [] → bad = true → c.list = some .lattice → (s.thread c.thr).latList = some l → (s.thread c.thr).core = core →
    ∃ t : State, exec i s = .next t ∧ (t.thread c.thr).latList = some { l with trap := some (0x10, c.record.1, c.record.2) } ∧
      ∀ y ∈ (t.core core).latq, y.thr = c.thr → y.list = c.list → y.uid < c.uid) ∧
  (found → ∀ (ctl : List Byte) (d : Nat) (v : VReg) (mask : List Nat) (src : Nat), clean → (∀ j ∈ mask, j < 96) →
    let w := fld ctl 13 1 % 16
    let word (p g : Nat) : Nat := planeAt (fld ctl 0 4) (fld ctl 10 1) (fld ctl 8 2) p (fld ctl 11 1) g
    let bit (k : State) (p g j : Nat) : Bool := (k.block c.blk).planeBit (word p g) j
    let g0 := fld ctl 12 1
    fld ctl 0 4 % 2 = 0 → 1 ≤ fld ctl 8 2 → fld ctl 11 1 < fld ctl 10 1 → 2 ≤ w → w ≤ 8 → (∀ j ∈ mask, g0 + j / 16 < fld ctl 8 2) → (s.block c.blk).ls.wf = true →
    (c.op = .pack ctl v mask → ∃ t : State, after t ∧ (t.block c.blk).tiles = blk.tiles ∧
      (∀ x, (∀ p < w, ∀ j ∈ mask, x / 2 * 2 ≠ word p (g0 + j / 16)) → (t.block c.blk).ls.read x = blk.ls.read x) ∧
      ∀ p < w, ∀ j < 96, g0 + j / 16 < fld ctl 8 2 → bit t p (g0 + j / 16) (j % 16) =
        if j ∈ mask then (v.getD j 0).getLsbD (w - 1 - p) else bit s p (g0 + j / 16) (j % 16)) ∧
    (c.op = .unpack ctl d mask → s.latOwns c (1000 + d) = true → (s.thread c.thr).partner = none → (s.thread c.thr).vreg.has d = true → ∃ t : State, after t ∧
      (t.block c.blk).ls = blk.ls ∧
      ∀ j < 96, (((t.thread c.thr).vreadA d).getD j 0) = if j ∈ mask then
        BitVec.ofInt 32 (planeInt ((fld ctl 13 1).testBit 7) w ((List.range w).map fun p => bit s p (g0 + j / 16) (j % 16)))
        else ((s.thread c.thr).vreadA d).getD j 0) ∧
    (∀ r : Reg, c.op = .quant src ctl r → fld ctl 14 1 ∈ [1, 2, 3, 4] → g0 + 8 * 2 ^ fld ctl 14 1 / 16 ≤ fld ctl 8 2 → fld ctl 4 4 = 0xFFFFFFFF →
      let L := 8 * 2 ^ fld ctl 14 1
      let val (k : Nat) : FpVal := fp32.val (blk.ls.readN (src + 4 * k) 4)
      let X (k : Nat) : Int := match val k with
        | .fin neg m e => (if neg then -1 else 1) * (m * 2 ^ (e + 149).toNat)
        | _ => 0
      let finite : Prop := ∀ k < L, ∃ n m e, val k = .fin n m e
      let unsigned := (fld ctl 13 1).testBit 7
      let top : Int := if unsigned then 2 ^ w - 1 else 2 ^ (w - 1) - 1
      let low : Int := if unsigned then 0 else -(2 ^ (w - 1))
      let rne (x : Int) (n : Nat) : Int := if 2 ^ n < 2 * (x % 2 ^ n) ∨ (2 * (x % 2 ^ n) = 2 ^ n ∧ x / 2 ^ n % 2 = 1) then x / 2 ^ n + 1 else x / 2 ^ n
      let Q (e k : Nat) : Int := max low (min top (rne (X k) (e + 22)))
      let err (e : Nat) : Int := ((List.range L).map fun k => (X k - Q e k * 2 ^ (e + 22)) ^ 2).sum
      let fits (e : Nat) : Prop := ∀ k < L, rne |X k| (e + 22) ≤ top
      ∃ (t : State) (e : Nat) (q : Nat → Int), after t ∧ (t.block c.blk).tiles = blk.tiles ∧
        (¬finite → e = 255 ∧ ∀ k, q k = 0) ∧ (finite → (∀ k < L, X k = 0) → e = 127 ∧ ∀ k, q k = 0) ∧
        (finite → (∃ k < L, X k ≠ 0) → ∃ e0 ≤ 254, (fits e0 ∨ e0 = 254) ∧ (∀ c < e0, ¬fits c) ∧ e ≤ 254 ∧ e0 ≤ e + 1 ∧ e ≤ e0 + 1 ∧ (∀ k < L, q k = Q e k) ∧
          ∀ c ≤ 254, e0 ≤ c + 1 → c ≤ e0 + 1 → err e < err c ∨ (err e = err c ∧ c ≤ e)) ∧
        (∀ k < L, ∀ p < w, bit t p (g0 + k / 16) (k % 16) = decide (q k / 2 ^ (w - 1 - p) % 2 ≠ 0)) ∧
        (∀ x, (∀ p < w, ∀ h < L / 16, x / 2 * 2 ≠ word p (g0 + h)) → (t.block c.blk).ls.read x = blk.ls.read x) ∧
        (finite → (t.thread c.thr).fstat = (s.thread c.thr).fstat) ∧ (¬finite → (t.thread c.thr).fstat = (s.thread c.thr).fstat ||| 1) ∧
        (s.latOwns c r.toNat = true → r ≠ 0 → (t.thread c.thr).sreg.getD r.toNat 0 = BitVec.ofNat 64 e))) ∧
  (∀ u : Nat, (∀ y ∈ q, y.thr = u) → (s.thread u).wslot < 32 → (∀ y ∈ q, y.order = 0) → s.nextUid ≠ 0 → ∃ t : State, exec (.latticeSequencerRound core) s = .next t ∧
    let deficit := (s.core core).deficit.getD u 0 + 256
    let cost (l : List LatCmd) : Nat := (l.map (·.cost)).sum
    ∃ n ≤ q.length, let q' := (t.core core).latq
      q'.length = q.length ∧ (∀ (k : Nat) (y : LatCmd), q[k]? = some y → ∃ y' : LatCmd, q'[k]? = some y' ∧ y' = { y with order := y'.order } ∧ (y'.order = if k < n then s.nextUid + k else 0)) ∧
      (q ≠ [] → cost (q.take n) ≤ deficit ∧ (n < q.length → deficit < cost (q.take (n + 1)) ∧ (t.core core).deficit.get? u = some (deficit - cost (q.take n))) ∧
        (n = q.length → (t.core core).deficit.get? u = some 0))) ∧
  (s.nextUid ≠ 0 → (∀ y ∈ q, y.order = 0 ∧ (s.thread y.thr).wslot < 32) →
    (∀ y ∈ q, ∀ z ∈ q, (s.thread y.thr).wslot = (s.thread z.thr).wslot → y.thr = z.thr) →
    let prio (u : Nat) : Nat := ((s.tasks.get? (s.block (s.thread u).blk).task).map (·.eff)).getD (s.thread u).prio
    let top (u : Nat) : Prop := ∀ y ∈ q, prio y.thr ≤ prio u
    let mine (u : Nat) : List LatCmd := q.filter fun y => y.thr = u
    let cost (l : List LatCmd) : Nat := (l.map (·.cost)).sum
    let deficit (u : Nat) : Nat := (s.core core).deficit.getD u 0 + 256
    ∃ (t : State) (n : Nat → Nat), exec (.latticeSequencerRound core) s = .next t ∧ let q' := (t.core core).latq
      q'.length = q.length ∧
      (∀ (k : Nat) (y : LatCmd), q[k]? = some y → ∃ y' : LatCmd, q'[k]? = some y' ∧ y' = { y with order := y'.order } ∧
        (y'.order ≠ 0 ↔ top y.thr ∧ (q.take k).countP (fun z => z.thr = y.thr) < n y.thr) ∧
        ∀ (m : Nat) (z z' : LatCmd), q[m]? = some z → q'[m]? = some z' → y'.order ≠ 0 → z'.order ≠ 0 →
          (s.thread y.thr).wslot < (s.thread z.thr).wslot ∨ (y.thr = z.thr ∧ k < m) → y'.order < z'.order) ∧
      ∀ y ∈ q, let u := y.thr
        (top u → n u ≤ (mine u).length ∧ cost ((mine u).take (n u)) ≤ deficit u ∧
          (n u < (mine u).length → deficit u < cost ((mine u).take (n u + 1)) ∧ (t.core core).deficit.get? u = some (deficit u - cost ((mine u).take (n u)))) ∧
          (n u = (mine u).length → (t.core core).deficit.get? u = some 0)) ∧
        (¬top u → (t.core core).deficit.get? u = (s.core core).deficit.get? u)) ∧
  (∀ u : Nat, ∀ w ∈ [ListId.lattice, .barrow], ∀ l : EList, (match w with
      | .lattice => (s.thread u).latList
      | _ => (s.thread u).barList) = some l → l.ended = false → l.trap = none → (s.thread u).life = .running →
    (∀ y ∈ (s.thread u).out, y.seq < l.seq → y.finished = true) →
    (w = .barrow → ∀ y ∈ (s.core (s.thread u).core).barrow, y.thr = u → y.fromList = true → y.suspended = none) →
    let B := s.block (s.thread u).blk
    let r := B.lsSlice l.next 16
    let word := fld r 0 4
    let kind := word / 2 ^ 7 % 8
    let ev := [Instr.listCommandRecord u w, .listEndRecord u w, .listLoopRecord u w, .listBaseaRecord u w, .listBasebRecord u w]
    let sets (j : Instr) (l' : EList) : Prop := ∃ t : State, exec j s = .next t ∧ (match w with
      | .lattice => (t.thread u).latList
      | _ => (t.thread u).barList) = some l' ∧ t.blocks = s.blocks ∧ t.cores = s.cores ∧ t.tier = s.tier ∧ t.home = s.home ∧
        (t.thread u).sreg = (s.thread u).sreg ∧ (t.thread u).pc = (s.thread u).pc
    let fails (cause detail : Nat) : Prop := sets (.listCommandRecord u w) { l with trap := some (cause, l.next, detail) } ∧
      ∀ j ∈ ev, j ≠ .listCommandRecord u w → exec j s = .next s
    let is (k : Nat) : Prop := word % 128 = 0 ∧ kind = k
    (B.usable < l.next + 16 → fails 0x0B 0) ∧
    (l.next + 16 ≤ B.usable → B.lsPoison = [] →
      (is 0 → word / 2 ^ 10 = 0 → (∀ j ∈ ev, j ≠ .listEndRecord u w → exec j s = .next s) ∧
        ((s.core (s.thread u).core).latq = [] → (s.core (s.thread u).core).barrow = [] → sets (.listEndRecord u w) { l with ended := true })) ∧
      (is 1 → l.loop = none → word / 2 ^ 10 % 64 ≠ 0 → (∀ j ∈ ev, j ≠ .listLoopRecord u w → exec j s = .next s) ∧
        sets (.listLoopRecord u w) (if word / 2 ^ 16 = 0 then { l with next := l.next + 16 * (word / 2 ^ 10 % 64 + 1) }
          else { l with next := l.next + 16, loop := some ⟨l.next + 16, word / 2 ^ 10 % 64, word / 2 ^ 16, 0, fld r 4 4, fld r 8 4, fld r 12 4⟩ })) ∧
      (is 2 → w = .barrow → l.loop = none → word / 2 ^ 10 = 0 → fld r 4 4 = 0 → sets (.listBaseaRecord u w) { l with next := l.next + 16, baseA := fld r 8 8 }) ∧
      (is 3 → w = .barrow → l.loop = none → word / 2 ^ 10 = 0 → fld r 4 4 = 0 → sets (.listBasebRecord u w) { l with next := l.next + 16, baseB := fld r 8 8 }) ∧
      (word % 128 = 0 → (3 < kind ∨ (kind = 1 ∧ (l.loop.isSome = true ∨ word / 2 ^ 10 % 64 = 0)) ∨
        (2 ≤ kind ∧ (l.loop.isSome = true ∨ w = .lattice ∨ word / 2 ^ 10 ≠ 0 ∨ fld r 4 4 ≠ 0)) ∨ (kind = 0 ∧ word / 2 ^ 10 ≠ 0)) → fails 0x18 word) ∧
      (word % 128 ≠ 0 → listAccepts w word = false → fails 0x18 word) ∧
      (w = .lattice → word = 0x72 → l.loop = none →
        (∀ f, B.setWidths (fld r 4 4) (fld r 8 4 % 16) (fld r 12 4 % 16) = .error f → fails f.1 word) ∧
        (∀ B' : Block, B.setWidths (fld r 4 4) (fld r 8 4 % 16) (fld r 12 4 % 16) = .ok B' → ∃ t : State, exec (.listCommandRecord u w) s = .next t ∧
          (t.thread u).latList = some { l with next := l.next + 16 } ∧ t.block (s.thread u).blk = B')) ∧
      (w = .lattice → word = 0x73 + 2 ^ 29 → l.loop = none → (s.core (s.thread u).core).queued < 64 → ∀ K : Tile, B.tile (fld r 4 4) = some K → K.freeing = false →
        ∃ (t : State) (y : LatCmd), exec (.listCommandRecord u w) s = .next t ∧ (t.thread u).latList = some { l with next := l.next + 16 } ∧
          (t.core (s.thread u).core).latq = (s.core (s.thread u).core).latq ++ [y] ∧ y.thr = u ∧ y.op = .zero (fld r 4 4) ∧ y.token = none ∧
          y.list = some .lattice ∧ y.record = (l.next, word))))

/-! ### Barrow -/

/-- R275, R278 to R281, R285 to R287, R289, R292, R294, R295, R298, R299: ctld, copy and copym, and the engine's events on local store and on
words no other agent holds. -/
def Obligations.BarrowResults : Prop := ∀ (d a b : Reg) (o : Bool) (g : BitVec 2) (s s1 : State) (bs : List Byte) (core id sec crc : Nat), s.unitsOk →
  s.err.plant = none →
  let x := (s.sget d).toNat
  let y := (s.sget a).toNat
  let z := (s.sget b).toNat
  let u := s.th.uid
  let fresh : Prop := ∀ w, s.th.wait = some w → w.args = []
  let e (i : Instr) : State := s.entered (encode i)
  let traps (i : Instr) (t : State) (c : Nat) (addr info : Nat) : Prop :=
    exec i s = .next (t.takePrecise ⟨c, false, s.th.pc, BitVec.ofNat 64 addr, BitVec.ofNat 64 info, none⟩)
  let regs (t : State) : Prop := (∀ r, t.sget r = s.sget r) ∧ t.th.vreg = s.th.vreg
  let aperture := y / 2 ^ 56 = 0 ∨ (y / 2 ^ 60 = 1 ∧ y / 2 ^ 20 % 2 ^ 40 = 0)
  let engine := (s.core s.th.core).barrow
  let readable := aperture ∧ y % 64 = 0 ∧ s.th.wait = none ∧ (e (.ctld a b)).recordWords y 8 = (s1, .bytes bs)
  let f1 (n : Nat) : Nat := fld bs n 1
  let ext (k : Nat) : Nat := fld bs (8 + 4 * k) 4
  let fields : List (Nat × Prop) := [(0, if f1 2 = 0 then f1 0 ∈ [1, 2, 4] else f1 0 = 1), (1, 1 ≤ f1 1 ∧ f1 1 ≤ 4 ∧ (f1 2 = 0 ∨ f1 1 = 2)), (2, f1 2 ≤ 2),
      (3, f1 3 ∈ [0x00, 0x01, 0x10, 0x11, 0x20, 0xFF] ∧ (f1 2 = 0 ∨ f1 3 = 0x0F + f1 2)),
      (4, if f1 2 = 0 then f1 4 = 0 else 2 ≤ f1 4 ∧ f1 4 ≤ 8), (5, fld bs 5 3 = 0)] ++
    (List.range 4).map (fun k => (8 + 4 * k, 1 ≤ ext k ∧ (k < f1 1 ∨ ext k = 1) ∧ (k = 0 → f1 2 ≠ 0 → ext 0 % 16 = 0 ∧ ext 0 ≤ 4096))) ++
    [(8, ext 0 * ext 1 * ext 2 * ext 3 ≤ 2 ^ 24)] ++ (List.range 4).map (fun k => (40 + 4 * k, f1 2 = 0 ∨ fld bs (40 + 4 * k) 4 = 0)) ++
    [(56, fld bs 56 4 ≤ ext 0), (60, fld bs 60 4 ≤ ext 1)]
  (s.passes (encode (.ctld a b)) →
    (fresh → ¬aperture → traps (.ctld a b) (e (.ctld a b)) 5 y (6 * 2 ^ 16 + 127 * 2 ^ 8 + 14)) ∧
    (fresh → aperture → y % 64 ≠ 0 → traps (.ctld a b) (e (.ctld a b)) 3 y 0) ∧
    (∀ (n : Nat) (k : Nat × Prop), readable → fields[n]? = some k → (∀ m < n, ∀ j : Nat × Prop, fields[m]? = some j → j.2) → ¬k.2 →
      traps (.ctld a b) s1.dropRecords 0x18 0 k.1) ∧
    (readable → (∀ k ∈ fields, k.2) → ∃ t : State, exec (.ctld a b) s = .next t ∧ t.th.pc = s1.th.pc + 4 ∧ (∀ r, t.sget r = s1.sget r) ∧
      t.blk.tmpls.get? (z % 64) = some (templateOf bs) ∧ (∀ n, n ≠ z % 64 → t.blk.tmpls.get? n = s1.blk.tmpls.get? n) ∧
      t.blk.ls = s1.blk.ls ∧ t.tier = s1.tier ∧ t.home = s1.home)) ∧
  (∀ p ∈ [(Instr.copy d a b o g, false), (.copym d a b o g, true)], s.passes (encode p.1) →
    (64 ≤ engine.length → exec p.1 s = .next ((e p.1).waitAt .counter)) ∧
    (engine.length < 64 →
      (s.blk.tmpls.get? (x % 64) = none → traps p.1 (e p.1) 0x18 0 0x40) ∧
      (∀ T : Template, s.blk.tmpls.get? (x % 64) = some T →
        let n := T.esize
        let owner := x / 2 ^ 32
        let source (code : Nat) : Nat := 4 * 2 ^ 16 + 127 * 2 ^ 8 + code
        let dest (code : Nat) : Nat := 5 * 2 ^ 16 + 127 * 2 ^ 8 + code
        let zero (v : Nat) : Prop := if v / 2 ^ 60 = 0 then v / 2 ^ 56 = 0 else if v / 2 ^ 60 = 1 then v % 2 ^ 60 / 2 ^ 20 = 0 else v % 2 ^ 60 / 2 ^ 28 = 0
        let inside (org v : Nat) : Prop := v / 2 ^ 60 = org / 2 ^ 60 ∧ zero v
        let last (k : Nat) : Int := ((if k = 0 then T.valid0 else if k = 1 then T.valid1 else T.ext.getD k 1 : Nat) : Int) - 1
        let least (st : List Int) : Int := ((List.range T.dims).map fun k => min 0 (last k * st.getD k 0)).sum
        let greatest (st : List Int) : Int := ((List.range T.dims).map fun k => max 0 (last k * st.getD k 0)).sum
        let bytes := T.live.flatMap (T.bytes z)
        let low (k : Nat) : Nat := if T.xform = 0 then k else k / 2 * 2
        let high (k : Nat) : Nat := if T.xform = 0 then k else k / 2 * 2 + 1
        let meets : Prop := y / 2 ^ 60 = 1 ∧ z / 2 ^ 60 = 1 ∧ (∃ m ∈ T.live, ∃ k ∈ bytes, T.src y m ≤ high k) ∧ (∃ m ∈ T.live, ∃ k ∈ bytes, low k < T.src y m + n)
        let checks : List (Prop × Nat × Nat × Nat) := [(x / 2 ^ 6 % 2 ^ 10 < s.blk.lsBytes / 1024, 0x0B, 0, 1), (y / 2 ^ 60 ≤ 2, 5, y, source 6),
            (z / 2 ^ 60 ≤ 2, 5, z, dest 6), (T.xform = 0 ∨ z / 2 ^ 60 = 1, 0x18, z, 6)] ++ if T.live = [] then [] else
          [(inside y (((y : Int) + least T.sstride) % 2 ^ 64).toNat ∧ inside y (((y : Int) + greatest T.sstride) % 2 ^ 64).toNat, 5, y, source 7),
            (if T.xform = 0 then inside z (((z : Int) + least T.dstride) % 2 ^ 64).toNat ∧ inside z (((z : Int) + greatest T.dstride) % 2 ^ 64).toNat
              else inside z z ∧ inside z (bytes.foldl max 0), 5, z, dest 7),
            (y % n = 0 ∧ ∀ k < T.dims, T.sstride.getD k 0 % n = 0, 3, y, 0),
            (if T.xform = 0 then z % n = 0 ∧ ∀ k < T.dims, T.dstride.getD k 0 % n = 0 else z % 2 = 0, 3, z, 0),
            (y / 2 ^ 60 = 1 → ∀ m ∈ T.live, T.src y m % 2 ^ 60 + n ≤ s.blk.usable, 0x0B, y, 3), (z / 2 ^ 60 = 1 → ∀ k ∈ bytes, k % 2 ^ 60 < s.blk.usable, 0x0B, z, 3),
            (p.2 = true → x / 2 ^ 16 % 2 ^ 16 * 32 < s.blk.usable, 0x0B, z, 3),
            (o = true → z / 2 ^ 60 = 0 → owner / 2 ^ 29 ∈ [0, 2] ∧ owner / 2 ^ 16 % 2 ^ 13 = s.pkg ∧ owner % 16 = 0, 5, z, dest 5),
            (meets → T.dims = 1 ∧ T.xform = 0, 0x0F, z, 0)]
        (∀ (n : Nat) (k : Prop × Nat × Nat × Nat), checks[n]? = some k → (∀ m < n, ∀ j : Prop × Nat × Nat × Nat, checks[m]? = some j → j.1) → ¬k.1 →
          traps p.1 (e p.1) k.2.1 k.2.2.1 k.2.2.2) ∧
        ((∀ k ∈ checks, k.1) → ∃ t : State, exec p.1 s = .next t ∧ t.th.pc = s.th.pc + 4 ∧ regs t ∧ t.blk.ls = s.blk.ls ∧ t.tier = s.tier ∧
        t.home = s.home ∧ t.th.out = s.th.out ∧
        (z / 2 ^ 60 = 1 → (∀ n ∈ T.live, ∀ k ∈ T.bytes z n, t.blk.tags.get? (k % 2 ^ 60 / 4096) = some T.tag) ∧
          ∀ q, (∀ n ∈ T.live, ∀ k ∈ T.bytes z n, k % 2 ^ 60 / 4096 ≠ q) → t.blk.tags.get? q = s.blk.tags.get? q) ∧
        (z / 2 ^ 60 ≠ 1 → t.blk = s.blk) ∧
        (T.live = [] → p.2 = false → t.cores = s.cores) ∧
        (T.sectorSet z ≠ [] ∨ p.2 = true → ∃ c : BarCmd, (t.core s.th.core).barrow = engine ++ [c] ∧ c.thr = u ∧ c.blk = s.th.blk ∧ c.tmpl = T ∧ c.src = y ∧ c.dst = z ∧
          c.bar = x / 2 ^ 6 % 2 ^ 10 ∧ c.sectors = (T.sectorSet z).map (fun q => (q, SectorPhase.waiting)) ∧ c.next = 0 ∧ c.staged = [] ∧ c.seq = s.th.seq ∧
          c.pc = s.th.pc ∧ c.own = (o && decide (z / 2 ^ 60 = 0)) ∧ (c.whole = true ↔ T.live ≠ [] ∧ meets) ∧ c.held = [] ∧ c.follow = (if p.2 then some (x / 2 ^ 16 % 2 ^ 16 * 32) else none) ∧ c.suspended = none))))) ∧
  (let q := (s.core core).barrow
   let find := q.find? fun y => y.id = id
   let ev := [Instr.sectorDelivery core id sec crc, .barrowTranslationFault core id, .followOnEnd core id, .regXfer core id sec, .regAck core id sec]
   (find = none → ∀ i ∈ ev, exec i s = .next s) ∧
   (∀ c, find = some c → (∀ y ∈ q, y.id = id → y = c) →
     let B := s.block c.blk
     let mine (t : State) : Option BarCmd := (t.core core).barrow.find? fun y => y.id = id
     let ph := (c.sectors.find? fun y => y.1 = sec).map (·.2)
     let quiet : Bool := (s.thread c.thr).out.all fun y => decide (c.seq ≤ y.seq) || y.ctr = .mx || y.kind = .record || y.finished
     let ready := c.suspended = none ∧ quiet = true
     let goes := quiet = true ∧ (c.suspended = none ∨ c.until sec ≤ c.next)
     let room := s.inFlight core < 512
     let bar (t : State) : Barrier := (t.block c.blk).bar c.bar
     let counts (t : State) : Prop := let n := (bar s).arrived + 1
       n < 2 ^ 24 → ((bar s).expected ≠ n → (bar t).arrived = n ∧ (bar t).phase = (bar s).phase) ∧
         ((bar s).expected = n → (bar t).arrived = 0 ∧ (bar t).phase = !(bar s).phase)
     let dropped (t : State) : Prop := mine t = none ∧ ∀ y ∈ q, y.id ≠ id → y ∈ (t.core core).barrow
     let others := ∃ y ∈ c.sectors, y.1 ≠ sec ∧ y.2 ≠ .delivered
     (¬goes ∨ ph = none ∨ ph = some .delivered ∨ ph = some .transferring ∨ (c.own = true ∧ ph = some .waiting ∧ crc < 2) →
       exec (.sectorDelivery core id sec crc) s = .next s) ∧
     (¬goes ∨ c.own = false ∨ ph ≠ some .waiting ∨ ¬room → exec (.regXfer core id sec) s = .next s) ∧
     (ph ≠ some .transferring → exec (.regAck core id sec) s = .next s) ∧
     (ready → ph = some .waiting → c.until sec ≤ c.next → 2 ≤ crc → (∀ y ∈ c.sectors, y.2 ≠ .transferring) → ∃ t : State, exec (.sectorDelivery core id sec crc) s = .next t ∧ dropped t ∧
       (bar t).status = (if (bar s).status = 0 then 1 else (bar s).status) ∧ (bar t).arrived = (bar s).arrived ∧ (t.block c.blk).ls = B.ls ∧ t.tier = s.tier ∧ t.home = s.home) ∧
     (ready → c.own = false → ph = some .waiting → c.tmpl.xform = 0 → crc < 2 → c.skip = [] → B.lsPoison = [] → B.ls.wf = true →
       (s.thread c.thr).frailor = false → (s.thread c.thr).blk = c.blk → c.staged = [] → c.ask = none → c.held = [] → c.until sec = c.next + 1 → c.tmpl.inRange c.next = true →
       let n := c.tmpl.esize
       let from' := c.tmpl.src c.src c.next
       let to' := c.tmpl.dst c.dst c.next
       let inWindow (v : Nat) : Prop := v / 2 ^ 20 = 2 ^ 40 ∧ v % n = 0 ∧ v % 2 ^ 20 + n ≤ B.usable
       n ∈ [1, 2, 4] → to' / 32 = sec → inWindow from' → inWindow to' → ∃ t : State, exec (.sectorDelivery core id sec crc) s = .next t ∧
         (∀ k, k < n → (t.block c.blk).ls.read (to' % 2 ^ 20 + k) = B.ls.read (from' % 2 ^ 20 + k)) ∧
         (∀ p, p < to' % 2 ^ 20 ∨ to' % 2 ^ 20 + n ≤ p → (t.block c.blk).ls.read p = B.ls.read p) ∧ counts t ∧ t.tier = s.tier ∧ t.home = s.home ∧
         (others → ∃ y, mine t = some y ∧ y.next = c.next + 1 ∧ y.staged = [] ∧ (y.sectors.find? fun k => k.1 = sec) = some (sec, .delivered)) ∧
         (¬others → c.follow = none → dropped t)) ∧
     (ready → c.own = false → ph = some .waiting → c.tmpl.xform = 0 → crc < 2 → c.staged = [] → c.until sec ≤ c.next → ∃ t,
       exec (.sectorDelivery core id sec crc) s = .next t ∧ counts t ∧ (t.block c.blk).ls = B.ls ∧ t.tier = s.tier ∧ t.home = s.home ∧
       (others → ∃ y, mine t = some y ∧ (y.sectors.find? fun k => k.1 = sec) = some (sec, .delivered)) ∧
       (¬others → c.follow = none → dropped t) ∧
       (¬others → ∀ n, c.follow = some n → c.followList = none → ∃ y, mine t = some y ∧ ∃ l, y.followList = some l ∧ l.start = n ∧ l.next = n ∧ l.ended = false)) ∧
     (ready → room → c.own = true → ph = some .waiting → c.until sec ≤ c.next → c.staged = [] → ∃ t : State, exec (.regXfer core id sec) s = .next t ∧ t.tier = s.tier ∧ t.home = s.home ∧
       ∃ y, mine t = some y ∧ (y.sectors.find? fun k => k.1 = sec) = some (sec, .transferring)) ∧
     (∀ b0 b1 b2 b3 pa r, ready → room → c.own = true → ph = some .waiting → c.until sec ≤ c.next → c.owner.toNat / 2 ^ 29 = 2 → (s.thread (oCore c.owner)).ctx = c.ctx →
       let va := 32 * sec
       c.staged = [(va, b0), (va + 1, b1), (va + 2, b2), (va + 3, b3)] → c.tmpl.esize = 4 → c.tmpl.xform = 0 → c.held.get? va = some (.mem pa r) → pa % 4 = 0 →
       s.home.get? (pa / 4) = none → s.memPoison = [] → (s.thread c.thr).life ≠ .stopped → (s.lines.get? (pa / 256)).any (fun l => l.ue = none) = true →
       s.dies.states.getD (homeDie pa) 0 < 3 → s.unlocked s.pkg c.thr pa 4 = true → ∃ t : State, exec (.regXfer core id sec) s = .next t ∧ t.home.get? (pa / 4) = some (.registered (s.engineId core))) ∧
     (ph = some .transferring → (∀ y ∈ c.held, y.1 / 32 = sec → ∀ pa r, y.2 ≠ .mem pa r) →
       ∃ t : State, exec (.regAck core id sec) s = .next t ∧ t.home = s.home ∧ ∃ y, mine t = some y ∧ (y.sectors.find? fun k => k.1 = sec) = some (sec, .acked)) ∧
     (ph = some .transferring → c.owner.toNat / 2 ^ 29 = 2 → (s.thread (oCore c.owner)).ctx = c.ctx →
       ∃ t : State, exec (.regAck core id sec) s = .next t ∧ t.tier = s.tier ∧
         (∀ y ∈ c.held, y.1 / 32 = sec → ∀ pa r, y.2 = .mem pa r → s.home.get? (pa / 4) = some (.registered (s.engineId core)) →
           t.home.get? (pa / 4) = some (.registered c.owner)) ∧
         ∀ w, (∀ y ∈ c.held, y.1 / 32 = sec → ∀ pa r, y.2 = .mem pa r → pa / 4 ≠ w) → t.home.get? w = s.home.get? w) ∧
     (¬ready ∨ c.tmpl.total ≤ c.next → exec (.barrowTranslationFault core id) s = .next s) ∧
     (ready → c.next < c.tmpl.total → c.tmpl.inRange c.next = true → c.skip = [] → c.tmpl.xform = 0 → c.own = false → c.staged = [] →
       (∀ y ∈ c.sectors, c.next < c.until y.1 ∨ y.2 = .delivered) → (s.reach (s.thread c.thr) .barrowDst none (c.tmpl.dst c.dst c.next) c.tmpl.esize).2 = .error (.trap 4 0) → s.selfHandling (s.thread c.thr) = true →
       (s.thread c.thr).gone = false → (s.thread c.thr).shadow = false → c.ask = none → (∀ y ∈ c.sectors, y.2 ≠ .transferring ∧ y.2 ≠ .acked) →
       ∃ t y, exec (.barrowTranslationFault core id) s = .next t ∧ mine t = some y ∧ y.suspended = some (true, c.tmpl.dst c.dst c.next, 4, 0) ∧ y.told = true ∧ y.next = c.next ∧
         (∃ w ∈ (t.thread c.thr).async, w.cause = 4 ∧ w.addr = BitVec.ofNat 64 (c.tmpl.dst c.dst c.next) ∧ w.info = BitVec.ofNat 64 (5 * 2 ^ 16 + 127 * 2 ^ 8) ∧ w.barrow = some id) ∧
         t.tier = s.tier ∧ t.home = s.home) ∧
     (c.followList = none ∨ (∃ y ∈ (s.core core).latq, y.list = some (.follow id)) ∨ (∃ l, c.followList = some l ∧ l.trap = none ∧ l.ended = false) →
       exec (.followOnEnd core id) s = .next s) ∧
     (∀ l, c.followList = some l → (∀ y ∈ (s.core core).latq, y.list ≠ some (.follow id)) →
       (l.trap = none → l.ended = true → ∃ t : State, exec (.followOnEnd core id) s = .next t ∧ counts t ∧ dropped t ∧ (bar t).status = (bar s).status) ∧
       (∀ k ad inf, l.trap = some (k, ad, inf) → ∃ t : State, exec (.followOnEnd core id) s = .next t ∧ dropped t ∧ (bar t).status = (if (bar s).status = 0 then 1 else (bar s).status) ∧
         ∃ w ∈ (t.thread c.thr).pending, w.cause = k ∧ w.pc = c.pc ∧ w.addr = BitVec.ofNat 64 ad ∧ w.info = BitVec.ofNat 64 inf))))

/-! ### The Seedbank, reductions and the fabric -/

/-- R341, R348 to R350, R355: Seedbank vector operations at issue and at their bank, remote reductions, reduction windows and quiescence.
rwin completes at once where the context has no other package; otherwise they are told, and it waits until each has answered, the
partition's switches answering as one unit, which is the model's (log 41); so is TRAPINFO 0 where the rules list none (log 15). -/
def Obligations.SeedbankAndReductions : Prop := ∀ (a b : Reg) (s s1 : State) (bs : List Byte),
  let u := s.th.uid
  let e (i : Instr) : State := s.entered (encode i)
  let va := s.sget a
  let traps (i : Instr) (t : State) (c : Nat) (addr info : Word) : Prop := exec i s = .next (t.takePrecise ⟨c, false, s.th.pc, addr, info, none⟩)
  let regs (t : State) : Prop := t.th.pc = s.th.pc + 4 ∧ (∀ r, t.sget r = s.sget r) ∧ t.th.vreg = s.th.vreg ∧ t.blocks = s.blocks ∧ t.seed = s.seed ∧ t.tier = s.tier
  let enters (i : Instr) (t : State) (kind : AccKind) (ps : List Part) : Prop := exec i s = .next t ∧ regs t ∧
    t.th.out = s.th.out ++ [⟨s.th.seq, .st, s.th.issued .st, s.th.pc, kind, .llc, ps, [], false, s.th.trapMode, (s.ctx s.th.ctx).phase, s.countAt s.th.core⟩]
  let reducing := [(Instr.sbradd a b, AtomOp.add), (.sbrmin a b, .min), (.sbrmax a b, .max), (.sbrfadd a b, .fadd)]
  let updating := [(Instr.sbuadd a b, AtomOp.add), (.sbumin a b, .min), (.sbumax a b, .max), (.sbufadd a b, .fadd)]
  let all := reducing.map (fun p => (p.1, AccKind.sbRed p.2, fun (_ : Nat) => va)) ++
    updating.map (fun p => (p.1, AccKind.sbUpd p.2, fun (j : Nat) => va + BitVec.ofNat 64 (4 * j)))
  let good (v : Word) : Prop := v.toNat / 2 ^ 60 = 2 ∧ v.toNat % 2 ^ 60 < 2 ^ 28 ∧ v.toNat % 4 = 0 ∧ s.dies.states.getD (v.toNat % 2 ^ 60 / 2 ^ 26) 0 < 2
  let reductions := [(Instr.rredAdd a b, AtomOp.add, 4), (.rredMin a b, .min, 4), (.rredMax a b, .max, 4), (.rredMinu a b, .minu, 4), (.rredMaxu a b, .maxu, 4),
    (.rredFadd a b, .fadd, 4), (.rredAddD a b, .add, 8), (.rredOr a b, .or, 4)]
  let ph := va.getLsbD 0
  let c := s.ctx s.th.ctx
  let w := (s.sget b).toNat % 64
  let ctxNo := if s.th.frailor then (s.sget b).toNat / 2 ^ 16 % 2 ^ 16 else s.th.ctx
  (∀ p ∈ all, s.passes (encode p.1) →
    (s.activeLanes = [] → (s.th.count .st < 63 → ∃ t, enters p.1 t p.2.1 []) ∧
      (63 ≤ s.th.count .st → exec p.1 s = .next ((e p.1).waitAt .counter))) ∧
    (s.th.emulated = none → s.activeLanes ≠ [] →
      ((∀ j ∈ s.activeLanes, good (p.2.2 j)) →
        (s.th.count .st < 63 → ∃ t, enters p.1 t p.2.1
          (s.activeLanes.map fun j => (⟨j, (p.2.2 j).toNat, .seed ((p.2.2 j).toNat % 2 ^ 60), 4, 0, (s.elem b j).toNat, 0, .idle⟩ : Part))) ∧
        (63 ≤ s.th.count .st → exec p.1 s = .next ((e p.1).waitAt .counter))) ∧
      (∀ j ∈ s.activeLanes, (∀ k ∈ s.activeLanes, k < j → good (p.2.2 k)) → (p.2.2 j).toNat / 2 ^ 60 ≠ 2 →
        traps p.1 (e p.1) 5 (p.2.2 j) (BitVec.ofNat 64 (2 * 2 ^ 16 + j * 2 ^ 8 + 9))))) ∧
  (∀ (op : AtomOp) (o seq k : Nat) (pc : Word) (ls : List (Nat × Nat)) (since : Nat), op ∈ [AtomOp.add, .min, .max, .fadd] → s.th.partner = none → s.th.life ≠ .stopped →
    s.seedPoison = [] → s.seed.wf = true → o % 4 = 0 → o < 2 ^ 28 → ls.Pairwise (fun x y => x.1 < y.1) → (∀ x ∈ ls, x.1 < 96 ∧ x.2 < 2 ^ 32) →
    let part (q : Nat → Nat) (x : Nat × Nat) : Part := ⟨x.1, 2 ^ 61 + q x.1, .seed (q x.1), 4, 0, x.2, 0, .idle⟩
    let acc (kind : AccKind) (q : Nat → Nat) : Access := ⟨seq, .st, k, pc, kind, .llc, ls.map (part q), [], false, s.th.trapMode, ph, since⟩
    let i := Instr.storeCompletion u seq []
    (s.th.out = [acc (.sbRed op) fun _ => o] → ∃ t, exec i s = .next t ∧ t.th.out = [] ∧
      t.seed.readN o 4 = ls.foldl (fun v x => atomNew op 4 v x.2 0) (s.seed.readN o 4) ∧
      (∀ p, p < o ∨ o + 4 ≤ p → t.seed.read p = s.seed.read p) ∧ t.tier = s.tier ∧ t.home = s.home ∧ (∀ r, t.sget r = s.sget r)) ∧
    (s.th.out = [acc (.sbUpd op) fun j => o + 4 * j] → o + 4 * 96 ≤ 2 ^ 28 → ∃ t, exec i s = .next t ∧ t.th.out = [] ∧
      (∀ x ∈ ls, t.seed.readN (o + 4 * x.1) 4 = atomNew op 4 (s.seed.readN (o + 4 * x.1) 4) x.2 0) ∧
      (∀ p, (∀ x ∈ ls, p < o + 4 * x.1 ∨ o + 4 * x.1 + 4 ≤ p) → t.seed.read p = s.seed.read p) ∧ t.tier = s.tier ∧ t.home = s.home ∧ (∀ r, t.sget r = s.sget r))) ∧
  (∀ p ∈ reductions, s.passes (encode p.1) → s.emulates 127 = false →
    let n := p.2.2
    let x := (s.sget b).toNat % 2 ^ (8 * n)
    (va.toNat / 2 ^ 60 ∉ [0, 2] → traps p.1 (e p.1) 5 va (BitVec.ofNat 64 (2 * 2 ^ 16 + 127 * 2 ^ 8 + 10))) ∧
    (∀ pl, va.toNat / 2 ^ 60 ∈ [0, 2] → (e p.1).reach s.th .atomic none va.toNat n = (e p.1, .ok pl) →
      let part : Part := ⟨127, va.toNat, pl, n, 0, x, 0, .idle⟩
      (s.th.count .st < 63 → (e p.1).sendRoom [part] = true → ∃ t, enters p.1 t (.rred p.2.1 n) [part]) ∧
      (63 ≤ s.th.count .st ∨ (e p.1).sendRoom [part] = false → exec p.1 s = .next ((e p.1).waitAt .counter))) ∧
    (∀ c, va.toNat / 2 ^ 60 ∈ [0, 2] → c ≠ 4 → c ≠ 5 → (e p.1).reach s.th .atomic none va.toNat n = (e p.1, .error (.trap c 0)) → traps p.1 (e p.1) c va 0)) ∧
  (s.passes (encode (.cquiet a)) →
    (∀ k, s.th.wait = some k → let v := k.args.headD va
      k.kind = .quiet (v.getLsbD 0) → (k.result.isSome = true → exec (.cquiet a) s = .next (e (.cquiet a)).adv) ∧
      (k.result = none → exec (.cquiet a) s = (if (e (.cquiet a)).allQuiet s.th.ctx (v.getLsbD 0) = true then .next (e (.cquiet a)).adv
        else .next ((e (.cquiet a)).waitWith (.quiet (v.getLsbD 0)) [v])))) ∧
    (s.th.wait = none → ∃ t : State, t.th = (e (.cquiet a)).th ∧ t.flows = s.flows ∧ t.merges = s.merges ∧
      (c.phase = ph → (t.ctx s.th.ctx).phase = !ph ∧ (t.ctx s.th.ctx).quiet (!ph) = [] ∧ (t.ctx s.th.ctx).quiet ph = c.quiet ph) ∧
      (c.phase ≠ ph → t = e (.cquiet a)) ∧
      exec (.cquiet a) s = (if t.allQuiet s.th.ctx ph = true then .next t.adv else .next (t.waitWith (.quiet ph) [va]))) ∧
    (s.allQuiet s.th.ctx ph = true ↔ c.phase ≠ ph ∧
      (∀ f ∈ s.flows, ∀ x ∈ f.2.unacked, x.1.ctx = s.th.ctx → x.1.phase ≠ ph) ∧
      (∀ v ∈ s.allThreads, v.ctx = s.th.ctx → ∀ x ∈ v.out, x.ph = ph → x.unsent = false) ∧ (∀ k ∈ s.colls, k.ctx = s.th.ctx → k.ph ≠ ph) ∧
      ((∀ k ∈ c.packages, k = s.pkg) ∨ (2 ^ 13 ∈ c.quiet ph ∧ ∀ m ∈ s.merges, m.packet.ctx = s.th.ctx → m.packet.phase ≠ ph)) ∧
      (∀ k ∈ c.packages, k = s.pkg ∨ k ∈ c.quiet ph))) ∧
  (s.passes (encode (.rwin a b)) → s.th.wait = none →
    let remove := (s.sget b).getLsbD 8
    let known := s.th.frailor = true → (s.ctx ctxNo).live = true
    let at' := fld bs 0 8
    let len := fld bs 8 8
    let ok := at' % 256 = 0 ∧ len % 256 = 0 ∧ 256 ≤ len ∧ len ≤ 2 ^ 30 ∧ fld bs 16 2 ≤ 8191 ∧ fld bs 18 1 ≤ 7 ∧ fld bs 19 13 = 0
    let readable := remove = false ∧ va.toNat % 32 = 0 ∧ (e (.rwin a b)).recordWords va.toNat 4 = (s1, .bytes bs)
    let clear (t : State) := ∀ m ∈ t.merges, ¬(m.packet.ctx = ctxNo ∧ m.packet.window = some w)
    let alone := ∀ k ∈ (s.ctx ctxNo).packages, k = s.pkg
    let asked (t : State) (facts : Option (Nat × Nat × Nat × Nat)) : Prop := t.th.pc = s.th.pc ∧
      (∃ k, t.th.wait = some k ∧ k.kind = .window ∧ k.args = [va, s.sget b]) ∧
      (∀ k, (ctxNo, w, k) ∈ t.winAsks ↔ (k ∈ (s.ctx ctxNo).packages ∧ k ≠ s.pkg) ∨ k = 2 ^ 13) ∧
      (∀ k ∈ (s.ctx ctxNo).packages, k ≠ s.pkg → Msg.window k ctxNo w facts ∈ t.outbox)
    let ends (t : State) (facts : Option (Nat × Nat × Nat × Nat)) : Prop := (alone → t.th.pc = s.th.pc + 4) ∧ (¬alone → asked t facts)
    (¬known → traps (.rwin a b) (e (.rwin a b)) 5 0 2) ∧
    (known → remove = true → ∃ t, exec (.rwin a b) s = .next t ∧ ends t none ∧ (t.ctx ctxNo).windows.get? w = none ∧ clear t ∧
      ∀ n, n ≠ w → (t.ctx ctxNo).windows.get? n = (s.ctx ctxNo).windows.get? n) ∧
    (known → remove = false → va.toNat % 32 ≠ 0 → traps (.rwin a b) (e (.rwin a b)) 3 va 0) ∧
    (known → readable → at' % 256 ≠ 0 → traps (.rwin a b) s1.dropRecords 0x18 0 0x60) ∧
    (known → readable → at' % 256 = 0 → len % 256 ≠ 0 ∨ len < 256 ∨ 2 ^ 30 < len → traps (.rwin a b) s1.dropRecords 0x18 0 0x68) ∧
    (known → readable → ok → (s1.ctx ctxNo).overlaps w at' len = true → traps (.rwin a b) s1.dropRecords 0x18 0 0x41) ∧
    (known → readable → ok → (s1.ctx ctxNo).overlaps w at' len = false → ∃ t, exec (.rwin a b) s = .next t ∧ ends t (some (at', len, fld bs 16 2, fld bs 18 1)) ∧
      (t.ctx ctxNo).windows.get? w = some (at', len, fld bs 16 2, fld bs 18 1) ∧ clear t ∧
      ∀ n, n ≠ w → (t.ctx ctxNo).windows.get? n = (s1.ctx ctxNo).windows.get? n)) ∧
  (s.passes (encode (.rwin a b)) → ∀ k, s.th.wait = some k → k.kind = .window → k.args = [va, s.sget b] →
    ((∀ n, (ctxNo, w, n) ∉ s.winAsks) → exec (.rwin a b) s = .next (e (.rwin a b)).adv) ∧
    ((∃ n, (ctxNo, w, n) ∈ s.winAsks) → exec (.rwin a b) s = .next (e (.rwin a b)))) ∧
  (∀ (src g v : Nat) (facts : Option (Nat × Nat × Nat × Nat)), let t := s.windowCame src g v facts
    (t.ctx g).windows.get? v = facts ∧
    (∀ m ∈ t.merges, ¬(m.packet.ctx = g ∧ m.packet.window = some v)) ∧ Msg.windowHeld src g v ∈ t.outbox)

/-- R343 to R347, R351, R352, R354, R355, R369: the fabric's events: a packet is performed at most once and in sequence order, whatever
is lost, and a port held down takes none; acknowledgement, failure, new routes, an unreachable flow; merging in switches. A packet waits at
a home that is locked, lost or behind a link that is down (R105, R400, R411); how long a reply is kept, what an unreachable flow
leaves, and that the switches stand as one unit of the package's own state, are the model's (logs 23, 41, 56). -/
def Obligations.FabricEvents : Prop := ∀ (s : State) (p : Packet) (port dst elem seq sw n : Nat) (r : Reply) (route : List Nat) (seqs : List Nat) (ph : Bool),
  s.unitsOk →
  let rx := s.rx.getD p.src RxFlow.reset
  let old (q : Nat) : Prop := 2 ^ 31 ≤ (q + 2 ^ 32 - rx.next % 2 ^ 32) % 2 ^ 32 ∨ q ∈ rx.settled
  let got (t : State) : RxFlow := t.rx.getD p.src RxFlow.reset
  let fl (t : State) : Flow := t.flows.getD dst Flow.reset
  let f := fl s
  let steady (t : State) : Prop := (∀ r, t.sget r = s.sget r) ∧ t.th.pc = s.th.pc ∧ t.blocks = s.blocks ∧ t.seed = s.seed
  let pa := s.fxBase * 2 ^ 38 + p.off
  let reject := s.exportAddr p.off (reqSize p.req) = none
  let fetches := reqFetches p.req = true
  let mine (x : Packet × Nat) : Prop := x.1.seq = seq
  let has (t : State) (k : Nat) : Prop := t.failed.get? k = some s.now
  let overdue := f.routed = true ∧ ∃ x ∈ f.unacked, 8000 ≤ s.now - x.2
  let failedOnly (t : State) : Prop := t = { s with failed := t.failed, flows := t.flows } ∧ has t elem ∧
    ∀ k g, s.flows.get? k = some g → (g.routed = true → elem ∈ g.route →
        t.flows.get? k = some { g with routed := false, failedAt := s.now, route := [], sentBy := g.port }) ∧
      (¬(g.routed = true ∧ elem ∈ g.route) → t.flows.get? k = some g)
  let up (k : Nat) : Prop := s.failed.get? k = none ∧ (k < 32 → s.down.getLsbD k = false)
  let closed := port < 32 ∧ s.down.getLsbD port = true
  let here := p.dst = s.pkg ∧ ¬closed
  let again : State := if p.src = s.pkg then s else { s with outbox := s.outbox ++ [.ack p.src p.seq (rx.kept.getD p.seq .performed)] }
  let backed := f.routed = true ∧ ∀ k ∈ f.route, up k
  let plain := (∀ n l, p.req ≠ .lock n l) ∧ ∀ n l, p.req ≠ .commit n l
  let hush (m : Merge) : Prop := ∀ k ∈ (s.ctx m.packet.ctx).packages, (k = s.pkg ∧ s.pkgQuiet m.packet.ctx m.packet.phase = true) ∨
    (k ≠ s.pkg ∧ k ∈ (s.ctx m.packet.ctx).quiet m.packet.phase)
  let due (m : Merge) (full : Bool) : Prop := if full then 16 ≤ m.packet.cover.length else 2000 ≤ s.now - m.since ∨ hush m
  (p.dst ≠ s.pkg ∨ closed → exec (.packetDelivery ⟨port, p⟩) s = .next s ∧ exec (.mergedPacketReceipt ⟨port, p⟩) s = .next s) ∧
  (here → p.resync = false → old p.seq → exec (.packetDelivery ⟨port, p⟩) s = .next again) ∧
  (plain → (s.packetWaits p = true ↔ ∃ a, s.exportAddr p.off (reqSize p.req) = some a ∧ match placeOf a 0 with
    | .mem a _ => 3 ≤ s.dies.states.getD (homeDie a) 0 ∨ ∃ x ∈ s.locks, a / 4 ≤ x.2.2 ∧ x.2.2 ≤ (a + reqSize p.req - 1) / 4 ∧ ¬(x.1 = p.src ∧ x.2.1 = 2 ^ 40)
    | .host i _ => s.hostUp i = false
    | _ => False)) ∧
  (here → p.resync = false → ¬old p.seq → s.packetWaits p = true → exec (.packetDelivery ⟨port, p⟩) s = .next s) ∧
  (here → p.resync = false → ¬old p.seq → s.packetWaits p = false → p.seq ≠ rx.next → (∀ q ∈ rx.early, q.seq ≠ p.seq) → ∃ t, exec (.packetDelivery ⟨port, p⟩) s = .next t ∧
    t = { s with rx := t.rx } ∧ got t = { rx with early := rx.early ++ [p] }) ∧
  (here → p.resync = false → p.seq = rx.next → s.packetWaits p = false → rx.settled = [] → rx.early = [] → rx.next < 2 ^ 32 →
    (∃ t, exec (.packetDelivery ⟨port, p⟩) s = .next t ∧ (got t).next = (p.seq + 1) % 2 ^ 32 ∧ (got t).early = [] ∧
      (reject → plain → steady t ∧ t.tier = s.tier ∧ t.home = s.home ∧ (fetches → (got t).kept.get? p.seq = some .refused ∧ t.events = s.events) ∧
        (p.src ≠ s.pkg → t.outbox = s.outbox ++ [.ack p.src p.seq .refused]) ∧
        (¬fetches → t.events = s.events.push s.logCap (eventRecord (p.off % 2 ^ 38 + p.src * 2 ^ 38) 0 0xFFFF 0x08)))) ∧
    (∀ k, p.req = .load k → k ∈ [1, 2, 4] → s.exportAddr p.off k = some pa → pa / 2 ^ 45 = 0 → pa % k = 0 → s.err.plant = none → s.memPoison = [] →
      (s.lines.get? (lineOf (pa / 4))).any (fun l => l.ue = none) = true → (∀ o, s.home.get? (pa / 4) ≠ some (.registered o)) → ∃ t,
      exec (.packetDelivery ⟨port, p⟩) s = .next t ∧ t.home = s.home ∧ t.tier = s.tier ∧
        (got t).kept.get? p.seq = some (.value ((s.homeVal (pa / 4)).toNat / 2 ^ (8 * (pa % 4)) % 2 ^ (8 * k))))) ∧
  (∀ q, ¬backed ∨ (∀ x ∈ f.unacked, x.1.seq ≠ q) → exec (.acknowledgement dst q r) s = .next s) ∧
  (backed → ∀ x ∈ f.unacked, mine x → ∃ t, exec (.acknowledgement dst seq r) s = .next t ∧ (fl t).unacked = f.unacked.filter (fun y => y.1.seq ≠ seq) ∧
    (fl t).next = f.next ∧ t.rx = s.rx ∧ t.seed = s.seed ∧ ((∀ v, r ≠ .value v) → t.tier = s.tier ∧ t.home = s.home)) ∧
  (¬overdue ∨ elem ∉ f.route → exec (.ackTimeout dst elem) s = .next s) ∧
  (overdue → elem ∈ f.route → s.flows.sorted = true → ∃ t, exec (.ackTimeout dst elem) s = .next t ∧ failedOnly t) ∧
  (s.flows.sorted = true → ∃ t, exec (.linkCrcFailureReport elem) s = .next t ∧ failedOnly t) ∧
  (f.routed = true ∨ (∃ k ∈ route, ¬up k) → exec (.flowReroute dst route) s = .next s) ∧
  (f.routed = false → (∀ k ∈ route, up k) → ∃ t, exec (.flowReroute dst route) s = .next t ∧ fl t = { f with route := route, routed := true, unacked := f.unacked.map (fun x => (x.1, s.now)) } ∧
    t.replayed = s.replayed + BitVec.ofNat 32 f.unacked.length ∧ t.reroute = s.reroute + 1 ∧ steady t ∧ t.tier = s.tier ∧ t.home = s.home ∧
    (∀ x ∈ f.unacked, ∀ y, (s.ctx x.1.ctx).events = y → y.records.length < s.logCap →
      (t.ctx x.1.ctx).events.records = y.records ++ [eventRecord (s.pkg + dst * 2 ^ 16 + f.unacked.length * 2 ^ 32) 0 x.1.ctx 0x02])) ∧
  (exec (.linkRetrain elem) s = .next { s with failed := if elem < 32 ∧ (s.down.getLsbD elem = true ∨ 3 ≤ s.dies.states.getD (elem / 8) 0) then s.failed else s.failed.erase elem }) ∧
  (f.routed = true ∨ s.now - f.failedAt < 2000000 ∨ (f.resync = true ∧ f.unacked = []) → exec (.flowUnreachable dst) s = .next s) ∧
  (f.routed = false → f.failedAt + 2000000 ≤ s.now → f.resync = false ∨ f.unacked ≠ [] → ∃ t, exec (.flowUnreachable dst) s = .next t ∧ (fl t).unacked = [] ∧ (fl t).routed = false ∧ (fl t).resync = true ∧
    (fl t).next = f.next ∧ t.unreach = s.unreach + 1 ∧ t.tier = s.tier ∧ t.home = s.home ∧ t.seed = s.seed ∧
    (∀ v w, v = s.th → v.gone = false → v.shadow = false → w ∈ f.unacked → w.1.ctx = v.ctx →
      ∃ y ∈ t.th.async, y.cause = 0x14 ∧ y.info = BitVec.ofNat 64 dst ∧ y.addr = 0)) ∧
  (∃ t, exec (.replayUnmerged dst seqs) s = .next t ∧ steady t ∧ fl t = { f with unacked := f.unacked.map fun x =>
      if x.1.seq ∈ seqs then ({ x.1 with noMerge := true }, s.now) else x } ∧
    t.replayed = s.replayed + BitVec.ofNat 32 (f.unacked.countP fun x => decide (x.1.seq ∈ seqs))) ∧
  (s.mergeable p = false → exec (.switchMerge sw p) s = .next s) ∧
  (p.cover = [] → (∃ m ∈ s.merges, m.sw = sw ∧ m.packet.dst = p.dst ∧ (p.src, p.seq, 1) ∈ m.packet.cover) → exec (.switchMerge sw p) s = .next s) ∧
  (s.mergeable p = true → p.cover = [] → (∀ m ∈ s.merges, m.sw ≠ sw) → ∃ m, exec (.switchMerge sw p) s = .next { s with merges := s.merges ++ [m] } ∧
    m.sw = sw ∧ m.since = s.now ∧ m.packet = { p with cover := [(p.src, p.seq, 1)] }) ∧
  (∀ m x op k, s.merges = [m] → m.sw = sw → s.mergeable p = true → p.cover = [] → m.packet.cover = [x] → x.1 ≠ p.src → m.packet.ctx = p.ctx → m.packet.window = p.window →
    m.packet.off = p.off → m.packet.phase = p.phase → m.packet.dst = p.dst → ∀ v w, m.packet.req = .atomic op k v 0 false true → p.req = .atomic op k w 0 false true →
    ∃ y, exec (.switchMerge sw p) s = .next { s with merges := [y] } ∧ y.packet.req = .atomic op k (atomNew op k v w 0) 0 false true ∧
      y.packet.cover = [x, (p.src, p.seq, 1)] ∧ y.since = m.since) ∧
  (∀ full, (∀ m ∈ s.merges, m.sw = sw → ¬due m full) → exec (.mergeEntryForward sw n full) s = .next s) ∧
  (∀ m full, s.merges = [m] → m.sw = sw → due m full → m.packet.dst ≠ s.pkg → ∃ t, exec (.mergeEntryForward sw 0 full) s = .next t ∧ t.merges = []) ∧
  (here → p.cover = [] → p.seq < 2 ^ 32 → old p.seq → exec (.mergedPacketReceipt ⟨port, p⟩) s = .next again) ∧
  (here → p.cover = [] → p.seq < 2 ^ 32 → ¬old p.seq → s.packetWaits p = true → exec (.mergedPacketReceipt ⟨port, p⟩) s = .next s) ∧
  (here → p.cover = [] → ¬old p.seq → s.packetWaits p = false → rx.settled = [] → rx.early = [] → rx.next = p.seq → p.seq < 2 ^ 32 → ∃ t,
    exec (.mergedPacketReceipt ⟨port, p⟩) s = .next t ∧ (got t).next = (p.seq + 1) % 2 ^ 32 ∧ (got t).settled = [] ∧
    (p.src ≠ s.pkg → .ack p.src p.seq (s.performPacket p).2 ∈ t.outbox)) ∧
  ((n = s.pkg ∧ s.pkgQuiet p.ctx ph = false) → exec (.phaseQuietReport p.ctx ph n) s = .next s) ∧
  (n ≠ s.pkg ∨ s.pkgQuiet p.ctx ph = true → ∃ t, exec (.phaseQuietReport p.ctx ph n) s = .next t ∧ n ∈ (t.ctx p.ctx).quiet ph ∧
    (∀ k, k ≠ n → (k ∈ (t.ctx p.ctx).quiet ph ↔ k ∈ (s.ctx p.ctx).quiet ph)) ∧ (t.ctx p.ctx).phase = (s.ctx p.ctx).phase ∧ t.flows = s.flows ∧
    (∀ w, s.th.ctx = p.ctx → s.th.wait = some w → w.kind = .quiet ph → w.result = none → t.allQuiet p.ctx ph = true → ∃ w', t.th.wait = some w' ∧ w'.result.isSome = true))

/-! ### Collectives and gangs -/

/-- R356 to R364, R366: coll, glaunch and gstat, the gang's messages and time limits, a collective's completion. The order in which a
switch adds integers does not show (R360). That the launcher reads the record's number of blocks itself, how messages arrive and what a
member that is told of the end tells, the buffers' first failing page, and TRAPINFO 0 where the rules list none, are the model's (logs 15,
29, 52, 57, 74). -/
def Obligations.CollectivesAndGangs : Prop := ∀ (d a b : Reg) (s s1 s2 : State) (r ms : List Byte) (slot m st : Nat), s.unitsOk →
  let u := s.th.uid
  let e (i : Instr) : State := s.entered (encode i)
  let va := s.sget a
  let traps (i : Instr) (t : State) (c : Nat) (addr info : Word) : Prop := exec i s = .next (t.takePrecise ⟨c, false, s.th.pc, addr, info, none⟩)
  let coll := Instr.coll a b
  let gl := Instr.glaunch d a
  let n := (s.sget b).toNat % 1024
  let B := s1.dropRecords.blk
  let P := ((s1.dropRecords.ctx B.ctx).groups.get? (fld r 20 2)).map fun x => x.2.length
  let readable (i : Instr) : Prop := va.toNat % 64 = 0 ∧ (e i).recordWords va.toNat 8 = (s1, .bytes r)
  let gangs (t : State) : Option Gang := t.gangs.get? slot
  let key := s.pkg * 64 + slot
  let waits (t : State) (v : Nat) (g : Gang) : Prop := ∀ w, g.uid = u → s.th.wait = some w → w.kind = .gang slot → w.result = none → t.th.wait = some { w with result := some v }
  let fresh : Prop := ∀ w, s.th.wait = some w → w.args = []
  let fenced : Prop := ∃ v ∈ s.th.out, ∃ k sc, v.kind = .fence k sc ∧ (k = 3 ∨ (k = 0 ∧ sc = 3))
  let told (t : State) (g : Gang) (x : Nat → Msg) : Prop := ∀ j < g.members.length, g.members.getD j 0 ≠ s.pkg → x (g.members.getD j 0) ∈ t.outbox
  let freed (t : State) (g : Gang) : Prop := ∃ g', gangs t = some g' ∧ g'.phase = 0 ∧ g'.gen = (g.gen + 1) % 256 ∧ g'.members = []
  (s.passes (encode coll) →
    (fresh → va.toNat % 64 ≠ 0 → traps coll (e coll) 3 va 0) ∧
    (fresh → va.toNat % 64 = 0 → 8 ≤ s.blk.collOut ∨ fenced → exec coll s = .next ((e coll).waitWith .collective [va, s.sget b])) ∧
    (fresh → readable coll → s.blk.collOut < 8 → ¬fenced →
      let t := s1.dropRecords
      let sz := fld r 24 1
      let aligned (off : Nat) : Prop := sz = 4 ∨ sz = 8 → fld r off 8 % sz = 0
      let fields : List (Nat × Prop) := [(0, aligned 0), (8, aligned 8), (16, 1 ≤ fld r 16 4 ∧ fld r 16 4 ≤ 2 ^ 26), (22, fld r 22 1 ≤ 3),
        (23, fld r 22 1 < 2 → fld r 23 1 ≤ 7 ∧ (fld r 23 1 = 6 ↔ sz = 8)), (24, sz = 4 ∨ sz = 8), (25, fld r 25 1 = 0),
        (26, if fld r 22 1 = 3 then ∀ k, P = some k → fld r 26 2 < k else fld r 26 2 = 0), (28, leNat (r.drop 28) = 0)]
      let sound := ∀ k ∈ fields, k.2
      (∀ (i : Nat) (k : Nat × Prop), fields[i]? = some k → (∀ m < i, ∀ j : Nat × Prop, fields[m]? = some j → j.2) → ¬k.2 →
        traps coll t 0x18 0 (BitVec.ofNat 64 (0x50 + k.1))) ∧
      (sound → B.lsBytes / 1024 ≤ n → traps coll t 0x0B 0 1) ∧
      (sound → n < B.lsBytes / 1024 →
        (t.groupOf B (fld r 20 2) = none → traps coll t 5 0 8) ∧
        (∀ owner blocks, t.groupOf B (fld r 20 2) = some (owner, blocks) →
          let lost := ∃ k y, (t.tasks.get? B.task).bind (·.gangKey) = some k ∧ t.members.get? k = some y ∧ y.abandoned = true
          (lost → traps coll t 0x15 0 0) ∧
          (¬lost → ∀ k, t.collWaitFails B.ctx owner blocks = some k → traps coll t 9 0 (BitVec.ofNat 64 k)) ∧
          (¬lost → t.collWaitFails B.ctx owner blocks = none → ∀ t1 t2 sends recvs,
            s1.bufferPages .load (fld r 0 8) (collSendLen (fld r 22 1) (fld r 16 4) (fld r 24 1) blocks.length (fld r 26 2) (rankOf blocks B.idx)) = (t1, .ok sends) →
            t1.bufferPages .store (fld r 8 8) (collRecvLen (fld r 22 1) (fld r 16 4) (fld r 24 1) blocks.length) = (t2, .ok recvs) →
            t2.blk.uid = t2.th.blk → t2.blk.idx = B.idx → ∃ z c, exec coll s = .next z ∧
            z.th.pc = t2.th.pc + 4 ∧ c.thr = t2.th.uid ∧ c.seq = t2.th.seq ∧ c.words = [] ∧ c.wrote = 0 ∧ c.acks = [] ∧ c.ph = (t2.ctx t2.blk.ctx).phase ∧ c.pins = recvs.foldl (fun m x => m.set x.1 x.2) sends ∧ z.colls = t2.colls ++ [c] ∧ c.group = fld r 20 2 ∧ c.k = t2.blk.collCount.getD (fld r 20 2) 0 ∧
            c.rank = blocks.countP (fun i => decide (i < B.idx)) ∧ c.blk = t2.blk.uid ∧ c.bar = n ∧ c.send = fld r 0 8 ∧ c.recv = fld r 8 8 ∧ c.count = fld r 16 4 ∧
            c.kind = fld r 22 1 ∧ c.op = fld r 23 1 ∧ c.size = fld r 24 1 ∧ c.root = fld r 26 2 ∧ z.blk.collOut = t2.blk.collOut + 1 ∧
            z.blk.collCount.get? (fld r 20 2) = some (c.k + 1) ∧ z.blk.ls = t2.blk.ls))))) ∧
  (s.passes (encode gl) →
    (s.th.wait = none → va.toNat % 64 ≠ 0 → traps gl (e gl) 3 va 0) ∧
    (∀ w v k, s.th.wait = some w → w.kind = .gang k → w.result = some v → exec gl s = .next ((e gl).sset d (BitVec.ofNat 64 v)).adv) ∧
    (∀ w k, s.th.wait = some w → w.kind = .gang k → w.result = none → exec gl s = .next ((e gl).gangSettle k)) ∧
    (s.th.wait = none → readable gl →
      let k := fld r 16 1
      let at' := fld r 8 8
      let list := (List.range k).map fun i => fld ms (at' % 8 + 2 * i) 2
      let bad (t : State) : Prop := exec gl s = .next (t.dropRecords.sset d (BitVec.ofNat 64 (3 * 2 ^ 56))).adv
      (k = 0 ∨ 64 < k → bad s1) ∧
      (1 ≤ k → k ≤ 64 → s1.recordWords (at' / 8 * 8) ((at' % 8 + 2 * k + 7) / 8) = (s2, .bytes ms) →
        let ok := fld r 17 7 = 0 ∧ fld r 24 8 % 8 = 0 ∧ leNat (r.drop 32) = 0 ∧ list.Nodup ∧ ∀ y ∈ list, y < 8192
        let free (t : State) (i : Nat) : Prop := ∀ g, t.gangs.get? i = some g → g.phase = 0
        (¬ok → bad s2) ∧
        (∀ y, fld r 0 8 % 64 = 0 → s2.readCtx s2.th.ctx (fld r 0 8 + 16) 1 = some y → s2.gangSizeOk (fld r 0 8) k = (s2, some (decide (k * fld y 0 4 ≤ 2 ^ 32)))) ∧
        (∀ s3 v, ok → s2.gangSizeOk (fld r 0 8) k = (s3, v) →
          (v = none → exec gl s = .next (s3.waitWith .memory (va :: (List.range 8).map fun i => BitVec.ofNat 64 (fld r (8 * i) 8)))) ∧
          (v = some false → bad s3) ∧
          (v = some true → (∀ i < 64, ¬free s3 i) → exec gl s = .next (s3.dropRecords.sset d (BitVec.ofNat 64 (4 * 2 ^ 56))).adv) ∧
          (v = some true → ∀ i < 64, free s3 i → (∀ j < i, ¬free s3 j) → ∃ z g, exec gl s = .next z ∧ z.th.pc = s3.th.pc ∧ z.gangs.get? i = some g ∧ g.phase = 1 ∧ g.members = list ∧
            (∀ j < k, list.getD j 0 ≠ s3.pkg → .prepare (list.getD j 0) ⟨s3.pkg * 64 + i, j, s3.th.ctx, fld r 0 8⟩ ∈ z.outbox) ∧
            g.answers = [] ∧ g.begun = [] ∧ g.finished = [] ∧ g.done = fld r 24 8 ∧ g.since = s3.now ∧ g.record = fld r 0 8 ∧ g.ctx = s3.th.ctx ∧
            z.th.wait.any (fun w => w.kind = .gang i) = true))))) ∧
  (s.passes (encode (.gstat d a)) → ∃ v : Word, exec (.gstat d a) s = .next ((e (.gstat d a)).sset d v).adv ∧
    (∀ g, va.toNat / 2 ^ 6 % 4 = 0 → va.toNat < 2 ^ 16 → s.gangs.get? (va.toNat % 64) = some g → g.phase = 2 → g.gen = va.toNat / 2 ^ 8 % 256 → g.begun.Nodup → (∀ i ∈ g.begun, i < 64) →
      ∀ i < 64, v.getLsbD i = decide (i ∈ g.begun)) ∧
    (va.toNat / 2 ^ 6 % 4 ≠ 0 ∨ 2 ^ 16 ≤ va.toNat ∨ (∀ g, s.gangs.get? (va.toNat % 64) = some g → g.phase ≠ 2 ∨ g.gen ≠ va.toNat / 2 ^ 8 % 256) → v = 0)) ∧
  (let ev := Instr.gangPrepareAnswer slot m st
   ((∀ g, gangs s = some g → g.phase ≠ 1 ∨ g.members.length ≤ m ∨ g.answers.has m = true ∨ 100000000 ≤ s.now - g.since) → exec ev s = .next s) ∧
   (∀ g, gangs s = some g → g.phase = 1 → m < g.members.length → g.answers.has m = false → s.now - g.since < 100000000 →
     let got := g.answers.set m st
     let all := ∀ i < g.members.length, got.has i = true
     (¬all → ∃ t, exec ev s = .next t ∧ t = { s with gangs := t.gangs } ∧ gangs t = some { g with answers := got }) ∧
     ((∀ i < g.members.length, got.get? i = some 0) → ∃ t, exec ev s = .next t ∧ gangs t = some { g with answers := got, phase := 2, since := s.now } ∧
       waits t (slot + g.gen * 2 ^ 8) g ∧ told t g fun p => .begin p key) ∧
     (all → ∀ i k, i < g.members.length → got.get? i = some k → k ≠ 0 → (∀ j < i, got.get? j = some 0) → ∃ t, exec ev s = .next t ∧ freed t g ∧
       waits t (2 ^ 56 + i * 2 ^ 48 + k * 2 ^ 40) g ∧ told t g fun p => .cancel p key))) ∧
  (let ev := Instr.gangPrepareTimeout slot
   ((∀ g, gangs s = some g → g.phase ≠ 1 ∨ (s.now - g.since < 100000000 ∧ ∃ i < g.members.length, g.answers.has i = false)) → exec ev s = .next s) ∧
   (∀ g, gangs s = some g → g.phase = 1 → 100000000 ≤ s.now - g.since → ∀ i < g.members.length, g.answers.get? i = none → (∀ j < i, g.answers.get? j = some 0) →
     ∃ t, exec ev s = .next t ∧ freed t g ∧ waits t (2 * 2 ^ 56 + i * 2 ^ 48) g ∧ told t g fun p => .cancel p key)) ∧
  (∀ g : GangMsg, (∀ y, s.members.get? g.key = some y → (match y.task with
      | some v => ∃ k, s.tasks.get? v = some k ∧ k.isOver = false
      | none => y.abandoned = false) → exec (.gangPrepare g) s = .next s) ∧
    (s.members.has g.key = false → ∀ s3 : State,
      let read (x : Except MemberRead Record) : Prop := s.memberRecord g.ctx g.record (s.prepWords g) = (s3, x)
      let gone : State := { s3 with preps := s3.preps.erase g.key }
      let kept (ws : List (Nat × Phase)) : State := { s3 with preps := s3.preps.set g.key ⟨g, ws⟩ }
      let ends (t : State) (st : Nat) : Prop := (g.key / 64 = t.pkg → exec (.gangPrepare g) s = .next (t.gangAnswer (g.key % 64) g.index st)) ∧
        (g.key / 64 ≠ t.pkg → exec (.gangPrepare g) s = .next { t with outbox := t.outbox ++ [.answer (g.key / 64) (g.key % 64) g.index st] })
      (∀ k, read (.ok k) → gone.overBudget k = true → ends gone 3) ∧
      (∀ k, read (.ok k) → gone.overBudget k = false → k.cls ≠ 0 → ends { gone with members := gone.members.set g.key ⟨g.index, k, 0, none, false⟩ } 0) ∧
      (∀ k, read (.ok k) → gone.overBudget k = false → k.cls = 0 → 6144 < k.blocks ∨ gone.fitsWindow k.ctx (k.blocks * k.energy) = false → ends gone 1) ∧
      (∀ k, read (.ok k) → gone.overBudget k = false → k.cls = 0 → k.blocks ≤ 6144 → gone.fitsWindow k.ctx (k.blocks * k.energy) = true →
        let y : Task := { gone.newTask k none none (some g.key) (g.index * k.blocks) false with reserved := 1 }
        let held := { gone with nextUid := gone.nextUid + 1, tasks := gone.tasks.set y.uid y }.reserveC y k.blocks (g.index * k.blocks)
        (held = none → ends gone 1) ∧
        (∀ z, held = some z → z.now / 10000000 ≤ z.windowNo → ∃ t : State, ends t 0 ∧ t = { z with members := t.members, ctxs := t.ctxs, windowAdmitted := t.windowAdmitted } ∧
          t.members = z.members.set g.key ⟨g.index, k, 0, some y.uid, false⟩ ∧ t.windowAdmitted = z.windowAdmitted + k.blocks * k.energy ∧
          (t.ctx k.ctx).admitted = (z.ctx k.ctx).admitted + k.blocks * k.energy)) ∧
      (read (.error .bad) → ends gone 2) ∧
      (read (.error .wait) → exec (.gangPrepare g) s = .next (kept (s3.prepWords g))) ∧
      (∀ a pkg o, read (.error (.ask a pkg o)) → (s3.canSend pkg 1 = false → exec (.gangPrepare g) s = .next (kept (s3.prepWords g))) ∧
        (s3.canSend pkg 1 = true → ∃ t q, exec (.gangPrepare g) s = .next t ∧ t.members = s3.members ∧ t.preps.get? g.key = some ⟨g, (a, .sent pkg q) :: s3.prepWords g⟩)))) ∧
  ((s.members.get? m = none ∨ (∃ y, s.members.get? m = some y ∧ y.abandoned = true)) → exec (.gangBegin m) s = .next s) ∧
  (∀ y k, s.members.get? m = some y → y.abandoned = false → y.task = some st → s.tasks.get? st = some k → k.reserved ≠ 1 → exec (.gangBegin m) s = .next s) ∧
  (∀ y k, s.members.get? m = some y → y.abandoned = false → y.task = some st → s.tasks.get? st = some k → k.reserved = 1 → ∃ t k', exec (.gangBegin m) s = .next t ∧
    t.tasks.get? st = some k' ∧ k'.reserved = 0 ∧ k'.record = k.record ∧ t.members = s.members ∧ t.blocks = s.blocks ∧ t.windowAdmitted = s.windowAdmitted) ∧
  (∀ y z v, s.members.get? m = some y → y.abandoned = false → y.task = none → s.accept y.record none none (some m) (y.index * y.record.blocks) false = (z, 0, v) →
    exec (.gangBegin m) s = .next { z with members := z.members.set m { y with task := some v } }) ∧
  (s.members.get? m = none → exec (.gangCancel m) s = .next { s with preps := s.preps.erase m }) ∧
  (∀ y, s.members.get? m = some y → (y.task = none ∨ ∃ v k, y.task = some v ∧ s.tasks.get? v = some k ∧ k.reserved = 1) → s.members.sorted = true → ∃ t, exec (.gangCancel m) s = .next t ∧
    t.members.get? m = none ∧ (∀ j, j ≠ m → t.members.get? j = s.members.get? j) ∧ (∀ v, y.task = some v → t.tasks.get? v = none ∧ ∀ q ∈ t.blocks, q.2.task ≠ v)) ∧
  ((∀ g, gangs s = some g → g.phase ≠ 2 ∨ g.members.length ≤ m ∨ m ∈ g.begun) → exec (.gangBegun slot m none) s = .next s) ∧
  ((∀ g, gangs s = some g → g.phase ≠ 2 ∨ g.members.length ≤ m ∨ (g.abandoned = false ∧ m ∉ g.begun) ∨ m ∈ g.finished) →
    exec (.gangBegun slot m (some st)) s = .next s) ∧
  (∀ g, gangs s = some g → g.phase = 2 →
    (m < g.members.length → m ∉ g.begun → exec (.gangBegun slot m none) s = .next { s with gangs := s.gangs.set slot { g with begun := m :: g.begun } }) ∧
    (m < g.members.length → g.abandoned = true ∨ m ∈ g.begun → m ∉ g.finished →
      let whole := if g.abandoned = true then ∀ i < g.members.length, i = m ∨ i ∈ g.finished
        else (∀ i ∈ g.begun, i = m ∨ i ∈ g.finished) ∧ g.begun.length = g.members.length
      let t : State := { s with gangs := s.gangs.set slot { g with finished := m :: g.finished, ended := g.ended + st } }
      let z := t.writeDone g.ctx g.done (2 ^ 63 + (if g.abandoned = true then 2 else 0) * 2 ^ 32 + (g.ended + st) % 2 ^ 32)
      (¬whole → exec (.gangBegun slot m (some st)) s = .next t) ∧
      (whole → ∃ t, exec (.gangBegun slot m (some st)) s = .next t ∧ freed t g ∧ t = { z with gangs := t.gangs } ∧ ∀ k, k ≠ slot → t.gangs.get? k = s.gangs.get? k))) ∧
  ((∀ g, gangs s = some g → g.phase ≠ 2 ∨ g.abandoned = true ∨ s.now - g.since < 100000000 ∨ g.members.length ≤ g.begun.length) → exec (.gangBeginTimeout slot) s = .next s) ∧
  (∀ g, gangs s = some g → g.phase = 2 → g.abandoned = false → 100000000 ≤ s.now - g.since → g.begun.length < g.members.length →
    ∃ t, exec (.gangBeginTimeout slot) s = .next t ∧ told t g (fun p => .cancel p key) ∧ (∀ g', gangs t = some g' → g'.phase = 2 → g'.abandoned = true) ∧
      (s.members.get? key = none → (∃ i < g.members.length, i ∉ g.finished) → gangs t = some { g with abandoned := true }) ∧
      ∀ y, s.members.get? key = some y → (∃ y', t.members.get? key = some y' ∧ y'.abandoned = true) ∧
        ∀ v, y.task = some v → (∀ q ∈ s.blocks, q.2.task = v → q.2.started = false) → t.tasks.get? v = none) ∧
  (∀ ctx grp k rank order far, (∀ c ∈ s.colls, ¬(c.ctx = ctx ∧ c.group = grp ∧ c.k = k ∧ c.rank = rank)) → exec (.collectiveCompletion ctx grp k rank order far) s = .next s) ∧
  (∀ (c : Coll) (order : List Nat) (far : List CollPart) (pa region : Nat) (b0 b1 b2 b3 : Byte), c ∈ s.colls →
    (∀ y ∈ s.colls, y.ctx = c.ctx ∧ y.group = c.group ∧ y.k = c.k ∧ y.rank = c.rank → y = c) → c.kind = 0 → c.count = 1 → c.size = 4 →
    (s.sentPart c 0).isSome = true → s.sendsDiffer c = false → s.sentPart c (2 ^ 32) = some [b0, b1, b2, b3] →
    s.colls.Nodup → c.wrote = 0 → c.acks = [] → c.place c.recv = some (.mem pa region) → pa % 4 = 0 →
    s.dies.states.getD (homeDie pa) 0 < 3 → s.unlocked s.pkg (2 ^ 40) pa 4 = true →
    let bar (t : State) : Barrier := (t.block c.blk).bar c.bar
    let k := (bar s).arrived + 1
    ∃ t, exec (.collectiveCompletion c.ctx c.group c.k c.rank order far) s = .next t ∧ (t.homeVal (pa / 4)).toNat = leNat [b0, b1, b2, b3] ∧
      t.colls = s.colls.erase c ∧ (t.block c.blk).collOut = (s.block c.blk).collOut - 1 ∧
      (k < 2 ^ 24 → ((bar s).expected ≠ k → (bar t).arrived = k) ∧ ((bar s).expected = k → (bar t).arrived = 0 ∧ (bar t).phase = !(bar s).phase))) ∧
  (∀ (bufs : List (List Byte)) (order : List Nat), bufs ≠ [] → reduceAll 0 4 1 bufs order = leBytes 4 ((bufs.map fun y => leNat (y.take 4)).sum % 2 ^ 32)) ∧
  (∀ ctx grp owner blocks, ∃ t, exec (.collectiveGroupBinding ctx grp owner blocks) s = .next t ∧ t = { s with ctxs := t.ctxs } ∧
    (t.ctx ctx).groups.get? (grp % 256) = some (owner, blocks.eraseDups) ∧ (∀ j, j ≠ grp % 256 → (t.ctx ctx).groups.get? j = (s.ctx ctx).groups.get? j) ∧
    ∀ j, j ≠ ctx → t.ctx j = s.ctx j)

/-! ### The dispatcher and the planner -/

/-- R43, R46 to R50, R52, R55, R56, R59, R383, R384, R406, R407: aging, placement, rotation, starvation, throttling, queue extension, the
wait-graph walk, quota moves, pre-emption and resume, budget windows, energy and the clock. That a periodic event comes once in a period,
at any time after its limit, that a block that would not fit does not rotate in, that exited waves count in a quota move, and TRAPINFO 0 of
an exhausted pool are the model's (logs 15, 32, 58, 66, 67). -/
def Obligations.DispatcherEvents : Prop := ∀ (s s1 : State) (die core u v blk q nj watts c : Nat), s.unitsOk →
  let due (event unit clock period : Nat) : Prop := s.marks.getD (unit * 64 + event) 0 < clock / period
  let idle (t : State) : Prop := t = { s with marks := t.marks }
  let x := s.thread u
  let b := s.block blk
  let listed (w : Nat) : Prop := w = s.th.uid ∨ s.threads.has w = true
  let runsOn (w : Nat) : Prop := listed w ∧ (s.thread w).core = core ∧ (s.thread w).core < 512 ∧ (s.thread w).life = .running
  let ready := x.core < 512 ∧ x.cls = 0 ∧ x.life = .running ∧ x.wait = none
  let pending (k : Task) : Prop := k.slot = none ∧ k.isOver = false ∧ k.reserved = 0 ∧ k.ended < k.record.blocks
  let fits (z : State) (y : Block) : Prop := z.coreFits core (z.slotsUsed y) y.lsBytes y.accBanks y.regs y.cls y.dual = true ∧ z.commandRoom core y = true
  let online (d : Nat) : Prop := d < 4 ∧ s.host.code = 0 ∧ 4 ≤ s.host.stage ∧ s.dies.states.getD d 0 = 0
  let core? (d : Nat) (k : Task) : Option Nat := s.bestCore d k.record.slots k.record.lsBytes k.record.accBanks k.record.regs k.record.cls k.record.dual
  let base (n : Nat) : Nat := if s.windowNo < s.now / 10000000 then 0 else n
  let steps := [32, 24, 16, 8, 4]
  let sum := ((s.wavesOn core).map (·.score)).sum
  let blocked (w : Nat) : Prop := b.blocked (s.thread w) = true
  let longer (n w : Nat) : Prop := blocked w ∧ ∃ k, (s.thread w).wait = some k ∧ n ≤ s.cycles - k.cycle
  let pushes (w : Nat) : Prop := blocked w ∧ ∃ k, (s.thread w).wait = some k ∧ k.kind = .queuePush q ∧ 10000 < s.cycles - k.cycle
  let edge (w y : Nat) : Prop := y ∈ b.waves ∧ ∃ k, (s.thread w).wait = some k ∧ match k.kind with
    | .bar => (s.thread y).gone = false ∧ (s.thread y).wib ∉ b.atBar
    | .queuePush n => (s.thread y).gone = false ∧ ∃ z, b.queues.get? n = some z ∧ (s.thread y).role = z.consumer
    | .queuePop n => (s.thread y).gone = false ∧ ∃ z, b.queues.get? n = some z ∧ (s.thread y).role = z.producer
    | .nb n _ => (s.thread y).gone = false ∧ (s.thread y).wib ∉ (b.bar n).amask
    | _ => False
  let dead (w : Nat) : Prop := ∃ D : List Nat, w ∈ D ∧ ∀ y ∈ D, y ∈ b.waves ∧ blocked y ∧ ∀ z, edge y z → z ∈ D
  let joined (P : List Nat) : Prop := ∀ y ∈ P, ∀ z, dead z → edge y z ∨ edge z y → z ∈ P
  let trapped (t : State) (w cause info : Nat) : Prop := ∃ k, (s.thread w).wait = some k ∧
    t.thread w = { s.thread w with wait := some { k with fail := some (2 ^ 40 * cause + info) } }
  let walked (t : State) : Prop := ∀ w ∈ b.waves, dead w → ∃ P : List Nat, P.Nodup ∧ w ∈ P ∧ (∀ y ∈ P, dead y) ∧ joined P ∧
    (∀ Q : List Nat, w ∈ Q → joined Q → ∀ y ∈ P, y ∈ Q) ∧ trapped t w 0x0A P.length
  let sameWaves (t : State) (but : Nat → Prop) : Prop := ∀ w ∈ b.waves, ¬but w → t.thread w = s.thread w
  let roleOf (r : Nat) : List Nat := s.roleWaves b r
  let waitsOn (r : Nat) (k : WaitKind) : Prop := ∃ w ∈ roleOf r, blocked w ∧ ∃ y, (s.thread w).wait = some y ∧ y.kind = k
  let small := b.waves.Nodup ∧ b.waves.length ≤ 16
  let o := mkOwner 0 s.pkg (dieOf b.core) (b.core % 128) b.slot
  let quiet := (∀ w, listed w → (s.thread w).blk = blk → (s.thread w).core < 512 → (s.thread w).out = [] ∧
    ∀ v, (s.thread w).partner = some v → (s.thread v).icount = (s.thread w).icount) ∧ ∀ y ∈ (s.core b.core).barrow, y.blk ≠ blk
  let mayGo := b.resident = false ∧ b.started = true ∧ b.waves ≠ [] ∧ blk ∉ (s.core b.core).rotation ∧ (∃ k, s.tasks.get? b.task = some k ∧ k.slot ≠ none) ∧
    core < 512 ∧ online (core / 128) ∧ fits s b
  let stays (w : Nat) : Prop := w ∈ b.waves ∧ (s.thread w).life ≠ .exited
  (¬due 0 0 s.now 10000000 → exec .pendingAgingTick s = .next s) ∧
  (due 0 0 s.now 10000000 → ∃ t, exec .pendingAgingTick s = .next t ∧ ¬t.marks.getD 0 0 < s.now / 10000000 ∧
    (∀ k, s.tasks.get? u = some k → ∃ k', t.tasks.get? u = some k' ∧ (pending k → k'.eff = min 7 (k.eff + 1)) ∧ (¬pending k → k'.eff = k.eff) ∧
      (k.slot ≠ none → k.record.cls = 0 ∨ 7 ≤ k.eff → k'.slot = k.slot)) ∧
    ((∀ p ∈ s.tasks, ¬pending p.2) → idle t) ∧
    (∀ k i, s.tasks = [(u, k)] → pending k → s.freeSlot k.die = some i → t.tasks = [(u, { k with eff := min 7 (k.eff + 1), slot := some i })])) ∧
  ((∀ p ∈ s.tasks, s.hasUnplaced p.2 = true → p.2.die ≠ die ∧ (p.2.record.cls = 0 ∨ ∃ d, (d = p.2.die ∨ d < die) ∧ (core? d p.2).isSome = true)) →
    exec (.blockPlacement die) s = .next s) ∧
  (∀ k n, s.tasks.get? k.uid = some k → k.die = die → s.hasUnplaced k = true → k.record.cls ≠ 0 → k.gangKey = none → s.waitingResume die = [] →
    (∀ p ∈ s.tasks, p.1 ≠ k.uid → s.hasUnplaced p.2 = true → p.2.eff < k.eff ∨ (p.2.eff = k.eff ∧
      (k.record.cls < p.2.record.cls ∨ (k.record.cls = p.2.record.cls ∧ k.born < p.2.born)))) →
    s.fitsWindow k.record.ctx k.record.energy = true → k.record.areas ≤ (s.ctx k.record.ctx).spillFree →
    core? die k = some n →
    ∃ t, exec (.blockPlacement die) s = .next t ∧ (t.block s.nextUid).task = k.uid ∧ (t.block s.nextUid).idx = k.idxBase + k.placed ∧
      (t.block s.nextUid).core = n ∧ (t.block s.nextUid).resident = true ∧ (t.block s.nextUid).started = true ∧ t.nextUid = s.nextUid + 64 ∧
      t.tasks.get? k.uid = some { k with placed := k.placed + 1 } ∧ (t.ctx k.record.ctx).spillFree = (s.ctx k.record.ctx).spillFree - k.record.areas ∧
      (t.ctx k.record.ctx).admitted = base (s.ctx k.record.ctx).admitted + k.record.energy ∧ t.windowAdmitted = base s.windowAdmitted + k.record.energy) ∧
  (∀ k y, s.tasks = [(k.uid, k)] → k.die = die → s.hasUnplaced k = true → k.record.cls = 0 → k.gangKey = none → s.waitingResume die = [] → s.placedC k = some y →
    ∃ t, exec (.blockPlacement die) s = .next t ∧ (t.block y.uid).started = true ∧ (t.block y.uid).startedAt = s.now ∧ (t.block y.uid).core = y.core ∧ t.tasks = s.tasks) ∧
  (∀ k y, y ∈ s.waitingResume die ∨ y ∈ s.waitingResume k.die → y.task = k.uid ∨ (y.cls = 1 ∧ ∃ j, s.tasks.get? y.task = some j ∧ k.eff ≤ j.eff) → k ∉ s.candidates die) ∧
  (∀ k, s.tasks = [(k.uid, k)] → k.record.cls ≠ 0 → s.fitsWindow k.record.ctx k.record.energy = false → exec (.blockPlacement die) s = .next s) ∧
  (∀ slots ls banks regs cls dual n, s.bestCore die slots ls banks regs cls dual = some n → n / 128 = die ∧ s.coreFits n slots ls banks regs cls dual = true ∧
    online die ∧ ∀ m, m / 128 = die → s.coreFits m slots ls banks regs cls dual = true →
      let held (k : Nat) : Nat := ((s.blocksOn k).map s.slotsUsed).sum
      held m < held n ∨ (held m = held n ∧ n ≤ m)) ∧
  (((∀ w ∈ (s.core core).rotation, s.listedReady w = false) ∨ ¬online (core / 128) ∨ s.now - (s.core core).lastRotate < 1000000) → exec (.rotation core) s = .next s) ∧
  (∀ l1 l2, (s.core core).rotation = l1 ++ u :: l2 → (∀ w ∈ l1, s.listedReady w = false) → s.listedReady u = true → online (core / 128) → 1000000 ≤ s.now - (s.core core).lastRotate →
    ((∀ y ∈ s.blocksOn core, ¬(y.rotating = true ∧ y.started = true)) → fits s (s.block u) → ∃ t, exec (.rotation core) s = .next t ∧
      (t.block u).resident = true ∧ (t.block u).core = core ∧ (t.block u).started = true ∧ (t.core core).rotation = (s.core core).rotation.filter (· ≠ u) ∧
      (t.core core).lastRotate = s.now) ∧
    (∀ y ∈ s.blocksOn core, y.rotating = true → y.started = true → y.uid = v → (∀ z ∈ s.blocksOn core, z.rotating = true → z.started = true → z.uid ≠ v → y.residentSince < z.residentSince) →
      (s.trySave v = none → exec (.rotation core) s = .next s) ∧
      (s.trySave v = some s1 → u ≠ v → fits s1 (s1.block u) → (s1.taskOf (s1.block u)).isSome = true → (s1.block u).uid = u → ∃ t, exec (.rotation core) s = .next t ∧
        (t.block u).resident = true ∧ (t.block u).core = core ∧ (t.block v).resident = (s1.block v).resident ∧
        (t.core core).rotation = ((s1.core core).rotation ++ [v]).filter (· ≠ u) ∧ (t.core core).lastRotate = s.now))) ∧
  (¬(ready ∧ 65536 ≤ s.cycles - x.lastIssue) → exec (.starvationBoost u) s = .next s) ∧
  (ready → 65536 ≤ s.cycles - x.lastIssue → ∃ t, exec (.starvationBoost u) s = .next t ∧ t.thread u = { x with boost := true } ∧ (∀ w, w ≠ u → t.thread w = s.thread w) ∧
    t = { s with th := t.th, threads := t.threads }) ∧
  (¬(ready ∧ 2 ^ 24 * (x.starved + 1) ≤ s.cycles - x.lastIssue) → exec (.starvation u) s = .next s) ∧
  (ready → 2 ^ 24 * (x.starved + 1) ≤ s.cycles - x.lastIssue → ∃ t, exec (.starvation u) s = .next t ∧ t.thread u = { x with starved := x.starved + 1 } ∧
    (t.ctx x.ctx).events = (s.ctx x.ctx).events.push s.logCap (eventRecord x.pc.toNat (s.ownerOf x).toNat x.ctx 0x01) ∧ (∀ w, w ≠ u → t.thread w = s.thread w)) ∧
  (¬due 1 core s.cycles 4096 → exec (.localityScoreHalving core) s = .next s) ∧
  (due 1 core s.cycles 4096 → ∃ t, exec (.localityScoreHalving core) s = .next t ∧ ∀ w, listed w →
    (runsOn w → t.thread w = { s.thread w with score := (s.thread w).score / 2 }) ∧ (¬runsOn w → t.thread w = s.thread w)) ∧
  (¬due 2 core s.cycles 1024 → exec (.allowanceStep core) s = .next s) ∧
  (due 2 core s.cycles 1024 → ∃ t, exec (.allowanceStep core) s = .next t ∧ (∀ k, k ≠ core → t.core k = s.core k) ∧
    ∀ i < 5, steps[i]? = some (s.core core).allowance → ∀ j, (1024 < sum → j = min 4 (i + 1)) → (sum < 512 → j = i - 1) → (512 ≤ sum → sum ≤ 1024 → j = i) →
      ∃ a, steps[j]? = some a ∧ t.core core = { s.core core with allowance := a }) ∧
  (s.blocksOn core ≠ [] ∨ s.cycles - (s.core core).idleSince < 1024 → exec (.allowanceReset core) s = .next s) ∧
  (s.blocksOn core = [] → 1024 ≤ s.cycles - (s.core core).idleSince → ∃ t, exec (.allowanceReset core) s = .next t ∧ t.core core = { s.core core with allowance := 32 } ∧
    (∀ k, k ≠ core → t.core k = s.core k) ∧ t = { s with cores := t.cores }) ∧
  (b.queues.get? q = none → exec (.queueExtension blk q) s = .next s) ∧
  (∀ z, b.queues.get? q = some z →
    let asks := (∃ w ∈ roleOf z.producer, pushes w) ∧ ∃ w ∈ roleOf z.consumer, blocked w
    (¬asks → exec (.queueExtension blk q) s = .next s) ∧
    (asks → z.segBytes ≤ (s.ctx b.ctx).overFree → ∃ t, exec (.queueExtension blk q) s = .next t ∧ (t.ctx b.ctx).overFree = (s.ctx b.ctx).overFree - z.segBytes ∧
      t.block blk = { b with queues := b.queues.set q { z with segs := z.segs ++ [(false, [])] } } ∧ (∀ w, t.thread w = s.thread w)) ∧
    (asks → (s.ctx b.ctx).overFree < z.segBytes → small → ∃ t, exec (.queueExtension blk q) s = .next t ∧ t.block blk = b ∧ walked t ∧
      ∀ l1 l2 w, roleOf z.producer = l1 ++ w :: l2 → pushes w → (∀ y ∈ l1, ¬pushes y) → (¬dead w → trapped t w 0x1A 0) ∧ sameWaves t fun y => dead y ∨ y = w)) ∧
  ((∀ w ∈ b.waves, ¬longer (2 ^ 20) w) → exec (.waitGraphWalk blk) s = .next s) ∧
  ((∃ w ∈ b.waves, longer (2 ^ 20) w) → small → ∃ t, exec (.waitGraphWalk blk) s = .next t ∧ t.block blk = b ∧ walked t ∧ sameWaves t dead) ∧
  (¬due 3 (blk * 16 + q) s.cycles 1024 → exec (.quotaMove blk q) s = .next s) ∧
  (∀ z, due 3 (blk * 16 + q) s.cycles 1024 → b.queues.get? q = some z → z.producer ≠ z.consumer →
    let full := z.full = true ∧ waitsOn z.producer (.queuePush q)
    let empty := z.count = 0 ∧ waitsOn z.consumer (.queuePop q)
    let fixed := ∃ w ∈ roleOf z.producer ++ roleOf z.consumer, (s.thread w).fixq = true
    (fixed ∨ (¬full ∧ ¬empty) → ∃ t, exec (.quotaMove blk q) s = .next t ∧ idle t) ∧
    (¬fixed → ∀ g t' (r : Role) g1 g2 t1 t2, (full ∧ g = z.producer ∧ t' = z.consumer) ∨ (¬full ∧ empty ∧ g = z.consumer ∧ t' = z.producer) → b.roles[g]? = some r →
      roleOf g = g1 ++ u :: g2 → (∀ w ∈ g1, (s.thread w).quota < x.quota) → (∀ w ∈ g2, (s.thread w).quota ≤ x.quota) →
      roleOf t' = t1 ++ v :: t2 → (∀ w ∈ t1, (s.thread v).quota < (s.thread w).quota) → (∀ w ∈ t2, (s.thread v).quota ≤ (s.thread w).quota) →
      x.partner = none → (s.thread v).partner = none →
      (x.quota < r.minQuota + 8 → ∃ t, exec (.quotaMove blk q) s = .next t ∧ idle t) ∧
      (r.minQuota + 8 ≤ x.quota → ∃ t, exec (.quotaMove blk q) s = .next t ∧ t.thread u = { x with quota := x.quota - 8, bound := x.bound.take (x.quota - 8) } ∧
        t.thread v = { s.thread v with quota := (s.thread v).quota + 8, bound := (s.thread v).bound.take ((s.thread v).quota + 8) } ∧
        ∀ w, w ≠ u → w ≠ v → t.thread w = s.thread w))) ∧
  (s.mayPreempt b = true ↔ ∃ k, s.tasks.get? b.task = some k ∧ k.record.cls ≠ 0 ∧ (k.slot = none ∨ ∃ p ∈ s.tasks, s.seeks p.2 = true ∧
    if k.record.cls = 1 then p.2.eff = 7 ∨ p.2.record.cls = 0 else k.eff ≤ p.2.eff)) ∧
  (b.resident = false ∨ b.started = false ∨ s.mayPreempt b = false → exec (.preemption blk) s = .next s) ∧
  (b.resident = true → b.started = true → s.mayPreempt b = true → quiet → ∃ t, exec (.preemption blk) s = .next t ∧
    t.block blk = { b with resident := false, pages := [], savedLat := (s.core b.core).latq.filter (·.blk = blk), savedBar := [] } ∧
    (t.core b.core).latq = (s.core b.core).latq.filter (·.blk ≠ blk) ∧
    (∀ w, listed w → (s.thread w).blk = blk → (s.thread w).core < 512 → t.thread w =
      { (s.thread w).abortAll 5 with life := if (s.thread w).life = .running then .saved else (s.thread w).life, out := [], locking := [] }) ∧
    (∀ w, s.home.get? w = some (.registered o) → t.home.get? w = some (.valid (s.ownerData o w))) ∧ (∀ w, t.home.get? w ≠ some (.registered o)) ∧ t.tier = s.tier) ∧
  (¬mayGo → exec (.blockResume blk core) s = .next s) ∧
  (mayGo → (∀ w ∈ b.waves, listed w ∧ (s.thread w).blk = blk ∧ (s.thread w).core = b.core ∧ (s.thread w).core < 512) → b.waves.Nodup →
    (if b.dual = true then b.waves.length ≤ (s.slotPairs core).length ∧ (∀ w ∈ b.waves, ∃ v, (s.thread w).partner = some v ∧ listed v ∧ v ∉ b.waves) ∧
        (b.waves.filterMap fun w => (s.thread w).partner).Nodup
      else b.waves.length ≤ (s.freeWaveSlots core).length) → ∃ t, exec (.blockResume blk core) s = .next t ∧
    (t.block blk).resident = true ∧ (t.block blk).core = core ∧ (t.block blk).ls = b.ls ∧ (t.block blk).tags = b.tags ∧ (t.block blk).bars = b.bars ∧
    (t.block blk).queues = b.queues ∧ (t.block blk).tmpls = b.tmpls ∧ (t.block blk).savedBar = [] ∧ (t.core core).latq = (s.core core).latq ++ b.savedLat ∧
    (t.core core).barrow = (s.core core).barrow ++ b.savedBar ∧
    (∀ w ∈ b.waves, ((s.thread w).life = .exited → t.thread w = s.thread w) ∧
      (stays w → ∃ k : Option Wait, k.map (fun y => { y with fail := none }) = (s.thread w).wait.map (fun y => { y with fail := none }) ∧
        t.thread w = { s.thread w with
          core := core, wslot := (t.thread w).wslot, life := if (s.thread w).life = .saved then .running else (s.thread w).life, score := 0, lastIssue := s.cycles
          starved := 0, wait := k })) ∧
    (∀ w v, stays w → b.dual = true → (s.thread w).partner = some v → (t.thread v).core = core ∧ (t.thread v).wslot / 8 = (t.thread w).wslot / 8)) ∧
  (s.now / 10000000 ≤ s.windowNo → exec .budgetWindowStart s = .next s) ∧
  (s.windowNo < s.now / 10000000 → ∃ t, exec .budgetWindowStart s = .next t ∧ t = { s with windowNo := s.now / 10000000, windowAdmitted := 0, ctxs := t.ctxs } ∧
    ∀ k, t.ctx k = { s.ctx k with admitted := 0 }) ∧
  (∃ t, exec (.energyCharge c nj) s = .next t ∧ t = { s with ctxs := t.ctxs } ∧ (∀ k, k ≠ c → t.ctx k = s.ctx k) ∧
    t.ctx c = { s.ctx c with energy := (t.ctx c).energy, remainder := (t.ctx c).remainder } ∧ (t.ctx c).remainder < 1000 ∧
    1000 * (t.ctx c).energy + (t.ctx c).remainder = 1000 * (s.ctx c).energy + (s.ctx c).remainder + nj) ∧
  (¬due 4 0 s.now 1000000 → exec (.clockPlannerStep watts) s = .next s) ∧
  (due 4 0 s.now 1000000 → ∃ t, exec (.clockPlannerStep watts) s = .next t ∧ t = { s with marks := t.marks, mhz := t.mhz } ∧
    (2400 < watts → t.mhz = max 950 (s.mhz - 95)) ∧ (watts < 2300 → s.mhz ≤ 1900 → t.mhz = min 1900 (s.mhz + 95)) ∧ (2300 ≤ watts → watts ≤ 2400 → t.mhz = s.mhz))

/-! ### The service runtime, the package's care of itself, and the host -/

/-- R12, R31, R255, R385, R391, R394, R395, R400, R402, R403, R411 to R413, R417 to R419, R422: contexts, pools and Trellis identifiers; a request
that crosses dies and is sent once more before its die counts as lost; dies that are lost, with the trap their contexts take, or go offline;
scrub, freeze and the test port; host accesses, bring-up, the pins, attestation and the package reset. The model's own are: the first bytes
of an answer, which are SPDM's (log 45); host memory and the model's own fields, which a package reset keeps (log 43); how a request is
named and where its issue is not recorded (logs 31, 32); the register an image is measured into, and the number and routes that bring-up
carries (logs 44, 75); what becomes of a lost die's blocks (log 73); TRAPINFO 0 of DIE_LOST (log 15). -/
def Obligations.ServiceAndHostEvents : Prop := ∀ (s : State) (p : CtxParams) (id c n a m die port pa pkg : Nat) (r' : PartName) (pcie : List Bool) (routes : List (Nat × List Nat)) (tasks : List Nat) (bytes : List Byte)
    (images : List (List Byte)) (straps fwd caps : List Nat) (sel hosts : List Bool) (ok : Bool) (v : Word) (nonce : List Byte), s.unitsOk →
  let listed (w : Nat) : Prop := w = s.th.uid ∨ s.threads.has w = true
  let d := die % 4
  let state (t : State) (k : Nat) : Nat := t.dies.states.getD k 0
  let lost (t : State) (d : Nat) : Prop := state t d = 3 ∧ (∀ k, k ≠ d → state t k = state s k) ∧
    (∀ w, listed w → (s.thread w).core / 128 = d → (s.thread w).life = .running → (t.thread w).life = .stopped) ∧
    (∀ i < 8, t.failed.get? (8 * d + i) = some s.now) ∧ (d < 2 → d < s.host.linkUp.length → t.host.linkUp.getD d true = false) ∧
    ((∃ k, k ≠ d ∧ s.dieOnline k = true) → ∀ w, listed w → (s.thread w).core / 128 ≠ d → (s.ctx (s.thread w).ctx).tdmask.getLsbD d = false → (t.thread w).async = (s.thread w).async ∧ (t.thread w).life = (s.thread w).life) ∧
    (∀ w, listed w → (s.thread w).core / 128 ≠ d → (s.ctx (s.thread w).ctx).tdmask.getLsbD d = true → (s.thread w).gone = false →
      (∀ y, listed y → (s.thread y).ctx = (s.thread w).ctx → (s.thread y).trapMode = false ∧ (s.thread y).partner = none ∧ (s.thread y).shadow = false ∧ (s.thread y).tvec ≠ 0) →
      let z := t.thread w
      z.trapMode = true ∧ z.trapcause = 0x113 ∧ z.trappc = (s.thread w).pc ∧ z.trapaddr = 0 ∧ z.trapinfo = 0 ∧ z.pc = (s.thread w).tvec ∧ z.life = (s.thread w).life)
  let word := pa / 4
  let br := mkOwner 3 s.pkg port port 0
  let attached := port < 2 ∧ s.host.hostRole.getD port false = true ∧ s.host.hasHost.getD port false = true ∧ s.host.linkUp.getD port false = true
  let live := attached ∧ s.host.pcie.getD port false = false
  let opens := s.dies.states.getD (homeDie (4 * word)) 0 < 3 ∧ s.unlocked s.pkg (2 ^ 40) (4 * word) 4 = true
  let reach (k : Nat) : Prop := s.host.ready = true ∧ pa / 2 ^ 45 < 2 ∧ s.spaceOk pa k = true
  let races (t : State) (need : Nat) : Prop := ∀ y, s.home.get? word = some (.registered y) →
    ∃ e, e = leBytes 8 (4 * word) ++ leBytes 4 br.toNat ++ leBytes 1 need ++ leBytes 1 4 ++ leBytes 1 (s.ownerScope y word) ++ [0] ∧
      t.ctx (s.ownerCtx y word) = { s.ctx (s.ownerCtx y word) with races := (s.ctx (s.ownerCtx y word)).races.push s.logCap e }
  let refuses := ∃ y, s.home.get? word = some (.registered y) ∧ y ≠ br ∧ s.ownerScope y word < 4
  let heldLine := (s.lines.get? (lineOf word)).any (fun l => l.ue = none) = true
  let good := s.memPoison.has word = false ∧ ∀ y, s.home.get? word = some (.registered y) → s.ownerBad y word = false
  let reads (t : State) (r : Option Nat) : Prop := t.host.reads = s.host.reads ++ [r] ∧ t.home = s.home ∧ t.tier = s.tier
  let stage (k : Nat) : Prop := s.host.stage = k ∧ s.host.code = 0
  let r : State := { State.reset with host := { HostSide.reset with mem := s.host.mem }, agenda := s.agenda, free := s.free, logCap := s.logCap }
  let packed := straps.getD 0 0 % 4 + straps.getD 1 0 % 4 * 4 + straps.getD 2 0 % 4 * 16 + straps.getD 3 0 % 4 * 64
  let distinct := ∀ i < 4, ∀ j < i, straps.getD i 0 % 4 ≠ straps.getD j 0 % 4
  let agree := ∀ i < 4, straps.getD (fwd.getD i 0) 0 % 4 = (straps.getD i 0 % 4 + 1) % 4
  let measured (old new : List (List Byte)) : Prop := images.length ≤ 8 → old.length = 8 → ∀ i < 8,
    new.getD i [] = match images[i]? with
      | some x => Config.sha512 (old.getD i [] ++ Config.sha512 x)
      | none => old.getD i []
  let answers (i : Instr) (f : List Byte → Prop) : Prop := (¬attached → exec i s = .next s) ∧
    (attached → ∃ bs, f bs ∧ exec i s = .next { s with host := { s.host with doe := s.host.doe ++ [bs] } })
  (let q := s.ctx p.ctx
   ((q.live = true ∧ q.terminated = false) ∨ s.host.code ≠ 0 ∨ s.host.ready = false → exec (.contextCreation p) s = .next s) ∧
   (q.live = false ∨ q.terminated = true → s.host.code = 0 → s.host.ready = true → ∃ t, exec (.contextCreation p) s = .next t ∧ t = { s with ctxs := t.ctxs } ∧ (∀ k, k ≠ p.ctx → t.ctx k = s.ctx k) ∧
     (t.ctx p.ctx).live = true ∧ (t.ctx p.ctx).terminated = false ∧ (t.ctx p.ctx).budget = p.budget % 2 ^ 32 ∧ (t.ctx p.ctx).energy = 0 ∧ (t.ctx p.ctx).ptroot = p.ptroot / 2 ^ 11 * 2 ^ 11 ∧ (t.ctx p.ctx).packages = p.packages ∧
     (t.ctx p.ctx).spillFree = p.spillPages * 65536 ∧ (t.ctx p.ctx).overFree = p.overPages * 65536 ∧ (∀ x ∈ (t.ctx p.ctx).poolPages, x ∉ s.retired))) ∧
  ((s.ctx c).live = false → exec (.poolEnlargement c n a) s = .next s) ∧
  ((s.ctx c).live = true → ∃ t, exec (.poolEnlargement c n a) s = .next t ∧ t = { s with ctxs := t.ctxs } ∧ (∀ k, k ≠ c → t.ctx k = s.ctx k) ∧
    t.ctx c = { s.ctx c with spillFree := (s.ctx c).spillFree + n * 65536, overFree := (s.ctx c).overFree + a * 65536 }) ∧
  (64 ≤ id ∨ 4 < tasks.length ∨ n = 0 ∨ 65535 < n → exec (.trellisIdentifierBinding id c tasks n) s = .next s) ∧
  (id < 64 → tasks.length ≤ 4 → 1 ≤ n → n ≤ 65535 → ∃ t y, exec (.trellisIdentifierBinding id c tasks n) s = .next t ∧ t = { s with trellis := t.trellis } ∧
    t.trellis.get? id = some y ∧ y.ctx = c ∧ y.tasks = tasks ∧ y.n = n ∧ y.count = 0 ∧ y.gen = false ∧ y.status = 0 ∧ ∀ k, k ≠ id → t.trellis.get? k = s.trellis.get? k) ∧
  (let ev := Instr.crossDieTimeout r'
   let mine (x : CrossReq) : Prop := x.req = r'
   (s.crossing r' = none → ∃ t, exec ev s = .next t ∧ t = { s with crossings := t.crossings } ∧ ∀ x, x ∈ t.crossings ↔ x ∈ s.crossings ∧ ¬mine x) ∧
   (∀ core k issued, s.crossing r' = some (core, k, issued) →
     let now := s.countAt core
     let sent (tries : Nat) : CrossReq := ⟨r', dieOf core, k, decide ((dieOf core + 2) % 4 = k), tries, now⟩
     core < 512 ∧ k ≠ dieOf core ∧
     ((∀ x ∈ s.crossings, ¬mine x) → (∀ t0, issued = some t0 → now - t0 < 100000 → exec ev s = .next s) ∧
       (∀ t0, issued = some t0 → 100000 ≤ now - t0 → exec ev s = .next { s with crossings := sent 1 :: s.crossings }) ∧
       (issued = none → exec ev s = .next { s with crossings := sent 0 :: s.crossings })) ∧
     (∀ x, s.crossings = [x] → mine x → (now - x.since < 100000 → exec ev s = .next s) ∧
       (100000 ≤ now - x.since → x.tries = 0 → exec ev s = .next { s with crossings := [sent 1] }) ∧
       (100000 ≤ now - x.since → x.tries ≠ 0 → k < 4 → s.dies.states.length = 4 → ∃ t, exec ev s = .next t ∧ t.crossings = [] ∧
         (2 ≤ state s k → t = { s with crossings := [] }) ∧ (state s k < 2 → lost t k))))) ∧
  (let key := d * 64 + 5
   let off := (s.skew.getD d 0).natAbs
   let ev := Instr.referenceCounterCompare d d
   (s.now / 10000 ≤ s.marks.getD key 0 → exec ev s = .next s) ∧
   (s.marks.getD key 0 < s.now / 10000 → off ≤ 100 ∨ 2 ≤ state s d → ∃ t, exec ev s = .next t ∧ t = { s with marks := t.marks }) ∧
   ((∀ x < 4, n ≤ x → x ≤ a → (s.skew.getD x 0).natAbs ≤ 100) → ∃ t, exec (.referenceCounterCompare n a) s = .next t ∧ t = { s with marks := t.marks }) ∧
   (s.marks.getD key 0 < s.now / 10000 → 100 < off → state s d < 2 → s.dies.states.length = 4 → ∃ t, exec ev s = .next t ∧ lost t d)) ∧
  (state s d ≠ 1 → exec (.dieDrainCompletion die) s = .next s) ∧
  (state s d = 1 → (∃ x ∈ s.pagesOn d, s.pinned x = true) → exec (.dieDrainCompletion die) s = .next s) ∧
  (state s d = 1 → (∀ x ∈ s.pagesOn d, s.pinned x = false) → (∀ q ∈ s.blocks, q.2.resident = true → dieOf q.2.core ≠ d) → (∀ q ∈ s.cores, q.1 < 512 → dieOf q.1 = d → q.2.rotation = []) →
    (s.pagesOn d = [] → s.dies.states.length = 4 → ∃ t, exec (.dieDrainCompletion die) s = .next t ∧ state t d = 2 ∧ (∀ k, k ≠ d → state t k = state s k) ∧ t.dies.result = 1 ∧
      (∀ o, o / 2 ^ 26 = d → t.seed.read o = 0) ∧ (∀ o, o / 2 ^ 26 ≠ d → t.seed.read o = s.seed.read o) ∧ t = { s with dies := t.dies, seed := t.seed, seedPoison := t.seedPoison }) ∧
    (∀ x, s.pagesOn d = [x] →
      (s.movePage x d false = none → exec (.dieDrainCompletion die) s = .next { s with dies := { s.dies with result := 2, short := 1 } }) ∧
      (∀ t, s.movePage x d false = some t → ∃ z, exec (.dieDrainCompletion die) s = .next z ∧ z.dies.result = 1 ∧ z.home = t.home ∧ z.cores = t.cores ∧ z.ctxs = t.ctxs))) ∧
  (∀ b, state s d = 1 → (∀ x ∈ s.pagesOn d, s.pinned x = false) → (s.blocks.vals.filter fun q => q.resident && dieOf q.core = d) = [b] → b.started = false →
    s.findCore d (s.slotsUsed b) b.lsBytes b.accBanks b.regs b.cls b.dual = none → exec (.dieDrainCompletion die) s = .next { s with dies := { s.dies with result := 3 } }) ∧
  (let line := pa / 256
   (s.lines.get? line = none → exec (.patrolScrub pa) s = .next s) ∧
   (∀ l, s.lines.get? line = some l →
     (l.ue = none → exec (.patrolScrub pa) s = .next s) ∧
     (l.ue = some false → ∃ t, exec (.patrolScrub pa) s = .next t ∧ t = { s with lines := t.lines, err := t.err } ∧
       t.lines.get? line = some { l with ue := none }) ∧
     (l.ue = some true → l.dirty = false → s.err.rows = [] → s.err.plant = none → ∃ t, exec (.patrolScrub pa) s = .next t ∧
       (∀ l', t.lines.get? line = some l' → l'.ue = none ∧ l'.dirty = false) ∧ (∀ w, w / 64 = line → t.home.get? w = s.home.get? w) ∧ (∀ k, t.ctx k = s.ctx k) ∧
       (∀ w, listed w → t.thread w = s.thread w)) ∧
     (l.ue = some true → l.dirty = true → l.tag ≠ 0xFFFF → ∃ t, exec (.patrolScrub pa) s = .next t ∧ (t.ctx l.tag).terminated = true ∧ 256 * line / 2 ^ 16 ∈ t.retired ∧
       (1 < s.goodWays line → wayCode line l.way ∈ t.quarantined) ∧
       (∀ w, listed w → (s.thread w).ctx = l.tag → (s.thread w).core < 512 → (s.thread w).gone = false → (t.thread w).life = .stopped) ∧
       (∀ w, listed w → (s.thread w).ctx ≠ l.tag → (t.thread w).life = (s.thread w).life ∧ (t.thread w).pc = (s.thread w).pc ∧ (t.thread w).sreg = (s.thread w).sreg)))) ∧
  (s.now / 86400000000000 = s.err.period → exec .filterClear s = .next s) ∧
  (s.now / 86400000000000 ≠ s.err.period → exec .filterClear s = .next { s with err := { s.err with filter := [], period := s.now / 86400000000000 } }) ∧
  exec .freeze s = .next { s with frozen := true } ∧ exec .thaw s = .next { s with frozen := false } ∧
  (s.frozen = false → exec (.testPortRead n a) s = .next s) ∧
  (s.frozen = true → ∃ y, exec (.testPortRead n a) s = .next { s with test := s.test ++ [y] } ∧ (n = 0 → y = (s.homeVal (a / 4)).toNat) ∧ (n = 1 → y = s.seed.readN (a / 8 * 8) 8) ∧
    (n = 2 → y = ((s.thread (a / 128)).sreg.getD (a % 128) 0).toNat) ∧ (n = 3 → y = (s.block (a / 2 ^ 20)).ls.readN (a % 2 ^ 20) 1) ∧
    (n = 4 → ∀ e, s.l1 (a / 2 ^ 64) (a % 2 ^ 64) = some e → y = e.data.toNat) ∧
    (n = 6 → ∀ e, (s.thread (a / 2 ^ 16)).vreg.get? (a % 2 ^ 16 / 96) = some e → y = (e.getD (a % 96) 0).toNat)) ∧
  (s.host.ready = false → port < 2 → ∃ t, exec (.hostCxlMemRead port pa n) s = .next t ∧ reads t none) ∧
  (s.host.ready = true ∨ 2 ≤ port → ¬live → exec (.hostCxlMemRead port pa n) s = .next s) ∧
  (live → s.host.ready = true → ¬reach n → ∃ t, exec (.hostCxlMemRead port pa n) s = .next t ∧ reads t none ∧ t.host.racecnt = s.host.racecnt) ∧
  (live → s.pkg < 8192 → pa % 4 + n ≤ 4 → 0 < n → reach n → opens →
    (refuses → ∃ t, exec (.hostCxlMemRead port pa n) s = .next t ∧ reads t none ∧ t.host.racecnt = (s.host.racecnt + 1) % 2 ^ 16 ∧ t.host.raceRd = true ∧ t.host.raceWr = s.host.raceWr ∧ races t 6) ∧
    (¬refuses → heldLine → good → ∃ t, exec (.hostCxlMemRead port pa n) s = .next t ∧ reads t (some ((s.homeVal word).toNat / 2 ^ (8 * (pa % 4)) % 2 ^ (8 * n))) ∧
      t.host.racecnt = s.host.racecnt)) ∧
  (¬live ∨ ¬reach bytes.length → exec (.hostCxlMemWrite port pa bytes) s = .next s) ∧
  (live → s.pkg < 8192 → bytes.length = 4 → pa % 4 = 0 → reach 4 → opens →
    (refuses → ∃ t, exec (.hostCxlMemWrite port pa bytes) s = .next t ∧ t.home = s.home ∧ t.tier = s.tier ∧ t.cores = s.cores ∧
      t.host = { s.host with racecnt := (s.host.racecnt + 1) % 2 ^ 16, raceWr := true } ∧ races t 7) ∧
    (¬refuses → heldLine → ∃ t, exec (.hostCxlMemWrite port pa bytes) s = .next t ∧ t.home.get? word = some (.registered br) ∧
      (t.homeVal word).toNat = leNat bytes ∧ t.ownerScope br word = 4 ∧ t.memPoison.has word = false ∧ t.tier = s.tier ∧ (∀ k, k ≠ word → t.home.get? k = s.home.get? k))) ∧
  exec (.hstatClear v) s = .next { s with host := { s.host with raceRd := s.host.raceRd && !v.getLsbD 1, raceWr := s.host.raceWr && !v.getLsbD 0 } } ∧
  (2 ≤ port → exec (.hostPortLinkDown port) s = .next s) ∧
  (port < 2 → exec (.hostPortLinkDown port) s = .next { s with host := { s.host with linkUp := s.host.linkUp.set port false } }) ∧
  (port < 2 → s.host.hasHost.getD port false = true → state s port < 3 → exec (.hostPortLinkRetrain port) s = .next { s with host := { s.host with linkUp := s.host.linkUp.set port true } }) ∧
  (2 ≤ port ∨ s.host.hasHost.getD port false = false ∨ 3 ≤ state s port → exec (.hostPortLinkRetrain port) s = .next s) ∧
  exec .packageReset s = .next r ∧
  exec (.pwrgood false images straps fwd) s = .next { r with host := { r.host with stage := 1, code := 1 } } ∧
  (∃ t, exec (.pwrgood true images straps fwd) s = .next t ∧ t = { r with host := t.host } ∧ t.host.stage = 3 ∧ t.host.ready = false ∧ measured r.host.measure t.host.measure ∧
    (¬distinct → t.host.code = 2 ∧ t.host.detail = packed) ∧ (distinct → ¬agree → t.host.code = 2 ∧ t.host.detail = packed + 256) ∧ (distinct → agree → t.host.code = 0 ∧ t.host.detail = 0)) ∧
  (¬stage 3 → exec (.ucieLinkTraining ok images) s = .next s) ∧
  (stage 3 → ∃ t, exec (.ucieLinkTraining ok images) s = .next t ∧ t = { s with host := { s.host with stage := 4, code := t.host.code, measure := t.host.measure } } ∧
    t.host.code = (if ok then 0 else 3) ∧ measured s.host.measure t.host.measure) ∧
  (¬stage 4 → exec (.tier1ChannelTraining ok) s = .next s) ∧
  (stage 4 → exec (.tier1ChannelTraining ok) s = .next { s with host := { s.host with stage := 5, code := if ok then 0 else 4 } }) ∧
  (let ev := Instr.cxlPortTraining sel hosts ⟨caps, pcie, pkg, routes⟩
   (¬stage 5 → exec ev s = .next s) ∧
   (stage 5 → ∃ t, exec ev s = .next t ∧ t = { s with host := t.host, agenda := .runtimeUp pkg routes :: s.agenda } ∧
    t.host.stage = 6 ∧ t.host.ready = s.host.ready ∧ t.host.code = 0 ∧ t.host.measure = s.host.measure ∧
    (∀ i < 2, t.host.hostRole.getD i false = sel.getD i false ∧ t.host.hasHost.getD i false = (sel.getD i false && hosts.getD i false) ∧
      t.host.linkUp.getD i false = (sel.getD i false && hosts.getD i false) ∧ t.host.pcie.getD i false = pcie.getD i false) ∧
    ∀ i < 16, t.host.caps.getD i 0 ≤ 2 ^ 40 ∧ t.host.caps.getD i 0 % 2 ^ 28 = 0 ∧ (caps.getD i 0 ≤ 2 ^ 40 → t.host.caps.getD i 0 ≤ caps.getD i 0 ∧ caps.getD i 0 < t.host.caps.getD i 0 + 2 ^ 28) ∧
      (2 ^ 40 ≤ caps.getD i 0 → t.host.caps.getD i 0 = 2 ^ 40))) ∧
  (∀ rest, s.due = false → s.frozen = false → s.agenda = .runtimeUp pkg routes :: rest →
    (¬stage 6 → step s = .next { s with agenda := rest }) ∧
    (stage 6 → ∃ t, step s = .next t ∧ t = { s with agenda := rest, pkg := pkg % 8192, flows := t.flows, host := { s.host with stage := 7, ready := true } } ∧
      ∀ k r, routes = [(k, r)] → (t.flows.getD k Flow.reset).route = r)) ∧
  (attached → s.bar0Read port 0 = { s with host := { s.host with
    reads := s.host.reads ++ [some (s.host.detail * 2 ^ 32 + s.host.code * 2 ^ 8 + s.host.stage * 2 ^ 4 + if s.host.ready = true then 1 else 0)] } }) ∧
  (attached → s.bar0Read port 8 = { s with host := { s.host with
    reads := s.host.reads ++ [some (s.host.racecnt * 2 ^ 16 + (if s.host.raceRd = true then 2 else 0) + if s.host.raceWr = true then 1 else 0)] } }) ∧
  (s.alert = true ↔ s.host.code ≠ 0 ∨ s.eventsRead < s.events.records.length) ∧
  answers (.getVersion port) (fun bs => bs = [0x12, 0x04, 0x12]) ∧ answers (.getCapabilities port) (fun bs => bs = [0x12, 0x61] ++ leBytes 4 0x16) ∧
  answers (.negotiateAlgorithms ⟨port, n, a⟩) (fun bs => bs = [0x12, 0x63] ++ leBytes 4 (n / 2 ^ 6 % 2 * 2 ^ 6) ++ leBytes 4 (a / 2 ^ 2 % 2 * 2 ^ 2)) ∧ answers (.getDigests port) (fun bs => bs = [0x12, 0x01] ++ Config.sha512 Config.certChain) ∧
  answers (.getCertificate port n a m) (fun bs => (n = 0 → bs = [0x12, 0x02] ++ (Config.certChain.drop a).take m) ∧ (n ≠ 0 → bs = [0x12, 0x7F])) ∧
  answers (.challenge port nonce) (fun bs => ∃ x, x = Config.sha512 Config.certChain ++ nonce ∧ bs = [0x12, 0x03] ++ x ++ Config.sign x) ∧
  answers (.getMeasurements port n nonce) (fun bs => let report (x : List Byte) : Prop := bs = [0x12, 0x60] ++ (x ++ nonce) ++ Config.sign (x ++ nonce)
    (∀ i < 8, n = i + 1 → report (s.host.measure.getD i [])) ∧ (n = 0 → report [8]) ∧ (n = 255 → report s.host.measure.flatten) ∧
    (8 < n → n ≠ 255 → bs = [0x12, 0x7F]))

/-! ### The decoder, the step, reset and the machine's invariant -/

/-- R109, R112, R118, R172, R273, R403: a step takes the next turn of the agenda, and with none the running thread's next instruction:
the word at its pc is decoded and executed, a word that is no instruction raises ILLEGAL_INSTRUCTION, and a word its buffers do not
hold is fetched. What an error found in an eviction or the last command of an ended block leaves due comes first (R389, R394). Which agent
moves next is the model's (log 3). -/
def Obligations.StepRunsDecodedInstruction : Prop := ∀ (s : State) (w : W32) (i : Instr) (e : Reject) (u : Nat) (rest : List Turn) (a b c : Nat),
  (s.ready w → decodeWord w = .ok i → ∀ t, exec i s = .next t → step s = .next (if t.waiting = true then t.background else t)) ∧
  (s.ready w → decodeWord w = .error e → step s = exec (.illegalInstruction w) s) ∧
  (s.due = true → step s = .next s.care) ∧
  (s.due = false →
    (s.agenda = [] → s.runs = true → s.fetched = none → ∀ t, exec (.fetchFill ⟨s.th.uid, 0⟩) s = .next t → step s = .next (if t.waiting = true then t.background else t)) ∧
    (s.agenda = [] → s.runs = false → step s = .next s.background) ∧
    (s.agenda = .event i :: rest → s.frozen = false → step s = exec i { s with agenda := rest }) ∧
    (s.agenda = .event i :: rest → s.frozen = true → whileFrozen i = false → step s = .next { s with agenda := rest }) ∧
    (s.agenda = .event i :: rest → whileFrozen i = true → step s = exec i { s with agenda := rest }) ∧
    (s.agenda = .run u :: rest → step s = .next ({ s with agenda := rest }.switchTo u)) ∧
    (s.agenda = .preempt u :: rest → s.frozen = false → step s = exec (.preemption u) { s with agenda := rest }) ∧
    (s.agenda = .elapse a b c :: rest → s.frozen = false → step s = .next { s with agenda := rest, now := s.now + a, cycles := s.cycles + b, svcCycles := s.svcCycles + c }) ∧
    (∀ k, s.agenda = k :: rest → s.frozen = true → k ∈ [.elapse a b c, .preempt u, .windowHeld a b c, .clock a b, .drift a b, .take, .ended a b, .advance a b c] → step s = .next { s with agenda := rest }) ∧
    (s.agenda = .clock a b :: rest → s.frozen = false → step s = .next ({ s with agenda := rest }.modCore a fun k => { k with clk := k.clk + b })) ∧
    (∀ n : Int, s.agenda = .drift a n :: rest → s.frozen = false → step s = .next { s with agenda := rest, skew := s.skew.set a (s.skew.getD a 0 + n) }) ∧
    (∀ bs, s.agenda = .hostWrites a b bs :: rest → s.frozen = false →
      step s = .next { s with agenda := rest, host := { s.host with mem := s.host.mem.writeBytes (hostAddr a b) bs } }) ∧
    (s.agenda = .windowHeld a b c :: rest → s.frozen = false → step s = .next { s with agenda := rest, winAsks := s.winAsks.filter (· ≠ (a, b, c)) }) ∧
    (s.agenda = .take :: rest → s.frozen = false → step s = .next { s with agenda := rest, outbox := s.outbox.drop 1 }) ∧
    (s.agenda = .ended a b :: rest → s.frozen = false → (s.ctx a).live = true → (s.ctx a).terminated = false → step s = .next ({ s with agenda := rest }.terminateHere a b false))) ∧
  (s.frozen = true → s.background = s ∧ s.runs = false)

/-- R110, R111, R113, R116, R118: words written out from the encoding tables decode to what they stand for (major in bits 6:0, D in 13:7,
A in 20:14, B in 27:21, F in 31:28; IMM11 and OFF11 in 31:21, IMM18 in 31:14, OFF25 in 31:7). -/
def Obligations.DecodeSamples : Prop :=
  decodeWord 0b0000_0001100_0001011_0001010_0000001 = .ok (.add 10 11 12) ∧
  decodeWord 0b111111111111111111_0001010_0011010 = .ok (.ldi 10 0x3FFFF) ∧
  decodeWord 0b11111111111_0000010_0000001_0100000 = .ok (.beq 1 2 0x7FF) ∧
  decodeWord 0b00000000001_0000000_1111101_0100110 = .ok (.bnone 125 1) ∧
  decodeWord 0b0000000000000000000000011_0101001 = .ok (.jmp 3) ∧
  decodeWord 0b00000000100_0000011_0001010_0110100 = .ok (.lw 10 3 4) ∧
  decodeWord 0b0101_0001010_0000000_0000001_1000001 = .ok (.vandS 1 0 10) ∧
  decodeWord 0b0000_0000101_0000100_0000011_1001000 = .ok (.vfma 3 4 5) ∧
  decodeWord 0b0100_0000000_0000000_0000000_1001101 = .ok (.vlid 0) ∧
  decodeWord 0b0110_0000101_0000100_0000011_1010100 = .ok (.vld 3 4 5 .word .llc) ∧
  decodeWord 0b0000_0001011_0010100_0000000_1011100 = .ok (.amoAdd 0 20 11) ∧
  decodeWord 0b0010_0000000_0000001_0000000_1100000 = .ok (.acq 1 .pkg) ∧
  decodeWord 0b0011_0000000_0000010_0000001_1100111 = .ok (.nbwait 1 2) ∧
  decodeWord 0b0000_0000000_0000010_0000001_1101001 = .ok (.launch 1 2) ∧
  decodeWord 0b0000_0010101_0010100_0001010_1110000 = .ok (.mma 10 20 21 0 false) ∧
  decodeWord 0b1101_0010101_0010100_0001010_1111010 = .ok (.copym 10 20 21 true 3) ∧
  decodeWord 0b0000_0010101_0010100_0000000_1111011 = .ok (.sbradd 20 21) ∧
  decodeWord 0b0000_0010101_0010100_0000111_1111100 = .ok (.rredOr 20 21) ∧
  decodeWord 0b00000011010_0000000_0001010_0101101 = .ok (.csrr 10 0x01A) ∧
  decodeWord 0b0010_0000000_0000101_0000000_1111101 = .ok (.pgres 5) ∧
  decodeWord 0b0000_0000000_0000000_0000000_0000000 = .error .illegalMajor ∧
  decodeWord 0b0001_0000000_0000000_0000000_0000101 = .error .reservedF ∧
  decodeWord 0b0000_0000000_0000000_0000001_1100110 = .error .nonzeroField ∧
  decodeWord 0b00000000001_0000000_1111110_0100110 = .error .tripleRange

/-- R110, R111, R113, R116, R118: the decoder gives every well-formed instruction back from its word with every operand at every value, and a word
it accepts is the word of the well-formed instruction it answers: no two instructions share a word and no bit of a word is dropped. -/
def Obligations.DecodeEncodeAgree : Prop :=
  (∀ i : Instr, i.wf = true → isWord i → decodeWord (encode i) = .ok i) ∧
  (∀ (w : W32) (i : Instr), decodeWord w = .ok i → i.wf = true ∧ isWord i ∧ encode i = w) ∧
  (∀ (w : W32) (rest : List Byte), decode (leBytes 4 w.toNat ++ rest) = match decodeWord w with
    | .ok i => .ok (i, rest)
    | .error e => .error e)

/-- R4, R20, R52, R172, R401, R404, R417, R418: the package right after reset: the running thread's scalar registers, pc, FSTAT, FRM, MSTAT,
TVEC, WTIMEOUT and TRAPCAUSE 0, with nothing outstanding; every other thread and every block in its reset state; no task and no context,
nothing registered, every die ONLINE, every core's allowance 32, the clock at 1900 MHz, bring-up at stage 0. Frailor core 0 as the running
thread, memory reading 0, QUOTA reading 64 and each 0 the manual does not state are the model's (logs 1, 2, 3, 60). -/
def Obligations.ResetState : Prop :=
  let s := State.reset
  s.memWf ∧ s.unitsOk ∧ (∀ a, s.tier.read a = 0 ∧ s.seed.read a = 0 ∧ s.host.mem.read a = 0) ∧ (∀ w, s.homeVal w = 0 ∧ s.home.get? w = none) ∧
  s.th.core = 512 ∧ s.th.quota = 64 ∧ s.th.fixq = false ∧ (∀ r, s.sget r = 0) ∧ s.th.pc = 0 ∧ s.th.fstat = 0 ∧ s.th.frm = 0 ∧ s.th.mstat = 0 ∧ s.th.tvec = 0 ∧ s.th.wtimeout = 0 ∧ s.th.trapcause = 0 ∧
  s.th.tx.isOpen = false ∧ s.th.out = [] ∧ s.th.pending = [] ∧ s.th.trapMode = false ∧ s.th.life = .running ∧
  (∀ u, u ≠ 512 → s.thread u = Thread.reset u) ∧ (∀ b, s.block b = Block.reset b) ∧ (∀ c, (s.core c).allowance = 32 ∧ (s.core c).l1 = [] ∧ (s.core c).latq = []) ∧
  (∀ c, (s.ctx c).live = false) ∧ s.tasks = [] ∧ (∀ d < 4, s.dies.states[d]? = some 0) ∧ s.mhz = 1900 ∧ s.now = 0 ∧ s.frozen = false ∧
  s.host.bootstat = 0 ∧ s.host.hstat = 0 ∧ s.err = Errors.reset ∧ s.down = 0 ∧ s.unreach = 0 ∧ s.reroute = 0 ∧ s.replayed = 0 ∧
  (∀ m ∈ s.host.measure, m = List.replicate 64 0) ∧ s.host.measure.length = 8

/-- Every step of the machine keeps the byte memories in their canonical form, and its units listed once each under their own numbers. -/
def Obligations.StepKeepsInvariant : Prop := ∀ s t : State, s.memWf → s.unitsOk → step s = .next t → t.memWf ∧ t.unitsOk
end

