-- ==== Sys2Proof/Laws/Dispatch.lean ====
section
/-! SUPPORT. The meaning each constructor has: exec's arms as equations, which proofs rewrite by. -/

set_option Elab.async false

namespace Sys2Proof.Machine

open Sys2Proof

theorem exec_add (d : Reg) (a : Reg) (b : Reg) (s : State) : exec (.add d a b) s = execAdd d a b s := rfl
theorem exec_sub (d : Reg) (a : Reg) (b : Reg) (s : State) : exec (.sub d a b) s = execSub d a b s := rfl
theorem exec_and (d : Reg) (a : Reg) (b : Reg) (s : State) : exec (.and d a b) s = execAnd d a b s := rfl
theorem exec_or (d : Reg) (a : Reg) (b : Reg) (s : State) : exec (.or d a b) s = execOr d a b s := rfl
theorem exec_xor (d : Reg) (a : Reg) (b : Reg) (s : State) : exec (.xor d a b) s = execXor d a b s := rfl
theorem exec_andn (d : Reg) (a : Reg) (b : Reg) (s : State) : exec (.andn d a b) s = execAndn d a b s := rfl
theorem exec_sll (d : Reg) (a : Reg) (b : Reg) (s : State) : exec (.sll d a b) s = execSll d a b s := rfl
theorem exec_srl (d : Reg) (a : Reg) (b : Reg) (s : State) : exec (.srl d a b) s = execSrl d a b s := rfl
theorem exec_sra (d : Reg) (a : Reg) (b : Reg) (s : State) : exec (.sra d a b) s = execSra d a b s := rfl
theorem exec_min (d : Reg) (a : Reg) (b : Reg) (s : State) : exec (.min d a b) s = execMin d a b s := rfl
theorem exec_max (d : Reg) (a : Reg) (b : Reg) (s : State) : exec (.max d a b) s = execMax d a b s := rfl
theorem exec_minu (d : Reg) (a : Reg) (b : Reg) (s : State) : exec (.minu d a b) s = execMinu d a b s := rfl
theorem exec_maxu (d : Reg) (a : Reg) (b : Reg) (s : State) : exec (.maxu d a b) s = execMaxu d a b s := rfl
theorem exec_slt (d : Reg) (a : Reg) (b : Reg) (s : State) : exec (.slt d a b) s = execSlt d a b s := rfl
theorem exec_sltu (d : Reg) (a : Reg) (b : Reg) (s : State) : exec (.sltu d a b) s = execSltu d a b s := rfl
theorem exec_seq (d : Reg) (a : Reg) (b : Reg) (s : State) : exec (.seq d a b) s = execSeq d a b s := rfl
theorem exec_addW (d : Reg) (a : Reg) (b : Reg) (s : State) : exec (.addW d a b) s = execAddW d a b s := rfl
theorem exec_subW (d : Reg) (a : Reg) (b : Reg) (s : State) : exec (.subW d a b) s = execSubW d a b s := rfl
theorem exec_andW (d : Reg) (a : Reg) (b : Reg) (s : State) : exec (.andW d a b) s = execAndW d a b s := rfl
theorem exec_orW (d : Reg) (a : Reg) (b : Reg) (s : State) : exec (.orW d a b) s = execOrW d a b s := rfl
theorem exec_xorW (d : Reg) (a : Reg) (b : Reg) (s : State) : exec (.xorW d a b) s = execXorW d a b s := rfl
theorem exec_andnW (d : Reg) (a : Reg) (b : Reg) (s : State) : exec (.andnW d a b) s = execAndnW d a b s := rfl
theorem exec_sllW (d : Reg) (a : Reg) (b : Reg) (s : State) : exec (.sllW d a b) s = execSllW d a b s := rfl
theorem exec_srlW (d : Reg) (a : Reg) (b : Reg) (s : State) : exec (.srlW d a b) s = execSrlW d a b s := rfl
theorem exec_sraW (d : Reg) (a : Reg) (b : Reg) (s : State) : exec (.sraW d a b) s = execSraW d a b s := rfl
theorem exec_minW (d : Reg) (a : Reg) (b : Reg) (s : State) : exec (.minW d a b) s = execMinW d a b s := rfl
theorem exec_maxW (d : Reg) (a : Reg) (b : Reg) (s : State) : exec (.maxW d a b) s = execMaxW d a b s := rfl
theorem exec_minuW (d : Reg) (a : Reg) (b : Reg) (s : State) : exec (.minuW d a b) s = execMinuW d a b s := rfl
theorem exec_maxuW (d : Reg) (a : Reg) (b : Reg) (s : State) : exec (.maxuW d a b) s = execMaxuW d a b s := rfl
theorem exec_sltW (d : Reg) (a : Reg) (b : Reg) (s : State) : exec (.sltW d a b) s = execSltW d a b s := rfl
theorem exec_sltuW (d : Reg) (a : Reg) (b : Reg) (s : State) : exec (.sltuW d a b) s = execSltuW d a b s := rfl
theorem exec_seqW (d : Reg) (a : Reg) (b : Reg) (s : State) : exec (.seqW d a b) s = execSeqW d a b s := rfl
theorem exec_mul (d : Reg) (a : Reg) (b : Reg) (s : State) : exec (.mul d a b) s = execMul d a b s := rfl
theorem exec_mulh (d : Reg) (a : Reg) (b : Reg) (s : State) : exec (.mulh d a b) s = execMulh d a b s := rfl
theorem exec_mulhu (d : Reg) (a : Reg) (b : Reg) (s : State) : exec (.mulhu d a b) s = execMulhu d a b s := rfl
theorem exec_mulhm (d : Reg) (a : Reg) (b : Reg) (s : State) : exec (.mulhm d a b) s = execMulhm d a b s := rfl
theorem exec_div (d : Reg) (a : Reg) (b : Reg) (s : State) : exec (.div d a b) s = execDiv d a b s := rfl
theorem exec_divu (d : Reg) (a : Reg) (b : Reg) (s : State) : exec (.divu d a b) s = execDivu d a b s := rfl
theorem exec_rem (d : Reg) (a : Reg) (b : Reg) (s : State) : exec (.rem d a b) s = execRem d a b s := rfl
theorem exec_remu (d : Reg) (a : Reg) (b : Reg) (s : State) : exec (.remu d a b) s = execRemu d a b s := rfl
theorem exec_mulW (d : Reg) (a : Reg) (b : Reg) (s : State) : exec (.mulW d a b) s = execMulW d a b s := rfl
theorem exec_divW (d : Reg) (a : Reg) (b : Reg) (s : State) : exec (.divW d a b) s = execDivW d a b s := rfl
theorem exec_divuW (d : Reg) (a : Reg) (b : Reg) (s : State) : exec (.divuW d a b) s = execDivuW d a b s := rfl
theorem exec_remW (d : Reg) (a : Reg) (b : Reg) (s : State) : exec (.remW d a b) s = execRemW d a b s := rfl
theorem exec_remuW (d : Reg) (a : Reg) (b : Reg) (s : State) : exec (.remuW d a b) s = execRemuW d a b s := rfl
theorem exec_clz (d : Reg) (a : Reg) (s : State) : exec (.clz d a) s = execClz d a s := rfl
theorem exec_ctz (d : Reg) (a : Reg) (s : State) : exec (.ctz d a) s = execCtz d a s := rfl
theorem exec_popc (d : Reg) (a : Reg) (s : State) : exec (.popc d a) s = execPopc d a s := rfl
theorem exec_bswap (d : Reg) (a : Reg) (s : State) : exec (.bswap d a) s = execBswap d a s := rfl
theorem exec_brev (d : Reg) (a : Reg) (s : State) : exec (.brev d a) s = execBrev d a s := rfl
theorem exec_sextb (d : Reg) (a : Reg) (s : State) : exec (.sextb d a) s = execSextb d a s := rfl
theorem exec_sexth (d : Reg) (a : Reg) (s : State) : exec (.sexth d a) s = execSexth d a s := rfl
theorem exec_sextw (d : Reg) (a : Reg) (s : State) : exec (.sextw d a) s = execSextw d a s := rfl
theorem exec_zextb (d : Reg) (a : Reg) (s : State) : exec (.zextb d a) s = execZextb d a s := rfl
theorem exec_zexth (d : Reg) (a : Reg) (s : State) : exec (.zexth d a) s = execZexth d a s := rfl
theorem exec_zextw (d : Reg) (a : Reg) (s : State) : exec (.zextw d a) s = execZextw d a s := rfl
theorem exec_csel (d : Reg) (a : Reg) (b : Reg) (s : State) : exec (.csel d a b) s = execCsel d a b s := rfl
theorem exec_mand3 (d : Reg) (a : Reg) (b : Reg) (s : State) : exec (.mand3 d a b) s = execMand3 d a b s := rfl
theorem exec_mor3 (d : Reg) (a : Reg) (b : Reg) (s : State) : exec (.mor3 d a b) s = execMor3 d a b s := rfl
theorem exec_mandn3 (d : Reg) (a : Reg) (b : Reg) (s : State) : exec (.mandn3 d a b) s = execMandn3 d a b s := rfl
theorem exec_mxor3 (d : Reg) (a : Reg) (b : Reg) (s : State) : exec (.mxor3 d a b) s = execMxor3 d a b s := rfl
theorem exec_mnot3 (d : Reg) (a : Reg) (s : State) : exec (.mnot3 d a) s = execMnot3 d a s := rfl
theorem exec_mcnt3 (d : Reg) (a : Reg) (s : State) : exec (.mcnt3 d a) s = execMcnt3 d a s := rfl
theorem exec_mfirst3 (d : Reg) (a : Reg) (s : State) : exec (.mfirst3 d a) s = execMfirst3 d a s := rfl
theorem exec_addi (d : Reg) (a : Reg) (im : BitVec 11) (s : State) : exec (.addi d a im) s = execAddi d a im s := rfl
theorem exec_andi (d : Reg) (a : Reg) (im : BitVec 11) (s : State) : exec (.andi d a im) s = execAndi d a im s := rfl
theorem exec_ori (d : Reg) (a : Reg) (im : BitVec 11) (s : State) : exec (.ori d a im) s = execOri d a im s := rfl
theorem exec_xori (d : Reg) (a : Reg) (im : BitVec 11) (s : State) : exec (.xori d a im) s = execXori d a im s := rfl
theorem exec_slti (d : Reg) (a : Reg) (im : BitVec 11) (s : State) : exec (.slti d a im) s = execSlti d a im s := rfl
theorem exec_sltiu (d : Reg) (a : Reg) (im : BitVec 11) (s : State) : exec (.sltiu d a im) s = execSltiu d a im s := rfl
theorem exec_slli (d : Reg) (a : Reg) (im : BitVec 6) (s : State) : exec (.slli d a im) s = execSlli d a im s := rfl
theorem exec_srli (d : Reg) (a : Reg) (im : BitVec 6) (s : State) : exec (.srli d a im) s = execSrli d a im s := rfl
theorem exec_srai (d : Reg) (a : Reg) (im : BitVec 6) (s : State) : exec (.srai d a im) s = execSrai d a im s := rfl
theorem exec_addiW (d : Reg) (a : Reg) (im : BitVec 11) (s : State) : exec (.addiW d a im) s = execAddiW d a im s := rfl
theorem exec_ldi (d : Reg) (im : BitVec 18) (s : State) : exec (.ldi d im) s = execLdi d im s := rfl
theorem exec_lsh (d : Reg) (im : BitVec 18) (s : State) : exec (.lsh d im) s = execLsh d im s := rfl
theorem exec_pcadd (d : Reg) (im : BitVec 18) (s : State) : exec (.pcadd d im) s = execPcadd d im s := rfl
theorem exec_beq (a : Reg) (b : Reg) (x : BitVec 11) (s : State) : exec (.beq a b x) s = execBeq a b x s := rfl
theorem exec_bne (a : Reg) (b : Reg) (x : BitVec 11) (s : State) : exec (.bne a b x) s = execBne a b x s := rfl
theorem exec_blt (a : Reg) (b : Reg) (x : BitVec 11) (s : State) : exec (.blt a b x) s = execBlt a b x s := rfl
theorem exec_bge (a : Reg) (b : Reg) (x : BitVec 11) (s : State) : exec (.bge a b x) s = execBge a b x s := rfl
theorem exec_bltu (a : Reg) (b : Reg) (x : BitVec 11) (s : State) : exec (.bltu a b x) s = execBltu a b x s := rfl
theorem exec_bgeu (a : Reg) (b : Reg) (x : BitVec 11) (s : State) : exec (.bgeu a b x) s = execBgeu a b x s := rfl
theorem exec_bnone (t : Reg) (x : BitVec 11) (s : State) : exec (.bnone t x) s = execBnone t x s := rfl
theorem exec_bany (t : Reg) (x : BitVec 11) (s : State) : exec (.bany t x) s = execBany t x s := rfl
theorem exec_ball (t : Reg) (x : BitVec 11) (s : State) : exec (.ball t x) s = execBall t x s := rfl
theorem exec_jmp (x : BitVec 25) (s : State) : exec (.jmp x) s = execJmp x s := rfl
theorem exec_jal (x : BitVec 25) (s : State) : exec (.jal x) s = execJal x s := rfl
theorem exec_jalr (d : Reg) (a : Reg) (s : State) : exec (.jalr d a) s = execJalr d a s := rfl
theorem exec_waitc (l : Reg) (sc : Reg) (m : Reg) (s : State) : exec (.waitc l sc m) s = execWaitc l sc m s := rfl
theorem exec_csrr (d : Reg) (n : BitVec 11) (s : State) : exec (.csrr d n) s = execCsrr d n s := rfl
theorem exec_csrw (a : Reg) (n : BitVec 11) (s : State) : exec (.csrw a n) s = execCsrw a n s := rfl
theorem exec_vwin (k : BitVec 11) (s : State) : exec (.vwin k) s = execVwin k s := rfl
theorem exec_lb (d : Reg) (a : Reg) (im : BitVec 11) (s : State) : exec (.lb d a im) s = execLb d a im s := rfl
theorem exec_lbu (d : Reg) (a : Reg) (im : BitVec 11) (s : State) : exec (.lbu d a im) s = execLbu d a im s := rfl
theorem exec_lh (d : Reg) (a : Reg) (im : BitVec 11) (s : State) : exec (.lh d a im) s = execLh d a im s := rfl
theorem exec_lhu (d : Reg) (a : Reg) (im : BitVec 11) (s : State) : exec (.lhu d a im) s = execLhu d a im s := rfl
theorem exec_lw (d : Reg) (a : Reg) (im : BitVec 11) (s : State) : exec (.lw d a im) s = execLw d a im s := rfl
theorem exec_lwu (d : Reg) (a : Reg) (im : BitVec 11) (s : State) : exec (.lwu d a im) s = execLwu d a im s := rfl
theorem exec_ld (d : Reg) (a : Reg) (im : BitVec 11) (s : State) : exec (.ld d a im) s = execLd d a im s := rfl
theorem exec_sb (d : Reg) (a : Reg) (im : BitVec 11) (s : State) : exec (.sb d a im) s = execSb d a im s := rfl
theorem exec_sh (d : Reg) (a : Reg) (im : BitVec 11) (s : State) : exec (.sh d a im) s = execSh d a im s := rfl
theorem exec_sw (d : Reg) (a : Reg) (im : BitVec 11) (s : State) : exec (.sw d a im) s = execSw d a im s := rfl
theorem exec_sd (d : Reg) (a : Reg) (im : BitVec 11) (s : State) : exec (.sd d a im) s = execSd d a im s := rfl
theorem exec_lp (d : Reg) (a : Reg) (b : Reg) (z : Size4) (p : Policy) (s : State) : exec (.lp d a b z p) s = execLp d a b z p s := rfl
theorem exec_sp (d : Reg) (a : Reg) (b : Reg) (z : Size4) (p : Policy) (s : State) : exec (.sp d a b z p) s = execSp d a b z p s := rfl
theorem exec_pf (l : PfLevel) (a : Reg) (im : BitVec 11) (s : State) : exec (.pf l a im) s = execPf l a im s := rfl
theorem exec_hint (h : BitVec 25) (s : State) : exec (.hint h) s = execHint h s := rfl
theorem exec_vadd (d : Reg) (a : Reg) (b : Reg) (s : State) : exec (.vadd d a b) s = execVadd d a b s := rfl
theorem exec_vsub (d : Reg) (a : Reg) (b : Reg) (s : State) : exec (.vsub d a b) s = execVsub d a b s := rfl
theorem exec_vmul (d : Reg) (a : Reg) (b : Reg) (s : State) : exec (.vmul d a b) s = execVmul d a b s := rfl
theorem exec_vmulh (d : Reg) (a : Reg) (b : Reg) (s : State) : exec (.vmulh d a b) s = execVmulh d a b s := rfl
theorem exec_vmulhu (d : Reg) (a : Reg) (b : Reg) (s : State) : exec (.vmulhu d a b) s = execVmulhu d a b s := rfl
theorem exec_vand (d : Reg) (a : Reg) (b : Reg) (s : State) : exec (.vand d a b) s = execVand d a b s := rfl
theorem exec_vor (d : Reg) (a : Reg) (b : Reg) (s : State) : exec (.vor d a b) s = execVor d a b s := rfl
theorem exec_vxor (d : Reg) (a : Reg) (b : Reg) (s : State) : exec (.vxor d a b) s = execVxor d a b s := rfl
theorem exec_vsll (d : Reg) (a : Reg) (b : Reg) (s : State) : exec (.vsll d a b) s = execVsll d a b s := rfl
theorem exec_vsrl (d : Reg) (a : Reg) (b : Reg) (s : State) : exec (.vsrl d a b) s = execVsrl d a b s := rfl
theorem exec_vsra (d : Reg) (a : Reg) (b : Reg) (s : State) : exec (.vsra d a b) s = execVsra d a b s := rfl
theorem exec_vmin (d : Reg) (a : Reg) (b : Reg) (s : State) : exec (.vmin d a b) s = execVmin d a b s := rfl
theorem exec_vmax (d : Reg) (a : Reg) (b : Reg) (s : State) : exec (.vmax d a b) s = execVmax d a b s := rfl
theorem exec_vminu (d : Reg) (a : Reg) (b : Reg) (s : State) : exec (.vminu d a b) s = execVminu d a b s := rfl
theorem exec_vmaxu (d : Reg) (a : Reg) (b : Reg) (s : State) : exec (.vmaxu d a b) s = execVmaxu d a b s := rfl
theorem exec_vandn (d : Reg) (a : Reg) (b : Reg) (s : State) : exec (.vandn d a b) s = execVandn d a b s := rfl
theorem exec_vaddS (d : Reg) (a : Reg) (b : Reg) (s : State) : exec (.vaddS d a b) s = execVaddS d a b s := rfl
theorem exec_vsubS (d : Reg) (a : Reg) (b : Reg) (s : State) : exec (.vsubS d a b) s = execVsubS d a b s := rfl
theorem exec_vmulS (d : Reg) (a : Reg) (b : Reg) (s : State) : exec (.vmulS d a b) s = execVmulS d a b s := rfl
theorem exec_vmulhS (d : Reg) (a : Reg) (b : Reg) (s : State) : exec (.vmulhS d a b) s = execVmulhS d a b s := rfl
theorem exec_vmulhuS (d : Reg) (a : Reg) (b : Reg) (s : State) : exec (.vmulhuS d a b) s = execVmulhuS d a b s := rfl
theorem exec_vandS (d : Reg) (a : Reg) (b : Reg) (s : State) : exec (.vandS d a b) s = execVandS d a b s := rfl
theorem exec_vorS (d : Reg) (a : Reg) (b : Reg) (s : State) : exec (.vorS d a b) s = execVorS d a b s := rfl
theorem exec_vxorS (d : Reg) (a : Reg) (b : Reg) (s : State) : exec (.vxorS d a b) s = execVxorS d a b s := rfl
theorem exec_vsllS (d : Reg) (a : Reg) (b : Reg) (s : State) : exec (.vsllS d a b) s = execVsllS d a b s := rfl
theorem exec_vsrlS (d : Reg) (a : Reg) (b : Reg) (s : State) : exec (.vsrlS d a b) s = execVsrlS d a b s := rfl
theorem exec_vsraS (d : Reg) (a : Reg) (b : Reg) (s : State) : exec (.vsraS d a b) s = execVsraS d a b s := rfl
theorem exec_vminS (d : Reg) (a : Reg) (b : Reg) (s : State) : exec (.vminS d a b) s = execVminS d a b s := rfl
theorem exec_vmaxS (d : Reg) (a : Reg) (b : Reg) (s : State) : exec (.vmaxS d a b) s = execVmaxS d a b s := rfl
theorem exec_vminuS (d : Reg) (a : Reg) (b : Reg) (s : State) : exec (.vminuS d a b) s = execVminuS d a b s := rfl
theorem exec_vmaxuS (d : Reg) (a : Reg) (b : Reg) (s : State) : exec (.vmaxuS d a b) s = execVmaxuS d a b s := rfl
theorem exec_vandnS (d : Reg) (a : Reg) (b : Reg) (s : State) : exec (.vandnS d a b) s = execVandnS d a b s := rfl
theorem exec_vabs (d : Reg) (a : Reg) (s : State) : exec (.vabs d a) s = execVabs d a s := rfl
theorem exec_vneg (d : Reg) (a : Reg) (s : State) : exec (.vneg d a) s = execVneg d a s := rfl
theorem exec_vclz (d : Reg) (a : Reg) (s : State) : exec (.vclz d a) s = execVclz d a s := rfl
theorem exec_vpopc (d : Reg) (a : Reg) (s : State) : exec (.vpopc d a) s = execVpopc d a s := rfl
theorem exec_vbrev (d : Reg) (a : Reg) (s : State) : exec (.vbrev d a) s = execVbrev d a s := rfl
theorem exec_vbswap (d : Reg) (a : Reg) (s : State) : exec (.vbswap d a) s = execVbswap d a s := rfl
theorem exec_vsextb (d : Reg) (a : Reg) (s : State) : exec (.vsextb d a) s = execVsextb d a s := rfl
theorem exec_vsexth (d : Reg) (a : Reg) (s : State) : exec (.vsexth d a) s = execVsexth d a s := rfl
theorem exec_vzextb (d : Reg) (a : Reg) (s : State) : exec (.vzextb d a) s = execVzextb d a s := rfl
theorem exec_vzexth (d : Reg) (a : Reg) (s : State) : exec (.vzexth d a) s = execVzexth d a s := rfl
theorem exec_vnot (d : Reg) (a : Reg) (s : State) : exec (.vnot d a) s = execVnot d a s := rfl
theorem exec_vmad (d : Reg) (a : Reg) (b : Reg) (s : State) : exec (.vmad d a b) s = execVmad d a b s := rfl
theorem exec_vmsb (d : Reg) (a : Reg) (b : Reg) (s : State) : exec (.vmsb d a b) s = execVmsb d a b s := rfl
theorem exec_vmadS (d : Reg) (a : Reg) (b : Reg) (s : State) : exec (.vmadS d a b) s = execVmadS d a b s := rfl
theorem exec_vmsbS (d : Reg) (a : Reg) (b : Reg) (s : State) : exec (.vmsbS d a b) s = execVmsbS d a b s := rfl
theorem exec_vcmpEq (d : Reg) (a : Reg) (b : Reg) (s : State) : exec (.vcmpEq d a b) s = execVcmpEq d a b s := rfl
theorem exec_vcmpNe (d : Reg) (a : Reg) (b : Reg) (s : State) : exec (.vcmpNe d a b) s = execVcmpNe d a b s := rfl
theorem exec_vcmpLt (d : Reg) (a : Reg) (b : Reg) (s : State) : exec (.vcmpLt d a b) s = execVcmpLt d a b s := rfl
theorem exec_vcmpLe (d : Reg) (a : Reg) (b : Reg) (s : State) : exec (.vcmpLe d a b) s = execVcmpLe d a b s := rfl
theorem exec_vcmpLtu (d : Reg) (a : Reg) (b : Reg) (s : State) : exec (.vcmpLtu d a b) s = execVcmpLtu d a b s := rfl
theorem exec_vcmpLeu (d : Reg) (a : Reg) (b : Reg) (s : State) : exec (.vcmpLeu d a b) s = execVcmpLeu d a b s := rfl
theorem exec_vcmpEqS (d : Reg) (a : Reg) (b : Reg) (s : State) : exec (.vcmpEqS d a b) s = execVcmpEqS d a b s := rfl
theorem exec_vcmpNeS (d : Reg) (a : Reg) (b : Reg) (s : State) : exec (.vcmpNeS d a b) s = execVcmpNeS d a b s := rfl
theorem exec_vcmpLtS (d : Reg) (a : Reg) (b : Reg) (s : State) : exec (.vcmpLtS d a b) s = execVcmpLtS d a b s := rfl
theorem exec_vcmpLeS (d : Reg) (a : Reg) (b : Reg) (s : State) : exec (.vcmpLeS d a b) s = execVcmpLeS d a b s := rfl
theorem exec_vcmpLtuS (d : Reg) (a : Reg) (b : Reg) (s : State) : exec (.vcmpLtuS d a b) s = execVcmpLtuS d a b s := rfl
theorem exec_vcmpLeuS (d : Reg) (a : Reg) (b : Reg) (s : State) : exec (.vcmpLeuS d a b) s = execVcmpLeuS d a b s := rfl
theorem exec_vfadd (d : Reg) (a : Reg) (b : Reg) (s : State) : exec (.vfadd d a b) s = execVfadd d a b s := rfl
theorem exec_vfsub (d : Reg) (a : Reg) (b : Reg) (s : State) : exec (.vfsub d a b) s = execVfsub d a b s := rfl
theorem exec_vfmul (d : Reg) (a : Reg) (b : Reg) (s : State) : exec (.vfmul d a b) s = execVfmul d a b s := rfl
theorem exec_vfdiv (d : Reg) (a : Reg) (b : Reg) (s : State) : exec (.vfdiv d a b) s = execVfdiv d a b s := rfl
theorem exec_vfmin (d : Reg) (a : Reg) (b : Reg) (s : State) : exec (.vfmin d a b) s = execVfmin d a b s := rfl
theorem exec_vfmax (d : Reg) (a : Reg) (b : Reg) (s : State) : exec (.vfmax d a b) s = execVfmax d a b s := rfl
theorem exec_vfcsign (d : Reg) (a : Reg) (b : Reg) (s : State) : exec (.vfcsign d a b) s = execVfcsign d a b s := rfl
theorem exec_vfnsign (d : Reg) (a : Reg) (b : Reg) (s : State) : exec (.vfnsign d a b) s = execVfnsign d a b s := rfl
theorem exec_vfaddS (d : Reg) (a : Reg) (b : Reg) (s : State) : exec (.vfaddS d a b) s = execVfaddS d a b s := rfl
theorem exec_vfsubS (d : Reg) (a : Reg) (b : Reg) (s : State) : exec (.vfsubS d a b) s = execVfsubS d a b s := rfl
theorem exec_vfmulS (d : Reg) (a : Reg) (b : Reg) (s : State) : exec (.vfmulS d a b) s = execVfmulS d a b s := rfl
theorem exec_vfdivS (d : Reg) (a : Reg) (b : Reg) (s : State) : exec (.vfdivS d a b) s = execVfdivS d a b s := rfl
theorem exec_vfminS (d : Reg) (a : Reg) (b : Reg) (s : State) : exec (.vfminS d a b) s = execVfminS d a b s := rfl
theorem exec_vfmaxS (d : Reg) (a : Reg) (b : Reg) (s : State) : exec (.vfmaxS d a b) s = execVfmaxS d a b s := rfl
theorem exec_vfcsignS (d : Reg) (a : Reg) (b : Reg) (s : State) : exec (.vfcsignS d a b) s = execVfcsignS d a b s := rfl
theorem exec_vfnsignS (d : Reg) (a : Reg) (b : Reg) (s : State) : exec (.vfnsignS d a b) s = execVfnsignS d a b s := rfl
theorem exec_vfma (d : Reg) (a : Reg) (b : Reg) (s : State) : exec (.vfma d a b) s = execVfma d a b s := rfl
theorem exec_vfms (d : Reg) (a : Reg) (b : Reg) (s : State) : exec (.vfms d a b) s = execVfms d a b s := rfl
theorem exec_vfnma (d : Reg) (a : Reg) (b : Reg) (s : State) : exec (.vfnma d a b) s = execVfnma d a b s := rfl
theorem exec_vfnms (d : Reg) (a : Reg) (b : Reg) (s : State) : exec (.vfnms d a b) s = execVfnms d a b s := rfl
theorem exec_vfmaS (d : Reg) (a : Reg) (b : Reg) (s : State) : exec (.vfmaS d a b) s = execVfmaS d a b s := rfl
theorem exec_vfmsS (d : Reg) (a : Reg) (b : Reg) (s : State) : exec (.vfmsS d a b) s = execVfmsS d a b s := rfl
theorem exec_vfnmaS (d : Reg) (a : Reg) (b : Reg) (s : State) : exec (.vfnmaS d a b) s = execVfnmaS d a b s := rfl
theorem exec_vfnmsS (d : Reg) (a : Reg) (b : Reg) (s : State) : exec (.vfnmsS d a b) s = execVfnmsS d a b s := rfl
theorem exec_vfabs (d : Reg) (a : Reg) (s : State) : exec (.vfabs d a) s = execVfabs d a s := rfl
theorem exec_vfneg (d : Reg) (a : Reg) (s : State) : exec (.vfneg d a) s = execVfneg d a s := rfl
theorem exec_vfsqrt (d : Reg) (a : Reg) (s : State) : exec (.vfsqrt d a) s = execVfsqrt d a s := rfl
theorem exec_vexp2 (d : Reg) (a : Reg) (s : State) : exec (.vexp2 d a) s = execVexp2 d a s := rfl
theorem exec_vlog2 (d : Reg) (a : Reg) (s : State) : exec (.vlog2 d a) s = execVlog2 d a s := rfl
theorem exec_vrcp (d : Reg) (a : Reg) (s : State) : exec (.vrcp d a) s = execVrcp d a s := rfl
theorem exec_vrsq (d : Reg) (a : Reg) (s : State) : exec (.vrsq d a) s = execVrsq d a s := rfl
theorem exec_vfrint (d : Reg) (a : Reg) (s : State) : exec (.vfrint d a) s = execVfrint d a s := rfl
theorem exec_vfclass (d : Reg) (a : Reg) (s : State) : exec (.vfclass d a) s = execVfclass d a s := rfl
theorem exec_vfcmpFeq (d : Reg) (a : Reg) (b : Reg) (s : State) : exec (.vfcmpFeq d a b) s = execVfcmpFeq d a b s := rfl
theorem exec_vfcmpFlt (d : Reg) (a : Reg) (b : Reg) (s : State) : exec (.vfcmpFlt d a b) s = execVfcmpFlt d a b s := rfl
theorem exec_vfcmpFle (d : Reg) (a : Reg) (b : Reg) (s : State) : exec (.vfcmpFle d a b) s = execVfcmpFle d a b s := rfl
theorem exec_vfcmpFun (d : Reg) (a : Reg) (b : Reg) (s : State) : exec (.vfcmpFun d a b) s = execVfcmpFun d a b s := rfl
theorem exec_vfcmpFeqS (d : Reg) (a : Reg) (b : Reg) (s : State) : exec (.vfcmpFeqS d a b) s = execVfcmpFeqS d a b s := rfl
theorem exec_vfcmpFltS (d : Reg) (a : Reg) (b : Reg) (s : State) : exec (.vfcmpFltS d a b) s = execVfcmpFltS d a b s := rfl
theorem exec_vfcmpFleS (d : Reg) (a : Reg) (b : Reg) (s : State) : exec (.vfcmpFleS d a b) s = execVfcmpFleS d a b s := rfl
theorem exec_vfcmpFunS (d : Reg) (a : Reg) (b : Reg) (s : State) : exec (.vfcmpFunS d a b) s = execVfcmpFunS d a b s := rfl
theorem exec_vcvtI32F32 (d : Reg) (a : Reg) (s : State) : exec (.vcvtI32F32 d a) s = execVcvtI32F32 d a s := rfl
theorem exec_vcvtF32I32 (d : Reg) (a : Reg) (s : State) : exec (.vcvtF32I32 d a) s = execVcvtF32I32 d a s := rfl
theorem exec_vcvtN32F32 (d : Reg) (a : Reg) (s : State) : exec (.vcvtN32F32 d a) s = execVcvtN32F32 d a s := rfl
theorem exec_vcvtF32N32 (d : Reg) (a : Reg) (s : State) : exec (.vcvtF32N32 d a) s = execVcvtF32N32 d a s := rfl
theorem exec_vcvtBf16F32 (d : Reg) (a : Reg) (s : State) : exec (.vcvtBf16F32 d a) s = execVcvtBf16F32 d a s := rfl
theorem exec_vcvtF32Bf16 (d : Reg) (a : Reg) (s : State) : exec (.vcvtF32Bf16 d a) s = execVcvtF32Bf16 d a s := rfl
theorem exec_vcvtF16F32 (d : Reg) (a : Reg) (s : State) : exec (.vcvtF16F32 d a) s = execVcvtF16F32 d a s := rfl
theorem exec_vcvtF32F16 (d : Reg) (a : Reg) (s : State) : exec (.vcvtF32F16 d a) s = execVcvtF32F16 d a s := rfl
theorem exec_vcvtE4m3F32 (d : Reg) (a : Reg) (s : State) : exec (.vcvtE4m3F32 d a) s = execVcvtE4m3F32 d a s := rfl
theorem exec_vcvtF32E4m3 (d : Reg) (a : Reg) (s : State) : exec (.vcvtF32E4m3 d a) s = execVcvtF32E4m3 d a s := rfl
theorem exec_vcvtE5m2F32 (d : Reg) (a : Reg) (s : State) : exec (.vcvtE5m2F32 d a) s = execVcvtE5m2F32 d a s := rfl
theorem exec_vcvtF32E5m2 (d : Reg) (a : Reg) (s : State) : exec (.vcvtF32E5m2 d a) s = execVcvtF32E5m2 d a s := rfl
theorem exec_vcvtBf16x2F32 (d : Reg) (a : Reg) (s : State) : exec (.vcvtBf16x2F32 d a) s = execVcvtBf16x2F32 d a s := rfl
theorem exec_vcvtF16x2F32 (d : Reg) (a : Reg) (s : State) : exec (.vcvtF16x2F32 d a) s = execVcvtF16x2F32 d a s := rfl
theorem exec_vcvtI8I32 (d : Reg) (a : Reg) (s : State) : exec (.vcvtI8I32 d a) s = execVcvtI8I32 d a s := rfl
theorem exec_vmov (d : Reg) (a : Reg) (s : State) : exec (.vmov d a) s = execVmov d a s := rfl
theorem exec_vbcs (d : Reg) (a : Reg) (s : State) : exec (.vbcs d a) s = execVbcs d a s := rfl
theorem exec_vext (d : Reg) (a : Reg) (b : Reg) (s : State) : exec (.vext d a b) s = execVext d a b s := rfl
theorem exec_vins (d : Reg) (a : Reg) (b : Reg) (s : State) : exec (.vins d a b) s = execVins d a b s := rfl
theorem exec_vlid (d : Reg) (s : State) : exec (.vlid d) s = execVlid d s := rfl
theorem exec_vperm (d : Reg) (a : Reg) (b : Reg) (s : State) : exec (.vperm d a b) s = execVperm d a b s := rfl
theorem exec_vslup (d : Reg) (a : Reg) (b : Reg) (s : State) : exec (.vslup d a b) s = execVslup d a b s := rfl
theorem exec_vsldn (d : Reg) (a : Reg) (b : Reg) (s : State) : exec (.vsldn d a b) s = execVsldn d a b s := rfl
theorem exec_vmrg (d : Reg) (a : Reg) (b : Reg) (s : State) : exec (.vmrg d a b) s = execVmrg d a b s := rfl
theorem exec_vfree (d : Reg) (s : State) : exec (.vfree d) s = execVfree d s := rfl
theorem exec_vradd (d : Reg) (a : Reg) (s : State) : exec (.vradd d a) s = execVradd d a s := rfl
theorem exec_vrmin (d : Reg) (a : Reg) (s : State) : exec (.vrmin d a) s = execVrmin d a s := rfl
theorem exec_vrmax (d : Reg) (a : Reg) (s : State) : exec (.vrmax d a) s = execVrmax d a s := rfl
theorem exec_vrminu (d : Reg) (a : Reg) (s : State) : exec (.vrminu d a) s = execVrminu d a s := rfl
theorem exec_vrmaxu (d : Reg) (a : Reg) (s : State) : exec (.vrmaxu d a) s = execVrmaxu d a s := rfl
theorem exec_vrand (d : Reg) (a : Reg) (s : State) : exec (.vrand d a) s = execVrand d a s := rfl
theorem exec_vror (d : Reg) (a : Reg) (s : State) : exec (.vror d a) s = execVror d a s := rfl
theorem exec_vrxor (d : Reg) (a : Reg) (s : State) : exec (.vrxor d a) s = execVrxor d a s := rfl
theorem exec_vrfadd (d : Reg) (a : Reg) (s : State) : exec (.vrfadd d a) s = execVrfadd d a s := rfl
theorem exec_vrfmin (d : Reg) (a : Reg) (s : State) : exec (.vrfmin d a) s = execVrfmin d a s := rfl
theorem exec_vrfmax (d : Reg) (a : Reg) (s : State) : exec (.vrfmax d a) s = execVrfmax d a s := rfl
theorem exec_vsadd (d : Reg) (a : Reg) (s : State) : exec (.vsadd d a) s = execVsadd d a s := rfl
theorem exec_vsaddx (d : Reg) (a : Reg) (s : State) : exec (.vsaddx d a) s = execVsaddx d a s := rfl
theorem exec_vsfadd (d : Reg) (a : Reg) (s : State) : exec (.vsfadd d a) s = execVsfadd d a s := rfl
theorem exec_vsmax (d : Reg) (a : Reg) (s : State) : exec (.vsmax d a) s = execVsmax d a s := rfl
theorem exec_vsmin (d : Reg) (a : Reg) (s : State) : exec (.vsmin d a) s = execVsmin d a s := rfl
theorem exec_vhcrc (d : Reg) (a : Reg) (b : Reg) (s : State) : exec (.vhcrc d a b) s = execVhcrc d a b s := rfl
theorem exec_vhmix (d : Reg) (a : Reg) (b : Reg) (s : State) : exec (.vhmix d a b) s = execVhmix d a b s := rfl
theorem exec_vpart (d : Reg) (a : Reg) (b : Reg) (s : State) : exec (.vpart d a b) s = execVpart d a b s := rfl
theorem exec_vbeq (d : Reg) (a : Reg) (b : Reg) (s : State) : exec (.vbeq d a b) s = execVbeq d a b s := rfl
theorem exec_vbfz (d : Reg) (a : Reg) (s : State) : exec (.vbfz d a) s = execVbfz d a s := rfl
theorem exec_vbdif (d : Reg) (a : Reg) (b : Reg) (s : State) : exec (.vbdif d a b) s = execVbdif d a b s := rfl
theorem exec_vhist (d : Reg) (a : Reg) (s : State) : exec (.vhist d a) s = execVhist d a s := rfl
theorem exec_vld (d : Reg) (a : Reg) (b : Reg) (z : Size3) (p : Policy) (s : State) : exec (.vld d a b z p) s = execVld d a b z p s := rfl
theorem exec_vst (d : Reg) (a : Reg) (b : Reg) (z : Size3) (p : Policy) (s : State) : exec (.vst d a b z p) s = execVst d a b z p s := rfl
theorem exec_vgth (d : Reg) (a : Reg) (b : Reg) (z : Size3) (p : Policy) (s : State) : exec (.vgth d a b z p) s = execVgth d a b z p s := rfl
theorem exec_vsct (d : Reg) (a : Reg) (b : Reg) (z : Size3) (p : Policy) (s : State) : exec (.vsct d a b z p) s = execVsct d a b z p s := rfl
theorem exec_vll (d : Reg) (a : Reg) (b : Reg) (z : Size3) (s : State) : exec (.vll d a b z) s = execVll d a b z s := rfl
theorem exec_vsl (d : Reg) (a : Reg) (b : Reg) (z : Size3) (s : State) : exec (.vsl d a b z) s = execVsl d a b z s := rfl
theorem exec_vllg (d : Reg) (a : Reg) (z : Size3) (s : State) : exec (.vllg d a z) s = execVllg d a z s := rfl
theorem exec_vslg (d : Reg) (a : Reg) (z : Size3) (s : State) : exec (.vslg d a z) s = execVslg d a z s := rfl
theorem exec_amoAdd (d : Reg) (a : Reg) (b : Reg) (s : State) : exec (.amoAdd d a b) s = execAmoAdd d a b s := rfl
theorem exec_amoAnd (d : Reg) (a : Reg) (b : Reg) (s : State) : exec (.amoAnd d a b) s = execAmoAnd d a b s := rfl
theorem exec_amoOr (d : Reg) (a : Reg) (b : Reg) (s : State) : exec (.amoOr d a b) s = execAmoOr d a b s := rfl
theorem exec_amoXor (d : Reg) (a : Reg) (b : Reg) (s : State) : exec (.amoXor d a b) s = execAmoXor d a b s := rfl
theorem exec_amoMin (d : Reg) (a : Reg) (b : Reg) (s : State) : exec (.amoMin d a b) s = execAmoMin d a b s := rfl
theorem exec_amoMax (d : Reg) (a : Reg) (b : Reg) (s : State) : exec (.amoMax d a b) s = execAmoMax d a b s := rfl
theorem exec_amoMinu (d : Reg) (a : Reg) (b : Reg) (s : State) : exec (.amoMinu d a b) s = execAmoMinu d a b s := rfl
theorem exec_amoMaxu (d : Reg) (a : Reg) (b : Reg) (s : State) : exec (.amoMaxu d a b) s = execAmoMaxu d a b s := rfl
theorem exec_amoXchg (d : Reg) (a : Reg) (b : Reg) (s : State) : exec (.amoXchg d a b) s = execAmoXchg d a b s := rfl
theorem exec_amoFadd (d : Reg) (a : Reg) (b : Reg) (s : State) : exec (.amoFadd d a b) s = execAmoFadd d a b s := rfl
theorem exec_amoCas (d : Reg) (a : Reg) (b : Reg) (s : State) : exec (.amoCas d a b) s = execAmoCas d a b s := rfl
theorem exec_amoDAdd (d : Reg) (a : Reg) (b : Reg) (s : State) : exec (.amoDAdd d a b) s = execAmoDAdd d a b s := rfl
theorem exec_amoDAnd (d : Reg) (a : Reg) (b : Reg) (s : State) : exec (.amoDAnd d a b) s = execAmoDAnd d a b s := rfl
theorem exec_amoDOr (d : Reg) (a : Reg) (b : Reg) (s : State) : exec (.amoDOr d a b) s = execAmoDOr d a b s := rfl
theorem exec_amoDXor (d : Reg) (a : Reg) (b : Reg) (s : State) : exec (.amoDXor d a b) s = execAmoDXor d a b s := rfl
theorem exec_amoDMin (d : Reg) (a : Reg) (b : Reg) (s : State) : exec (.amoDMin d a b) s = execAmoDMin d a b s := rfl
theorem exec_amoDMax (d : Reg) (a : Reg) (b : Reg) (s : State) : exec (.amoDMax d a b) s = execAmoDMax d a b s := rfl
theorem exec_amoDMinu (d : Reg) (a : Reg) (b : Reg) (s : State) : exec (.amoDMinu d a b) s = execAmoDMinu d a b s := rfl
theorem exec_amoDMaxu (d : Reg) (a : Reg) (b : Reg) (s : State) : exec (.amoDMaxu d a b) s = execAmoDMaxu d a b s := rfl
theorem exec_amoDXchg (d : Reg) (a : Reg) (b : Reg) (s : State) : exec (.amoDXchg d a b) s = execAmoDXchg d a b s := rfl
theorem exec_amoDFadd (d : Reg) (a : Reg) (b : Reg) (s : State) : exec (.amoDFadd d a b) s = execAmoDFadd d a b s := rfl
theorem exec_amoDCas (d : Reg) (a : Reg) (b : Reg) (s : State) : exec (.amoDCas d a b) s = execAmoDCas d a b s := rfl
theorem exec_vamoAdd (d : Reg) (a : Reg) (b : Reg) (s : State) : exec (.vamoAdd d a b) s = execVamoAdd d a b s := rfl
theorem exec_vamoAnd (d : Reg) (a : Reg) (b : Reg) (s : State) : exec (.vamoAnd d a b) s = execVamoAnd d a b s := rfl
theorem exec_vamoOr (d : Reg) (a : Reg) (b : Reg) (s : State) : exec (.vamoOr d a b) s = execVamoOr d a b s := rfl
theorem exec_vamoXor (d : Reg) (a : Reg) (b : Reg) (s : State) : exec (.vamoXor d a b) s = execVamoXor d a b s := rfl
theorem exec_vamoMin (d : Reg) (a : Reg) (b : Reg) (s : State) : exec (.vamoMin d a b) s = execVamoMin d a b s := rfl
theorem exec_vamoMax (d : Reg) (a : Reg) (b : Reg) (s : State) : exec (.vamoMax d a b) s = execVamoMax d a b s := rfl
theorem exec_vamoMinu (d : Reg) (a : Reg) (b : Reg) (s : State) : exec (.vamoMinu d a b) s = execVamoMinu d a b s := rfl
theorem exec_vamoMaxu (d : Reg) (a : Reg) (b : Reg) (s : State) : exec (.vamoMaxu d a b) s = execVamoMaxu d a b s := rfl
theorem exec_vamoXchg (d : Reg) (a : Reg) (b : Reg) (s : State) : exec (.vamoXchg d a b) s = execVamoXchg d a b s := rfl
theorem exec_vamoFadd (d : Reg) (a : Reg) (b : Reg) (s : State) : exec (.vamoFadd d a b) s = execVamoFadd d a b s := rfl
theorem exec_vamoCas (d : Reg) (a : Reg) (b : Reg) (s : State) : exec (.vamoCas d a b) s = execVamoCas d a b s := rfl
theorem exec_acq (a : Reg) (sc : Scope) (s : State) : exec (.acq a sc) s = execAcq a sc s := rfl
theorem exec_rel (sc : Scope) (s : State) : exec (.rel sc) s = execRel sc s := rfl
theorem exec_fence (sc : Scope) (s : State) : exec (.fence sc) s = execFence sc s := rfl
theorem exec_fenceSs (sc : Scope) (s : State) : exec (.fenceSs sc) s = execFenceSs sc s := rfl
theorem exec_fenceLl (sc : Scope) (s : State) : exec (.fenceLl sc) s = execFenceLl sc s := rfl
theorem exec_fenceIo (sc : Scope) (s : State) : exec (.fenceIo sc) s = execFenceIo sc s := rfl
theorem exec_ifence (s : State) : exec (.ifence) s = execIfence s := rfl
theorem exec_txb (s : State) : exec (.txb) s = execTxb s := rfl
theorem exec_txe (s : State) : exec (.txe) s = execTxe s := rfl
theorem exec_txa (s : State) : exec (.txa) s = execTxa s := rfl
theorem exec_txs (d : Reg) (s : State) : exec (.txs d) s = execTxs d s := rfl
theorem exec_wsleepEq (d : Reg) (a : Reg) (b : Reg) (s : State) : exec (.wsleepEq d a b) s = execWsleepEq d a b s := rfl
theorem exec_wsleepNe (d : Reg) (a : Reg) (b : Reg) (s : State) : exec (.wsleepNe d a b) s = execWsleepNe d a b s := rfl
theorem exec_wsleepGe (d : Reg) (a : Reg) (b : Reg) (s : State) : exec (.wsleepGe d a b) s = execWsleepGe d a b s := rfl
theorem exec_wsleepGeu (d : Reg) (a : Reg) (b : Reg) (s : State) : exec (.wsleepGeu d a b) s = execWsleepGeu d a b s := rfl
theorem exec_bar (s : State) : exec (.bar) s = execBar s := rfl
theorem exec_nbinit (a : Reg) (b : Reg) (s : State) : exec (.nbinit a b) s = execNbinit a b s := rfl
theorem exec_nbexp (a : Reg) (b : Reg) (s : State) : exec (.nbexp a b) s = execNbexp a b s := rfl
theorem exec_nbarr (a : Reg) (s : State) : exec (.nbarr a) s = execNbarr a s := rfl
theorem exec_nbwait (d : Reg) (a : Reg) (s : State) : exec (.nbwait d a) s = execNbwait d a s := rfl
theorem exec_nbtest (d : Reg) (a : Reg) (s : State) : exec (.nbtest d a) s = execNbtest d a s := rfl
theorem exec_tbarr (a : Reg) (s : State) : exec (.tbarr a) s = execTbarr a s := rfl
theorem exec_tbwait (d : Reg) (a : Reg) (s : State) : exec (.tbwait d a) s = execTbwait d a s := rfl
theorem exec_tbar (d : Reg) (a : Reg) (s : State) : exec (.tbar d a) s = execTbar d a s := rfl
theorem exec_launch (d : Reg) (a : Reg) (s : State) : exec (.launch d a) s = execLaunch d a s := rfl
theorem exec_launchWait (d : Reg) (a : Reg) (s : State) : exec (.launchWait d a) s = execLaunchWait d a s := rfl
theorem exec_exit (s : State) : exec (.exit) s = execExit s := rfl
theorem exec_exitSucc (a : Reg) (s : State) : exec (.exitSucc a) s = execExitSucc a s := rfl
theorem exec_yield (s : State) : exec (.yield) s = execYield s := rfl
theorem exec_qpush (a : Reg) (b : Reg) (s : State) : exec (.qpush a b) s = execQpush a b s := rfl
theorem exec_qpop (a : Reg) (b : Reg) (s : State) : exec (.qpop a b) s = execQpop a b s := rfl
theorem exec_qstat (d : Reg) (a : Reg) (s : State) : exec (.qstat d a) s = execQstat d a s := rfl
theorem exec_qset (d : Reg) (a : Reg) (b : Reg) (s : State) : exec (.qset d a b) s = execQset d a b s := rfl
theorem exec_fork (a : Reg) (b : Reg) (s : State) : exec (.fork a b) s = execFork a b s := rfl
theorem exec_rendezL (s : State) : exec (.rendezL) s = execRendezL s := rfl
theorem exec_rendezB (s : State) : exec (.rendezB) s = execRendezB s := rfl
theorem exec_rendezLb (s : State) : exec (.rendezLb) s = execRendezLb s := rfl
theorem exec_mma (d : Reg) (a : Reg) (b : Reg) (g : BitVec 2) (o : Bool) (s : State) : exec (.mma d a b g o) s = execMma d a b g o s := rfl
theorem exec_mmag (d : Reg) (a : Reg) (b : Reg) (g : BitVec 2) (o : Bool) (s : State) : exec (.mmag d a b g o) s = execMmag d a b g o s := rfl
theorem exec_twset (d : Reg) (a : Reg) (b : Reg) (s : State) : exec (.twset d a b) s = execTwset d a b s := rfl
theorem exec_accalloc (d : Reg) (a : Reg) (b : Reg) (s : State) : exec (.accalloc d a b) s = execAccalloc d a b s := rfl
theorem exec_accfree (a : Reg) (s : State) : exec (.accfree a) s = execAccfree a s := rfl
theorem exec_acczero (a : Reg) (s : State) : exec (.acczero a) s = execAcczero a s := rfl
theorem exec_accclaim (a : Reg) (b : Reg) (s : State) : exec (.accclaim a b) s = execAccclaim a b s := rfl
theorem exec_accrd (d : Reg) (a : Reg) (b : Reg) (s : State) : exec (.accrd d a b) s = execAccrd d a b s := rfl
theorem exec_accrdClr (d : Reg) (a : Reg) (b : Reg) (s : State) : exec (.accrdClr d a b) s = execAccrdClr d a b s := rfl
theorem exec_accwr (d : Reg) (a : Reg) (b : Reg) (s : State) : exec (.accwr d a b) s = execAccwr d a b s := rfl
theorem exec_qnt (d : Reg) (a : Reg) (b : Reg) (s : State) : exec (.qnt d a b) s = execQnt d a b s := rfl
theorem exec_plpack (a : Reg) (b : Reg) (s : State) : exec (.plpack a b) s = execPlpack a b s := rfl
theorem exec_plunp (d : Reg) (b : Reg) (s : State) : exec (.plunp d b) s = execPlunp d b s := rfl
theorem exec_ctld (a : Reg) (b : Reg) (s : State) : exec (.ctld a b) s = execCtld a b s := rfl
theorem exec_copy (d : Reg) (a : Reg) (b : Reg) (o : Bool) (g : BitVec 2) (s : State) : exec (.copy d a b o g) s = execCopy d a b o g s := rfl
theorem exec_copym (d : Reg) (a : Reg) (b : Reg) (o : Bool) (g : BitVec 2) (s : State) : exec (.copym d a b o g) s = execCopym d a b o g s := rfl
theorem exec_sbradd (a : Reg) (b : Reg) (s : State) : exec (.sbradd a b) s = execSbradd a b s := rfl
theorem exec_sbrmin (a : Reg) (b : Reg) (s : State) : exec (.sbrmin a b) s = execSbrmin a b s := rfl
theorem exec_sbrmax (a : Reg) (b : Reg) (s : State) : exec (.sbrmax a b) s = execSbrmax a b s := rfl
theorem exec_sbrfadd (a : Reg) (b : Reg) (s : State) : exec (.sbrfadd a b) s = execSbrfadd a b s := rfl
theorem exec_sbuadd (a : Reg) (b : Reg) (s : State) : exec (.sbuadd a b) s = execSbuadd a b s := rfl
theorem exec_sbumin (a : Reg) (b : Reg) (s : State) : exec (.sbumin a b) s = execSbumin a b s := rfl
theorem exec_sbumax (a : Reg) (b : Reg) (s : State) : exec (.sbumax a b) s = execSbumax a b s := rfl
theorem exec_sbufadd (a : Reg) (b : Reg) (s : State) : exec (.sbufadd a b) s = execSbufadd a b s := rfl
theorem exec_rredAdd (a : Reg) (b : Reg) (s : State) : exec (.rredAdd a b) s = execRredAdd a b s := rfl
theorem exec_rredMin (a : Reg) (b : Reg) (s : State) : exec (.rredMin a b) s = execRredMin a b s := rfl
theorem exec_rredMax (a : Reg) (b : Reg) (s : State) : exec (.rredMax a b) s = execRredMax a b s := rfl
theorem exec_rredMinu (a : Reg) (b : Reg) (s : State) : exec (.rredMinu a b) s = execRredMinu a b s := rfl
theorem exec_rredMaxu (a : Reg) (b : Reg) (s : State) : exec (.rredMaxu a b) s = execRredMaxu a b s := rfl
theorem exec_rredFadd (a : Reg) (b : Reg) (s : State) : exec (.rredFadd a b) s = execRredFadd a b s := rfl
theorem exec_rredAddD (a : Reg) (b : Reg) (s : State) : exec (.rredAddD a b) s = execRredAddD a b s := rfl
theorem exec_rredOr (a : Reg) (b : Reg) (s : State) : exec (.rredOr a b) s = execRredOr a b s := rfl
theorem exec_coll (a : Reg) (b : Reg) (s : State) : exec (.coll a b) s = execColl a b s := rfl
theorem exec_cquiet (a : Reg) (s : State) : exec (.cquiet a) s = execCquiet a s := rfl
theorem exec_glaunch (d : Reg) (a : Reg) (s : State) : exec (.glaunch d a) s = execGlaunch d a s := rfl
theorem exec_gstat (d : Reg) (a : Reg) (s : State) : exec (.gstat d a) s = execGstat d a s := rfl
theorem exec_rwin (a : Reg) (b : Reg) (s : State) : exec (.rwin a b) s = execRwin a b s := rfl
theorem exec_trap (a : Reg) (s : State) : exec (.trap a) s = execTrap a s := rfl
theorem exec_sret (s : State) : exec (.sret) s = execSret s := rfl
theorem exec_pgres (a : Reg) (s : State) : exec (.pgres a) s = execPgres a s := rfl
theorem exec_mapu (d : Reg) (a : Reg) (b : Reg) (s : State) : exec (.mapu d a b) s = execMapu d a b s := rfl
theorem exec_tlbinv (a : Reg) (b : Reg) (s : State) : exec (.tlbinv a b) s = execTlbinv a b s := rfl
theorem exec_lanerd (d : Reg) (a : Reg) (b : Reg) (s : State) : exec (.lanerd d a b) s = execLanerd d a b s := rfl
theorem exec_lanewr (d : Reg) (a : Reg) (b : Reg) (s : State) : exec (.lanewr d a b) s = execLanewr d a b s := rfl
theorem exec_pendingAgingTick (s : State) : exec (.pendingAgingTick) s = execPendingAgingTick s := rfl
theorem exec_blockPlacement (die : Nat) (s : State) : exec (.blockPlacement die) s = execBlockPlacement die s := rfl
theorem exec_rotation (core : Nat) (s : State) : exec (.rotation core) s = execRotation core s := rfl
theorem exec_starvationBoost (uid : Nat) (s : State) : exec (.starvationBoost uid) s = execStarvationBoost uid s := rfl
theorem exec_starvation (uid : Nat) (s : State) : exec (.starvation uid) s = execStarvation uid s := rfl
theorem exec_localityScoreHalving (core : Nat) (s : State) : exec (.localityScoreHalving core) s = execLocalityScoreHalving core s := rfl
theorem exec_allowanceStep (core : Nat) (s : State) : exec (.allowanceStep core) s = execAllowanceStep core s := rfl
theorem exec_allowanceReset (core : Nat) (s : State) : exec (.allowanceReset core) s = execAllowanceReset core s := rfl
theorem exec_latticeSequencerRound (core : Nat) (s : State) : exec (.latticeSequencerRound core) s = execLatticeSequencerRound core s := rfl
theorem exec_queueExtension (blk : Nat) (q : Nat) (s : State) : exec (.queueExtension blk q) s = execQueueExtension blk q s := rfl
theorem exec_waitGraphWalk (blk : Nat) (s : State) : exec (.waitGraphWalk blk) s = execWaitGraphWalk blk s := rfl
theorem exec_quotaMove (blk : Nat) (q : Nat) (s : State) : exec (.quotaMove blk q) s = execQuotaMove blk q s := rfl
theorem exec_preemption (blk : Nat) (s : State) : exec (.preemption blk) s = execPreemption blk s := rfl
theorem exec_blockResume (blk : Nat) (core : Nat) (s : State) : exec (.blockResume blk core) s = execBlockResume blk core s := rfl
theorem exec_budgetWindowStart (s : State) : exec (.budgetWindowStart) s = execBudgetWindowStart s := rfl
theorem exec_energyCharge (ctx : Nat) (nj : Nat) (s : State) : exec (.energyCharge ctx nj) s = execEnergyCharge ctx nj s := rfl
theorem exec_clockPlannerStep (watts : Nat) (s : State) : exec (.clockPlannerStep watts) s = execClockPlannerStep watts s := rfl
theorem exec_loadCompletion (uid : Nat) (seq : Nat) (parts : List Nat) (s : State) : exec (.loadCompletion uid seq parts) s = execLoadCompletion uid seq parts s := rfl
theorem exec_storeCompletion (uid : Nat) (seq : Nat) (parts : List Nat) (s : State) : exec (.storeCompletion uid seq parts) s = execStoreCompletion uid seq parts s := rfl
theorem exec_asynchronousTrapDelivery (uid : Nat) (s : State) : exec (.asynchronousTrapDelivery uid) s = execAsynchronousTrapDelivery uid s := rfl
theorem exec_regReq (uid : Nat) (seq : Nat) (part : Nat) (s : State) : exec (.regReq uid seq part) s = execRegReq uid seq part s := rfl
theorem exec_regFwd (uid : Nat) (seq : Nat) (part : Nat) (s : State) : exec (.regFwd uid seq part) s = execRegFwd uid seq part s := rfl
theorem exec_regRevoke (pa : Nat) (s : State) : exec (.regRevoke pa) s = execRegRevoke pa s := rfl
theorem exec_raceNak (uid : Nat) (seq : Nat) (part : Nat) (s : State) : exec (.raceNak uid seq part) s = execRaceNak uid seq part s := rfl
theorem exec_regXfer (core : Nat) (cmd : Nat) (sector : Nat) (s : State) : exec (.regXfer core cmd sector) s = execRegXfer core cmd sector s := rfl
theorem exec_regAck (core : Nat) (cmd : Nat) (sector : Nat) (s : State) : exec (.regAck core cmd sector) s = execRegAck core cmd sector s := rfl
theorem exec_l1Fill (core : Nat) (ctx : Nat) (va : Nat) (s : State) : exec (.l1Fill core ctx va) s = execL1Fill core ctx va s := rfl
theorem exec_llcFill (pa : Nat) (s : State) : exec (.llcFill pa) s = execLlcFill pa s := rfl
theorem exec_fetchFill (r : LineAsk) (s : State) : exec (.fetchFill r) s = execFetchFill r s := rfl
theorem exec_fetchRetry (uid : Nat) (s : State) : exec (.fetchRetry uid) s = execFetchRetry uid s := rfl
theorem exec_pageTableWalk (core : Nat) (ctx : Nat) (va : Nat) (s : State) : exec (.pageTableWalk core ctx va) s = execPageTableWalk core ctx va s := rfl
theorem exec_faultResolutionTimeout (ctx : Nat) (record : Nat) (s : State) : exec (.faultResolutionTimeout ctx record) s = execFaultResolutionTimeout ctx record s := rfl
theorem exec_wsleepWakeEvent (uid : Nat) (s : State) : exec (.wsleepWakeEvent uid) s = execWsleepWakeEvent uid s := rfl
theorem exec_wsleepReevaluation (uid : Nat) (s : State) : exec (.wsleepReevaluation uid) s = execWsleepReevaluation uid s := rfl
theorem exec_wsleepTimeout (uid : Nat) (s : State) : exec (.wsleepTimeout uid) s = execWsleepTimeout uid s := rfl
theorem exec_trellisRelease (id : Nat) (s : State) : exec (.trellisRelease id) s = execTrellisRelease id s := rfl
theorem exec_latticeCommandPerformed (core : Nat) (uid : Nat) (bad : Bool) (s : State) : exec (.latticeCommandPerformed core uid bad) s = execLatticeCommandPerformed core uid bad s := rfl
theorem exec_listCommandRecord (uid : Nat) (which : ListId) (s : State) : exec (.listCommandRecord uid which) s = execListCommandRecord uid which s := rfl
theorem exec_listEndRecord (uid : Nat) (which : ListId) (s : State) : exec (.listEndRecord uid which) s = execListEndRecord uid which s := rfl
theorem exec_listLoopRecord (uid : Nat) (which : ListId) (s : State) : exec (.listLoopRecord uid which) s = execListLoopRecord uid which s := rfl
theorem exec_listBaseaRecord (uid : Nat) (which : ListId) (s : State) : exec (.listBaseaRecord uid which) s = execListBaseaRecord uid which s := rfl
theorem exec_listBasebRecord (uid : Nat) (which : ListId) (s : State) : exec (.listBasebRecord uid which) s = execListBasebRecord uid which s := rfl
theorem exec_sectorDelivery (core : Nat) (cmd : Nat) (sector : Nat) (crcBad : Nat) (s : State) : exec (.sectorDelivery core cmd sector crcBad) s = execSectorDelivery core cmd sector crcBad s := rfl
theorem exec_barrowTranslationFault (core : Nat) (cmd : Nat) (s : State) : exec (.barrowTranslationFault core cmd) s = execBarrowTranslationFault core cmd s := rfl
theorem exec_followOnEnd (core : Nat) (cmd : Nat) (s : State) : exec (.followOnEnd core cmd) s = execFollowOnEnd core cmd s := rfl
theorem exec_packetDelivery (p : Arrival) (s : State) : exec (.packetDelivery p) s = execPacketDelivery p s := rfl
theorem exec_acknowledgement (dst : Nat) (seq : Nat) (r : Reply) (s : State) : exec (.acknowledgement dst seq r) s = execAcknowledgement dst seq r s := rfl
theorem exec_ackTimeout (dst : Nat) (elem : Nat) (s : State) : exec (.ackTimeout dst elem) s = execAckTimeout dst elem s := rfl
theorem exec_linkCrcFailureReport (elem : Nat) (s : State) : exec (.linkCrcFailureReport elem) s = execLinkCrcFailureReport elem s := rfl
theorem exec_flowReroute (dst : Nat) (route : List Nat) (s : State) : exec (.flowReroute dst route) s = execFlowReroute dst route s := rfl
theorem exec_linkRetrain (elem : Nat) (s : State) : exec (.linkRetrain elem) s = execLinkRetrain elem s := rfl
theorem exec_flowUnreachable (dst : Nat) (s : State) : exec (.flowUnreachable dst) s = execFlowUnreachable dst s := rfl
theorem exec_switchMerge (sw : Nat) (p : Packet) (s : State) : exec (.switchMerge sw p) s = execSwitchMerge sw p s := rfl
theorem exec_mergeEntryForward (sw : Nat) (entry : Nat) (full : Bool) (s : State) : exec (.mergeEntryForward sw entry full) s = execMergeEntryForward sw entry full s := rfl
theorem exec_mergedPacketReceipt (p : Arrival) (s : State) : exec (.mergedPacketReceipt p) s = execMergedPacketReceipt p s := rfl
theorem exec_replayUnmerged (dst : Nat) (seqs : List Nat) (s : State) : exec (.replayUnmerged dst seqs) s = execReplayUnmerged dst seqs s := rfl
theorem exec_phaseQuietReport (ctx : Nat) (ph : Bool) (unit : Nat) (s : State) : exec (.phaseQuietReport ctx ph unit) s = execPhaseQuietReport ctx ph unit s := rfl
theorem exec_gangPrepare (g : GangMsg) (s : State) : exec (.gangPrepare g) s = execGangPrepare g s := rfl
theorem exec_gangPrepareAnswer (slot : Nat) (member : Nat) (status : Nat) (s : State) : exec (.gangPrepareAnswer slot member status) s = execGangPrepareAnswer slot member status s := rfl
theorem exec_gangPrepareTimeout (slot : Nat) (s : State) : exec (.gangPrepareTimeout slot) s = execGangPrepareTimeout slot s := rfl
theorem exec_gangBegin (key : Nat) (s : State) : exec (.gangBegin key) s = execGangBegin key s := rfl
theorem exec_gangCancel (key : Nat) (s : State) : exec (.gangCancel key) s = execGangCancel key s := rfl
theorem exec_gangBegun (slot : Nat) (member : Nat) (ended : Option Nat) (s : State) : exec (.gangBegun slot member ended) s = execGangBegun slot member ended s := rfl
theorem exec_gangBeginTimeout (slot : Nat) (s : State) : exec (.gangBeginTimeout slot) s = execGangBeginTimeout slot s := rfl
theorem exec_collectiveCompletion (ctx : Nat) (group : Nat) (k : Nat) (rank : Nat) (order : List Nat) (far : List CollPart) (s : State) : exec (.collectiveCompletion ctx group k rank order far) s = execCollectiveCompletion ctx group k rank order far s := rfl
theorem exec_crossDieTimeout (r : PartName) (s : State) : exec (.crossDieTimeout r) s = execCrossDieTimeout r s := rfl
theorem exec_referenceCounterCompare (first : Nat) (last : Nat) (s : State) : exec (.referenceCounterCompare first last) s = execReferenceCounterCompare first last s := rfl
theorem exec_diectlGo (die : Nat) (s : State) : exec (.diectlGo die) s = execDiectlGo die s := rfl
theorem exec_diectlCancel (die : Nat) (s : State) : exec (.diectlCancel die) s = execDiectlCancel die s := rfl
theorem exec_dieDrainCompletion (die : Nat) (s : State) : exec (.dieDrainCompletion die) s = execDieDrainCompletion die s := rfl
theorem exec_errinjGo (v : Word) (s : State) : exec (.errinjGo v) s = execErrinjGo v s := rfl
theorem exec_linkctlDownSet (port : Nat) (s : State) : exec (.linkctlDownSet port) s = execLinkctlDownSet port s := rfl
theorem exec_linkctlDownClear (port : Nat) (s : State) : exec (.linkctlDownClear port) s = execLinkctlDownClear port s := rfl
theorem exec_fstatWrite (v : Word) (s : State) : exec (.fstatWrite v) s = execFstatWrite v s := rfl
theorem exec_frmWrite (v : Word) (s : State) : exec (.frmWrite v) s = execFrmWrite v s := rfl
theorem exec_mstatClear (v : Word) (s : State) : exec (.mstatClear v) s = execMstatClear v s := rfl
theorem exec_patrolScrub (pa : Nat) (s : State) : exec (.patrolScrub pa) s = execPatrolScrub pa s := rfl
theorem exec_filterClear (s : State) : exec (.filterClear) s = execFilterClear s := rfl
theorem exec_freeze (s : State) : exec (.freeze) s = execFreeze s := rfl
theorem exec_thaw (s : State) : exec (.thaw) s = execThaw s := rfl
theorem exec_testPortRead (what : Nat) (addr : Nat) (s : State) : exec (.testPortRead what addr) s = execTestPortRead what addr s := rfl
theorem exec_pwrgood (sigOk : Bool) (images : List (List Byte)) (straps : List Nat) (fwd : List Nat) (s : State) : exec (.pwrgood sigOk images straps fwd) s = execPwrgood sigOk images straps fwd s := rfl
theorem exec_ucieLinkTraining (ok : Bool) (images : List (List Byte)) (s : State) : exec (.ucieLinkTraining ok images) s = execUcieLinkTraining ok images s := rfl
theorem exec_tier1ChannelTraining (ok : Bool) (s : State) : exec (.tier1ChannelTraining ok) s = execTier1ChannelTraining ok s := rfl
theorem exec_cxlPortTraining (hostsel : List Bool) (hosts : List Bool) (up : PortsUp) (s : State) : exec (.cxlPortTraining hostsel hosts up) s = execCxlPortTraining hostsel hosts up s := rfl
theorem exec_hostCxlMemRead (port : Nat) (pa : Nat) (n : Nat) (s : State) : exec (.hostCxlMemRead port pa n) s = execHostCxlMemRead port pa n s := rfl
theorem exec_hostCxlMemWrite (port : Nat) (pa : Nat) (bytes : List Byte) (s : State) : exec (.hostCxlMemWrite port pa bytes) s = execHostCxlMemWrite port pa bytes s := rfl
theorem exec_hstatClear (v : Word) (s : State) : exec (.hstatClear v) s = execHstatClear v s := rfl
theorem exec_getVersion (port : Nat) (s : State) : exec (.getVersion port) s = execGetVersion port s := rfl
theorem exec_getCapabilities (port : Nat) (s : State) : exec (.getCapabilities port) s = execGetCapabilities port s := rfl
theorem exec_negotiateAlgorithms (o : AlgOffer) (s : State) : exec (.negotiateAlgorithms o) s = execNegotiateAlgorithms o s := rfl
theorem exec_getDigests (port : Nat) (s : State) : exec (.getDigests port) s = execGetDigests port s := rfl
theorem exec_getCertificate (port : Nat) (slot : Nat) (off : Nat) (len : Nat) (s : State) : exec (.getCertificate port slot off len) s = execGetCertificate port slot off len s := rfl
theorem exec_challenge (port : Nat) (nonce : List Byte) (s : State) : exec (.challenge port nonce) s = execChallenge port nonce s := rfl
theorem exec_getMeasurements (port : Nat) (index : Nat) (nonce : List Byte) (s : State) : exec (.getMeasurements port index nonce) s = execGetMeasurements port index nonce s := rfl
theorem exec_illegalInstruction (w : W32) (s : State) : exec (.illegalInstruction w) s = execIllegalInstruction w s := rfl
theorem exec_packageReset (s : State) : exec (.packageReset) s = execPackageReset s := rfl
theorem exec_hostPortLinkDown (port : Nat) (s : State) : exec (.hostPortLinkDown port) s = execHostPortLinkDown port s := rfl
theorem exec_hostPortLinkRetrain (port : Nat) (s : State) : exec (.hostPortLinkRetrain port) s = execHostPortLinkRetrain port s := rfl
theorem exec_contextCreation (p : CtxParams) (s : State) : exec (.contextCreation p) s = execContextCreation p s := rfl
theorem exec_poolEnlargement (ctx : Nat) (spill : Nat) (ovf : Nat) (s : State) : exec (.poolEnlargement ctx spill ovf) s = execPoolEnlargement ctx spill ovf s := rfl
theorem exec_trellisIdentifierBinding (id : Nat) (ctx : Nat) (tasks : List Nat) (n : Nat) (s : State) : exec (.trellisIdentifierBinding id ctx tasks n) s = execTrellisIdentifierBinding id ctx tasks n s := rfl
theorem exec_collectiveGroupBinding (ctx : Nat) (group : Nat) (owner : Nat) (blocks : List Nat) (s : State) : exec (.collectiveGroupBinding ctx group owner blocks) s = execCollectiveGroupBinding ctx group owner blocks s := rfl

end Sys2Proof.Machine
end

