-- ==== Sys2Proof/Laws/Encode.lean ====
section
/-! SUPPORT. The fields of an encoded word, as the decoder, the gate and the register lists read them (R110, R111). -/

namespace Sys2Proof

section Fields

variable (op f : Nat) (d a b : Reg) (i : BitVec 11)

theorem encRr_toNat (ho : op < 128) (hf : f < 16) :
    (encRr op f d a b).toNat = op + 2 ^ 7 * d.toNat + 2 ^ 14 * a.toNat + 2 ^ 21 * b.toNat + 2 ^ 28 * f := by
  have := d.isLt; have := a.isLt; have := b.isLt
  simp only [encRr, BitVec.toNat_ofNat]
  omega

theorem encRi_toNat (ho : op < 128) :
    (encRi op d a i).toNat = op + 2 ^ 7 * d.toNat + 2 ^ 14 * a.toNat + 2 ^ 21 * i.toNat := by
  have := d.isLt; have := a.isLt; have := i.isLt
  simp only [encRi, BitVec.toNat_ofNat]
  omega

theorem encRu_toNat (u : BitVec 18) (ho : op < 128) :
    (encRu op d u).toNat = op + 2 ^ 7 * d.toNat + 2 ^ 14 * u.toNat := by
  have := d.isLt; have := u.isLt
  simp only [encRu, BitVec.toNat_ofNat]
  omega

theorem encJx_toNat (x : BitVec 25) (ho : op < 128) : (encJx op x).toNat = op + 2 ^ 7 * x.toNat := by
  have := x.isLt
  simp only [encJx, BitVec.toNat_ofNat]
  omega

theorem ofNat_reg {n : Nat} {r : Reg} (h : n % 128 = r.toNat) : BitVec.ofNat 7 n = r := by
  apply BitVec.eq_of_toNat_eq; simpa using h

theorem fOp_encRr (ho : op < 128) (hf : f < 16) : fOp (encRr op f d a b) = op := by
  rw [fOp, encRr_toNat op f d a b ho hf]; omega
theorem fF_encRr (ho : op < 128) (hf : f < 16) : fF (encRr op f d a b) = f := by
  have := d.isLt; have := a.isLt; have := b.isLt
  rw [fF, encRr_toNat op f d a b ho hf]; omega
theorem fD_encRr (ho : op < 128) (hf : f < 16) : fD (encRr op f d a b) = d := by
  have := d.isLt
  refine ofNat_reg ?_; rw [encRr_toNat op f d a b ho hf]; omega
theorem fA_encRr (ho : op < 128) (hf : f < 16) : fA (encRr op f d a b) = a := by
  have := d.isLt; have := a.isLt
  refine ofNat_reg ?_; rw [encRr_toNat op f d a b ho hf]; omega
theorem fB_encRr (ho : op < 128) (hf : f < 16) : fB (encRr op f d a b) = b := by
  have := d.isLt; have := a.isLt; have := b.isLt
  refine ofNat_reg ?_; rw [encRr_toNat op f d a b ho hf]; omega

theorem fOp_encRi (ho : op < 128) : fOp (encRi op d a i) = op := by
  rw [fOp, encRi_toNat op d a i ho]; omega
theorem fD_encRi (ho : op < 128) : fD (encRi op d a i) = d := by
  have := d.isLt
  refine ofNat_reg ?_; rw [encRi_toNat op d a i ho]; omega
theorem fA_encRi (ho : op < 128) : fA (encRi op d a i) = a := by
  have := d.isLt; have := a.isLt
  refine ofNat_reg ?_; rw [encRi_toNat op d a i ho]; omega
theorem fI_encRi (ho : op < 128) : fI (encRi op d a i) = i := by
  have := d.isLt; have := a.isLt; have := i.isLt
  apply BitVec.eq_of_toNat_eq
  rw [fI, encRi_toNat op d a i ho]; simp; omega
theorem fO_encRi (ho : op < 128) : fO (encRi op d a i) = i := fI_encRi op d a i ho

theorem fOp_encRu (u : BitVec 18) (ho : op < 128) : fOp (encRu op d u) = op := by
  rw [fOp, encRu_toNat op d u ho]; omega
theorem fD_encRu (u : BitVec 18) (ho : op < 128) : fD (encRu op d u) = d := by
  have := d.isLt
  refine ofNat_reg ?_; rw [encRu_toNat op d u ho]; omega
theorem fU_encRu (u : BitVec 18) (ho : op < 128) : fU (encRu op d u) = u := by
  have := d.isLt; have := u.isLt
  apply BitVec.eq_of_toNat_eq
  rw [fU, encRu_toNat op d u ho]; simp; omega

theorem fOp_encJx (x : BitVec 25) (ho : op < 128) : fOp (encJx op x) = op := by
  rw [fOp, encJx_toNat op x ho]; omega
theorem fX_encJx (x : BitVec 25) (ho : op < 128) : fX (encJx op x) = x := by
  have := x.isLt
  apply BitVec.eq_of_toNat_eq
  rw [fX, encJx_toNat op x ho]; simp; omega

end Fields

namespace Machine

/-- The gate reads the major and F as the decoder does. -/
theorem wOp_eq (w : W32) : wOp w = fOp w := rfl
theorem wF_eq (w : W32) : wF w = fF w := rfl

theorem wordFields_eq (w : W32) : wordFields w = ((fD w).toNat, (fA w).toNat, (fB w).toNat) := by
  simp [wordFields, fD, fA, fB]

/-- The registers a word names, by its decoded fields. -/
theorem wordRegs_eq (w : W32) (want : FieldKind) (so : Bool) : wordRegs w want so =
    (if so && !readsD (fOp w) (fF w) then [] else fieldRegs (kindsOf (fOp w) (fF w)).1 (fD w).toNat want) ++
      fieldRegs (kindsOf (fOp w) (fF w)).2.1 (fA w).toNat want ++ fieldRegs (kindsOf (fOp w) (fF w)).2.2 (fB w).toNat want ++
      (if fOp w = 0x5C && fF w = 10 || fOp w = 0x5D && fF w = 10 then fieldRegs .s ((fB w).toNat + 1) want
        else if fOp w = 0x5E && fF w = 10 then fieldRegs .v ((fD w).toNat + 1) want else []) := by
  simp only [wordRegs, wordFields_eq]
  rfl

end Machine

end Sys2Proof
end

