-- ==== Sys2Proof/Laws/Gate.lean ====
section
/-! SUPPORT. What the gate every instruction word passes can do (R118, R120, R392, R398), and what it leaves unchanged. -/

set_option Elab.async false

namespace Sys2Proof.Machine

open Sys2Proof

@[simp] theorem traced_gateCause (s : State) (w x : W32) (v : Nat) : (s.traced w v).gateCause x = s.gateCause x := rfl
@[simp] theorem traced_poisonedSource (s : State) (w x : W32) (v : Nat) : (s.traced w v).poisonedSource x = s.poisonedSource x := rfl

theorem checked_free {s : State} {w : W32} (hg : s.gateCause w = none) (hp : s.poisonedSource w = false) (k : State → Res) :
    s.checked w k = k (s.touched w) := by
  simp [State.checked, hg, hp]

/-- A word that passes has its own effect, from the entered state, where that effect completes the instruction (a pair holds a trap until
both its waves stand there, R399). -/
theorem guarded_passes {s : State} {w : W32} (h : s.passes w) {k : State → Res}
    (hk : s.th.partner = none ∨ Res.completes (k (s.entered w)) s.th.icount = true) : s.guarded w k = k (s.entered w) := by
  obtain ⟨hg, hp, hs⟩ := h
  unfold State.pairMay at hs
  cases hv : s.th.partner with
  | none => simp [State.guarded, State.entered, hv, checked_free hg hp]
  | some v =>
    rw [hv] at hs
    replace hk := hk.resolve_left (by simp [hv])
    obtain ⟨hw, hl, hs⟩ := hs
    by_cases hb : s.th.shadow = true
    · simp only [hb, if_true] at hs
      simp only [State.entered, hv, hb, if_true] at hk ⊢
      simp [State.guarded, State.pairRun, hv, hw, hl, hb, Nat.not_le.mpr hs.1, hs.2, checked_free hg hp, hk]
    · simp only [hb] at hs
      simp only [State.entered, hv, hb, Bool.false_eq_true, if_false] at hk hs ⊢
      simp [State.guarded, State.pairRun, hv, hw, hl, hg, hp, hb, Nat.not_le.mpr hs, checked_free, hk]

/-- A forbidden word of a thread outside a dual pair takes its trap. -/
theorem guarded_cause {s : State} {w : W32} {c : Nat} (hq : s.th.partner = none) (hg : s.gateCause w = some c) (k : State → Res) :
    s.guarded w k = s.raise c 0 (if c = cTxInTrap then 0 else w.setWidth 64) := by
  simp [State.guarded, State.checked, hq, hg]

/-- A poisoned source raises UE_CONSUMED where the instruction issues. -/
theorem guarded_poisoned {s : State} {w : W32} (hq : s.th.partner = none) (hg : s.gateCause w = none) (hp : s.poisonedSource w = true)
    (hw : s.th.wait = none) (k : State → Res) : s.guarded w k = s.raise cUeConsumed 0 0 := by
  simp [State.guarded, State.checked, hq, hg, hp, hw]

/-! ### The entered state -/

theorem touch_vreg (t : Thread) (l : List Nat) : t.touch l = { t with bound := (t.touch l).bound } := by
  induction l generalizing t with
  | nil => rfl
  | cons a l ih =>
    rw [Thread.touch]
    split
    · rw [ih (t.bind a)]; rfl
    · rw [ih t]

theorem abortTx_eq (t : Thread) (r : Nat) (f : Nat → Bool) : t.abortTx r f = { t with tx := (t.abortTx r f).tx } := by
  unfold Thread.abortTx
  split
  · rfl
  · dsimp only; split <;> rfl

theorem touched_eq (s : State) (w : W32) :
    s.touched w = { s with th := { s.th with bound := (s.touched w).th.bound, tx := (s.touched w).th.tx } } := by
  unfold State.touched
  dsimp only
  split
  · rw [Thread.abortAll, abortTx_eq, touch_vreg]
  · rw [touch_vreg]

/-- Entering changes nothing but which registers are spilled, an aborted transaction, and what a leader notes. -/
theorem entered_eq (s : State) (w : W32) :
    s.entered w = { s with th := { s.th with
      bound := (s.entered w).th.bound, tx := (s.entered w).th.tx, trace := (s.entered w).th.trace } } := by
  unfold State.entered
  split
  · rw [touched_eq]
  · split
    · rw [touched_eq]
    · rw [touched_eq]; rfl

@[simp] theorem entered_sget (s : State) (w : W32) (r : Reg) : (s.entered w).sget r = s.sget r := by
  rw [entered_eq]; rfl
@[simp] theorem entered_sget32 (s : State) (w : W32) (r : Reg) : (s.entered w).sget32 r = s.sget32 r := by
  rw [entered_eq]; rfl
@[simp] theorem entered_tbit (s : State) (w : W32) (r : Reg) (j : Nat) : (s.entered w).tbit r j = s.tbit r j := by
  rw [entered_eq]; rfl
@[simp] theorem entered_active (s : State) (w : W32) (j : Nat) : (s.entered w).active j = s.active j := by
  rw [entered_eq]; rfl
@[simp] theorem entered_activeLanes (s : State) (w : W32) : (s.entered w).activeLanes = s.activeLanes := by
  rw [entered_eq]; rfl
@[simp] theorem entered_elem (s : State) (w : W32) (v : Reg) (j : Nat) : (s.entered w).elem v j = s.elem v j := by
  rw [entered_eq]; rfl
@[simp] theorem entered_pc (s : State) (w : W32) : (s.entered w).th.pc = s.th.pc := by
  rw [entered_eq]
@[simp] theorem entered_blk (s : State) (w : W32) : (s.entered w).blk = s.blk := by
  rw [entered_eq]; rfl

/-- Outside a dual pair, a word without vector sources that may run in a transaction starts from the state as it is. -/
theorem entered_self {s : State} {w : W32} (hq : s.th.partner = none) (hv : wordRegs w .v true = []) (ht : txDisallowed (wOp w) (wF w) = false) :
    s.entered w = s := by
  simp [State.entered, State.touched, hq, hv, ht, Thread.touch]

/-! ### Results (R172) -/

theorem completes_adv {s t : State} (h : t.th.icount = s.th.icount) : Res.completes (.next t.adv) s.th.icount = true := by
  simp [Res.completes, State.adv, h]

@[simp] theorem entered_icount (s : State) (w : W32) : (s.entered w).th.icount = s.th.icount := by
  rw [entered_eq]

@[simp] theorem sset_icount (s : State) (r : Reg) (v : Word) : (s.sset r v).th.icount = s.th.icount := by
  unfold State.sset; split <;> [rfl; (split <;> rfl)]

@[simp] theorem vset_icount (s : State) (v : Reg) (f : Nat → W32) : (s.vset v f).th.icount = s.th.icount := by
  unfold State.vset Thread.vwriteA Thread.bind; rfl

@[simp] theorem tset_icount (s : State) (r : Reg) (f : Nat → Bool) : (s.tset r f).th.icount = s.th.icount := by
  simp [State.tset]

theorem result_passes {s : State} {w : W32} (h : s.passes w) (d : Reg) (f : State → Word) :
    s.result w d f = .next ((s.entered w).sset d (f (s.entered w))).adv :=
  guarded_passes h (.inr (completes_adv (by simp)))

theorem resultT_passes {s : State} {w : W32} (h : s.passes w) (d : Reg) (f : State → Nat → Bool) :
    s.resultT w d f = .next ((s.entered w).tset d (f (s.entered w))).adv :=
  guarded_passes h (.inr (completes_adv (by simp)))

theorem branch_passes {s : State} {w : W32} (h : s.passes w) (x : BitVec 11) (c : State → Bool) :
    s.branch w x c = .next (if c (s.entered w) then (s.entered w).goto (target s.th.pc x) else (s.entered w).adv) := by
  rw [State.branch, guarded_passes h, entered_pc]
  right
  split
  · simp [Res.completes, State.goto]
  · exact completes_adv (by simp)

theorem resultV_passes {s : State} {w : W32} (h : s.passes w) (d : Reg) (f : State → Nat → W32) :
    s.resultV w d f = .next ((s.entered w).vset d (f (s.entered w))).adv :=
  guarded_passes h (.inr (completes_adv (by simp)))

end Sys2Proof.Machine
end

