-- ==== Sys2Proof/Laws/Memory.lean ====
section
/-! SUPPORT. The laws of the two sparse containers: a read after a write, every other key left alone, and the canonical form kept. -/

set_option Elab.async false

namespace Sys2Proof

namespace Map

variable {α : Type}

@[simp] theorem get?_set_self (m : Map α) (i : Nat) (x : α) : get? (set m i x) i = some x := by
  induction m with
  | nil => simp [set, get?]
  | cons p t ih =>
    obtain ⟨k, v⟩ := p
    unfold set
    split
    · simp [get?]
    · split
      · simp [get?]
      · rw [get?, if_neg ‹_›, ih]

theorem get?_set_ne (m : Map α) {i j : Nat} (x : α) (h : j ≠ i) : get? (set m i x) j = get? m j := by
  induction m with
  | nil => simp [set, get?, h]
  | cons p t ih =>
    obtain ⟨k, v⟩ := p
    unfold set
    split
    · subst_vars; simp [get?, h]
    · split
      · simp [get?, h]
      · simp only [get?, ih]

theorem get?_set (m : Map α) (i j : Nat) (x : α) : get? (set m i x) j = if j = i then some x else get? m j := by
  split
  · subst_vars; exact get?_set_self m _ x
  · exact get?_set_ne m x ‹_›

theorem get?_filter_none (m : Map α) (f : Nat × α → Bool) {i : Nat} (h : ∀ p : Nat × α, p.1 = i → f p = false) :
    get? (m.filter f) i = none := by
  induction m with
  | nil => rfl
  | cons p t ih =>
    rw [List.filter_cons]
    split
    · obtain ⟨k, v⟩ := p
      rw [get?, if_neg (fun e => by rw [h _ e.symm] at *; contradiction), ih]
    · exact ih

theorem get?_filter_of (m : Map α) (f : Nat × α → Bool) {i : Nat} (h : ∀ p : Nat × α, p.1 = i → f p = true) :
    get? (m.filter f) i = get? m i := by
  induction m with
  | nil => rfl
  | cons p t ih =>
    obtain ⟨k, v⟩ := p
    by_cases e : i = k
    · rw [List.filter_cons, if_pos (h _ e.symm)]; simp [get?, e]
    · rw [List.filter_cons]
      split <;> simp [get?, e, ih]

@[simp] theorem get?_erase_self (m : Map α) (i : Nat) : get? (erase m i) i = none :=
  get?_filter_none m _ fun p h => by simp [h]

theorem get?_erase_ne (m : Map α) {i j : Nat} (h : j ≠ i) : get? (erase m i) j = get? m j :=
  get?_filter_of m _ fun p e => by simp [e, h]

theorem get?_adjust (m : Map α) (i j : Nat) (f : α → α) : get? (adjust m i f) j = if j = i then (get? m i).map f else get? m j := by
  unfold adjust
  split
  · rw [get?_set]; split <;> simp_all
  · split <;> simp_all

/-- The first key of a sorted map is below every key after it. -/
theorem sorted_cons {k : Nat} {v : α} {t : Map α} : sorted ((k, v) :: t) = true ↔ (∀ p ∈ t, k < p.1) ∧ sorted t = true := by
  induction t generalizing k v with
  | nil => simp [sorted]
  | cons p t ih =>
    obtain ⟨k', v'⟩ := p
    simp only [sorted, Bool.and_eq_true, decide_eq_true_eq, List.mem_cons, forall_eq_or_imp]
    constructor
    · rintro ⟨h, hs⟩
      exact ⟨⟨h, fun p hp => Nat.lt_trans h ((ih.mp hs).1 p hp)⟩, hs⟩
    · rintro ⟨⟨h, -⟩, hs⟩
      exact ⟨h, hs⟩

theorem mem_set {m : Map α} {i : Nat} {x : α} {p : Nat × α} (h : p ∈ set m i x) : p = (i, x) ∨ p ∈ m := by
  induction m with
  | nil => simpa [set] using h
  | cons q t ih =>
    obtain ⟨k, v⟩ := q
    unfold set at h
    split at h
    · rcases List.mem_cons.mp h with h | h
      · exact .inl h
      · exact .inr (List.mem_cons_of_mem _ h)
    · split at h
      · rcases List.mem_cons.mp h with h | h
        · exact .inl h
        · exact .inr h
      · rcases List.mem_cons.mp h with h | h
        · exact .inr (h ▸ List.mem_cons_self ..)
        · exact (ih h).imp id (List.mem_cons_of_mem _)

theorem sorted_set {m : Map α} (h : sorted m = true) (i : Nat) (x : α) : sorted (set m i x) = true := by
  induction m with
  | nil => rfl
  | cons q t ih =>
    obtain ⟨k, v⟩ := q
    have ⟨hk, ht⟩ := sorted_cons.mp h
    unfold set
    split
    · subst_vars; exact sorted_cons.mpr ⟨hk, ht⟩
    · split
      · rename_i hlt
        exact sorted_cons.mpr ⟨fun p hp => by
          rcases List.mem_cons.mp hp with rfl | hp
          · exact hlt
          · exact Nat.lt_trans hlt (hk p hp), h⟩
      · refine sorted_cons.mpr ⟨fun p hp => ?_, ih ht⟩
        rcases mem_set hp with rfl | hp
        · show k < i; omega
        · exact hk p hp

theorem sorted_filter {m : Map α} (h : sorted m = true) (f : Nat × α → Bool) : sorted (m.filter f) = true := by
  induction m with
  | nil => rfl
  | cons q t ih =>
    obtain ⟨k, v⟩ := q
    have ⟨hk, ht⟩ := sorted_cons.mp h
    rw [List.filter_cons]
    split
    · exact sorted_cons.mpr ⟨fun p hp => hk p (List.mem_filter.mp hp).1, ih ht⟩
    · exact ih ht

theorem sorted_erase {m : Map α} (h : sorted m = true) (i : Nat) : sorted (erase m i) = true := sorted_filter h _

theorem sorted_adjust {m : Map α} (h : sorted m = true) (i : Nat) (f : α → α) : sorted (adjust m i f) = true := by
  unfold adjust; split
  · exact sorted_set h _ _
  · exact h

/-- A map whose keys stay keeps its order. -/
theorem sorted_mapVals {β : Type} {m : Map α} (h : sorted m = true) (f : Nat × α → Nat × β) (hf : ∀ p, (f p).1 = p.1) :
    sorted (m.map f : Map β) = true := by
  induction m with
  | nil => rfl
  | cons q t ih =>
    obtain ⟨k, v⟩ := q
    have ⟨hk, ht⟩ := sorted_cons.mp h
    have e : f (k, v) = (k, (f (k, v)).2) := Prod.ext (hf _) rfl
    rw [List.map_cons, e]
    refine sorted_cons.mpr ⟨fun p hp => ?_, ih ht⟩
    obtain ⟨q, hq, rfl⟩ := List.mem_map.mp hp
    rw [hf]; exact hk q hq

/-- What is listed at a key is an entry. -/
theorem mem_of_get? {m : Map α} {i : Nat} {x : α} (h : get? m i = some x) : (i, x) ∈ m := by
  induction m with
  | nil => simp [get?] at h
  | cons q t ih =>
    obtain ⟨k, v⟩ := q
    unfold get? at h
    split at h
    · subst_vars; simp_all
    · exact List.mem_cons_of_mem _ (ih h)

/-- In a sorted map an entry is what its key lists. -/
theorem get?_of_mem {m : Map α} {i : Nat} {x : α} (hs : sorted m = true) (h : (i, x) ∈ m) : get? m i = some x := by
  induction m with
  | nil => simp at h
  | cons q t ih =>
    obtain ⟨k, v⟩ := q
    have ⟨hk, ht⟩ := sorted_cons.mp hs
    rcases List.mem_cons.mp h with h | h
    · cases h; simp [get?]
    · have : k < i := hk _ h
      rw [get?, if_neg (by omega), ih ht h]

end Map

namespace Memory

theorem read_write_self (m : Memory) (a : Nat) (b : Byte) : read (write m a b) a = b := by
  unfold read write Map.put Map.getD
  split
  · subst_vars; simp [Map.get?_erase_self]
  · simp [Map.get?_set_self]

theorem read_write_ne (m : Memory) {a p : Nat} (b : Byte) (h : p ≠ a) : read (write m a b) p = read m p := by
  unfold read write Map.put Map.getD
  split
  · rw [Map.get?_erase_ne m h]
  · rw [Map.get?_set_ne m b h]

theorem read_writeN_out (m : Memory) {a n p : Nat} (x : Nat) (h : p < a ∨ a + n ≤ p) : read (writeN m a n x) p = read m p := by
  induction n generalizing m a x with
  | zero => rfl
  | succ n ih =>
    rw [writeN, ih _ _ (by omega), read_write_ne _ _ (by omega)]

theorem read_writeBytes_out (m : Memory) {a p : Nat} (bs : List Byte) (h : p < a ∨ a + bs.length ≤ p) : read (writeBytes m a bs) p = read m p := by
  induction bs generalizing m a with
  | nil => rfl
  | cons b t ih =>
    simp only [List.length_cons] at h
    rw [writeBytes, ih _ (by omega), read_write_ne _ _ (by omega)]

/-- Reads of the same bytes give the same number. -/
theorem readN_congr {m m' : Memory} {a n : Nat} (h : ∀ p, a ≤ p → p < a + n → read m p = read m' p) : readN m a n = readN m' a n := by
  induction n generalizing a with
  | zero => rfl
  | succ n ih => rw [readN, readN, h a (Nat.le_refl _) (by omega), ih fun p h1 h2 => h p (by omega) (by omega)]

/-- A read of a written number gives its low bytes. -/
theorem readN_writeN (m : Memory) (a n x : Nat) : readN (writeN m a n x) a n = x % 256 ^ n := by
  induction n generalizing m a x with
  | zero => simp [readN, Nat.mod_one]
  | succ n ih =>
    rw [readN, writeN, read_writeN_out _ _ (.inl (Nat.lt_succ_self a)), read_write_self, ih, Nat.pow_succ']
    rw [Nat.mod_mul]
    simp [BitVec.toNat_ofNat]

theorem readN_lt (m : Memory) (a n : Nat) : readN m a n < 256 ^ n := by
  induction n generalizing a with
  | zero => simp [readN]
  | succ n ih =>
    have := ih (a + 1)
    have := (read m a).isLt
    rw [readN, Nat.pow_succ']; omega

/-! ### The canonical form -/

theorem wf_iff {m : Memory} : wf m = true ↔ Map.sorted m = true ∧ ∀ p ∈ m, p.2 ≠ unlisted := by
  simp [wf, List.all_eq_true]

theorem wf_write {m : Memory} (h : wf m = true) (a : Nat) (b : Byte) : wf (write m a b) = true := by
  have ⟨hs, hn⟩ := wf_iff.mp h
  unfold write Map.put
  split
  · exact wf_iff.mpr ⟨Map.sorted_erase hs a, fun p hp => hn p (List.mem_filter.mp hp).1⟩
  · refine wf_iff.mpr ⟨Map.sorted_set hs a b, fun p hp => ?_⟩
    rcases Map.mem_set hp with rfl | hp
    · assumption
    · exact hn p hp

theorem wf_writeN {m : Memory} (h : wf m = true) (a n x : Nat) : wf (writeN m a n x) = true := by
  induction n generalizing m a x with
  | zero => exact h
  | succ n ih => exact ih (wf_write h _ _) _ _

theorem wf_writeBytes {m : Memory} (h : wf m = true) (a : Nat) (bs : List Byte) : wf (writeBytes m a bs) = true := by
  induction bs generalizing m a with
  | nil => exact h
  | cons b t ih => exact ih (wf_write h _ _) _

theorem wf_filter {m : Memory} (h : wf m = true) (f : Nat × Byte → Bool) : wf (m.filter f) = true := by
  have ⟨hs, hn⟩ := wf_iff.mp h
  exact wf_iff.mpr ⟨Map.sorted_filter hs f, fun p hp => hn p (List.mem_filter.mp hp).1⟩

end Memory

end Sys2Proof
end

