-- ==== Sys2Proof/Laws/State.lean ====
section
/-! SUPPORT. The fields of the machine after each update by name: what an update sets, and that it leaves every other field. -/

set_option Elab.async false

namespace Sys2Proof.Machine

open Sys2Proof

theorem sset_eq (s : State) (r : Reg) (v : Word) : s.sset r v = { s with th := (s.sset r v).th } := by
  unfold State.sset; split <;> [rfl; (split <;> rfl)]

theorem vset_eq (s : State) (v : Reg) (f : Nat → W32) : s.vset v f = { s with th := (s.vset v f).th } := rfl

theorem tset_eq (s : State) (r : Reg) (f : Nat → Bool) : s.tset r f = { s with th := (s.tset r f).th } := by
  unfold State.tset; rw [sset_eq _ (r + 2), sset_eq _ (r + 1), sset_eq s r]

theorem setThread_eq (s : State) (t : Thread) : s.setThread t = { s with th := (s.setThread t).th, threads := (s.setThread t).threads } := by
  unfold State.setThread; split <;> rfl

/-! ### modTh -/

@[simp] theorem modTh_threads (s : State) (f : Thread → Thread) : (s.modTh f).threads = s.threads := rfl
@[simp] theorem modTh_nextUid (s : State) (f : Thread → Thread) : (s.modTh f).nextUid = s.nextUid := rfl
@[simp] theorem modTh_blocks (s : State) (f : Thread → Thread) : (s.modTh f).blocks = s.blocks := rfl
@[simp] theorem modTh_cores (s : State) (f : Thread → Thread) : (s.modTh f).cores = s.cores := rfl
@[simp] theorem modTh_tasks (s : State) (f : Thread → Thread) : (s.modTh f).tasks = s.tasks := rfl
@[simp] theorem modTh_ctxs (s : State) (f : Thread → Thread) : (s.modTh f).ctxs = s.ctxs := rfl
@[simp] theorem modTh_tier (s : State) (f : Thread → Thread) : (s.modTh f).tier = s.tier := rfl
@[simp] theorem modTh_home (s : State) (f : Thread → Thread) : (s.modTh f).home = s.home := rfl
@[simp] theorem modTh_memPoison (s : State) (f : Thread → Thread) : (s.modTh f).memPoison = s.memPoison := rfl
@[simp] theorem modTh_tierPoison (s : State) (f : Thread → Thread) : (s.modTh f).tierPoison = s.tierPoison := rfl
@[simp] theorem modTh_lines (s : State) (f : Thread → Thread) : (s.modTh f).lines = s.lines := rfl
@[simp] theorem modTh_tick (s : State) (f : Thread → Thread) : (s.modTh f).tick = s.tick := rfl
@[simp] theorem modTh_quarantined (s : State) (f : Thread → Thread) : (s.modTh f).quarantined = s.quarantined := rfl
@[simp] theorem modTh_retired (s : State) (f : Thread → Thread) : (s.modTh f).retired = s.retired := rfl
@[simp] theorem modTh_seed (s : State) (f : Thread → Thread) : (s.modTh f).seed = s.seed := rfl
@[simp] theorem modTh_seedPoison (s : State) (f : Thread → Thread) : (s.modTh f).seedPoison = s.seedPoison := rfl
@[simp] theorem modTh_watch (s : State) (f : Thread → Thread) : (s.modTh f).watch = s.watch := rfl
@[simp] theorem modTh_woken (s : State) (f : Thread → Thread) : (s.modTh f).woken = s.woken := rfl
@[simp] theorem modTh_trellis (s : State) (f : Thread → Thread) : (s.modTh f).trellis = s.trellis := rfl
@[simp] theorem modTh_now (s : State) (f : Thread → Thread) : (s.modTh f).now = s.now := rfl
@[simp] theorem modTh_skew (s : State) (f : Thread → Thread) : (s.modTh f).skew = s.skew := rfl
@[simp] theorem modTh_dieTlb (s : State) (f : Thread → Thread) : (s.modTh f).dieTlb = s.dieTlb := rfl
@[simp] theorem modTh_asks (s : State) (f : Thread → Thread) : (s.modTh f).asks = s.asks := rfl
@[simp] theorem modTh_walked (s : State) (f : Thread → Thread) : (s.modTh f).walked = s.walked := rfl
@[simp] theorem modTh_cycles (s : State) (f : Thread → Thread) : (s.modTh f).cycles = s.cycles := rfl
@[simp] theorem modTh_svcCycles (s : State) (f : Thread → Thread) : (s.modTh f).svcCycles = s.svcCycles := rfl
@[simp] theorem modTh_frozen (s : State) (f : Thread → Thread) : (s.modTh f).frozen = s.frozen := rfl
@[simp] theorem modTh_mhz (s : State) (f : Thread → Thread) : (s.modTh f).mhz = s.mhz := rfl
@[simp] theorem modTh_pkg (s : State) (f : Thread → Thread) : (s.modTh f).pkg = s.pkg := rfl
@[simp] theorem modTh_dies (s : State) (f : Thread → Thread) : (s.modTh f).dies = s.dies := rfl
@[simp] theorem modTh_windowAdmitted (s : State) (f : Thread → Thread) : (s.modTh f).windowAdmitted = s.windowAdmitted := rfl
@[simp] theorem modTh_windowNo (s : State) (f : Thread → Thread) : (s.modTh f).windowNo = s.windowNo := rfl
@[simp] theorem modTh_events (s : State) (f : Thread → Thread) : (s.modTh f).events = s.events := rfl
@[simp] theorem modTh_eventsRead (s : State) (f : Thread → Thread) : (s.modTh f).eventsRead = s.eventsRead := rfl
@[simp] theorem modTh_logCap (s : State) (f : Thread → Thread) : (s.modTh f).logCap = s.logCap := rfl
@[simp] theorem modTh_flows (s : State) (f : Thread → Thread) : (s.modTh f).flows = s.flows := rfl
@[simp] theorem modTh_rx (s : State) (f : Thread → Thread) : (s.modTh f).rx = s.rx := rfl
@[simp] theorem modTh_failed (s : State) (f : Thread → Thread) : (s.modTh f).failed = s.failed := rfl
@[simp] theorem modTh_merges (s : State) (f : Thread → Thread) : (s.modTh f).merges = s.merges := rfl
@[simp] theorem modTh_down (s : State) (f : Thread → Thread) : (s.modTh f).down = s.down := rfl
@[simp] theorem modTh_unreach (s : State) (f : Thread → Thread) : (s.modTh f).unreach = s.unreach := rfl
@[simp] theorem modTh_reroute (s : State) (f : Thread → Thread) : (s.modTh f).reroute = s.reroute := rfl
@[simp] theorem modTh_replayed (s : State) (f : Thread → Thread) : (s.modTh f).replayed = s.replayed := rfl
@[simp] theorem modTh_fxEn (s : State) (f : Thread → Thread) : (s.modTh f).fxEn = s.fxEn := rfl
@[simp] theorem modTh_fxBase (s : State) (f : Thread → Thread) : (s.modTh f).fxBase = s.fxBase := rfl
@[simp] theorem modTh_gangs (s : State) (f : Thread → Thread) : (s.modTh f).gangs = s.gangs := rfl
@[simp] theorem modTh_members (s : State) (f : Thread → Thread) : (s.modTh f).members = s.members := rfl
@[simp] theorem modTh_preps (s : State) (f : Thread → Thread) : (s.modTh f).preps = s.preps := rfl
@[simp] theorem modTh_colls (s : State) (f : Thread → Thread) : (s.modTh f).colls = s.colls := rfl
@[simp] theorem modTh_collSent (s : State) (f : Thread → Thread) : (s.modTh f).collSent = s.collSent := rfl
@[simp] theorem modTh_crossings (s : State) (f : Thread → Thread) : (s.modTh f).crossings = s.crossings := rfl
@[simp] theorem modTh_outbox (s : State) (f : Thread → Thread) : (s.modTh f).outbox = s.outbox := rfl
@[simp] theorem modTh_winAsks (s : State) (f : Thread → Thread) : (s.modTh f).winAsks = s.winAsks := rfl
@[simp] theorem modTh_locks (s : State) (f : Thread → Thread) : (s.modTh f).locks = s.locks := rfl
@[simp] theorem modTh_owed (s : State) (f : Thread → Thread) : (s.modTh f).owed = s.owed := rfl
@[simp] theorem modTh_err (s : State) (f : Thread → Thread) : (s.modTh f).err = s.err := rfl
@[simp] theorem modTh_host (s : State) (f : Thread → Thread) : (s.modTh f).host = s.host := rfl
@[simp] theorem modTh_test (s : State) (f : Thread → Thread) : (s.modTh f).test = s.test := rfl
@[simp] theorem modTh_marks (s : State) (f : Thread → Thread) : (s.modTh f).marks = s.marks := rfl
@[simp] theorem modTh_agenda (s : State) (f : Thread → Thread) : (s.modTh f).agenda = s.agenda := rfl
@[simp] theorem modTh_free (s : State) (f : Thread → Thread) : (s.modTh f).free = s.free := rfl

/-! ### modBlock -/

@[simp] theorem modBlock_th (s : State) (b : Nat) (f : Block → Block) : (s.modBlock b f).th = s.th := rfl
@[simp] theorem modBlock_threads (s : State) (b : Nat) (f : Block → Block) : (s.modBlock b f).threads = s.threads := rfl
@[simp] theorem modBlock_nextUid (s : State) (b : Nat) (f : Block → Block) : (s.modBlock b f).nextUid = s.nextUid := rfl
@[simp] theorem modBlock_cores (s : State) (b : Nat) (f : Block → Block) : (s.modBlock b f).cores = s.cores := rfl
@[simp] theorem modBlock_tasks (s : State) (b : Nat) (f : Block → Block) : (s.modBlock b f).tasks = s.tasks := rfl
@[simp] theorem modBlock_ctxs (s : State) (b : Nat) (f : Block → Block) : (s.modBlock b f).ctxs = s.ctxs := rfl
@[simp] theorem modBlock_tier (s : State) (b : Nat) (f : Block → Block) : (s.modBlock b f).tier = s.tier := rfl
@[simp] theorem modBlock_home (s : State) (b : Nat) (f : Block → Block) : (s.modBlock b f).home = s.home := rfl
@[simp] theorem modBlock_memPoison (s : State) (b : Nat) (f : Block → Block) : (s.modBlock b f).memPoison = s.memPoison := rfl
@[simp] theorem modBlock_tierPoison (s : State) (b : Nat) (f : Block → Block) : (s.modBlock b f).tierPoison = s.tierPoison := rfl
@[simp] theorem modBlock_lines (s : State) (b : Nat) (f : Block → Block) : (s.modBlock b f).lines = s.lines := rfl
@[simp] theorem modBlock_tick (s : State) (b : Nat) (f : Block → Block) : (s.modBlock b f).tick = s.tick := rfl
@[simp] theorem modBlock_quarantined (s : State) (b : Nat) (f : Block → Block) : (s.modBlock b f).quarantined = s.quarantined := rfl
@[simp] theorem modBlock_retired (s : State) (b : Nat) (f : Block → Block) : (s.modBlock b f).retired = s.retired := rfl
@[simp] theorem modBlock_seed (s : State) (b : Nat) (f : Block → Block) : (s.modBlock b f).seed = s.seed := rfl
@[simp] theorem modBlock_seedPoison (s : State) (b : Nat) (f : Block → Block) : (s.modBlock b f).seedPoison = s.seedPoison := rfl
@[simp] theorem modBlock_watch (s : State) (b : Nat) (f : Block → Block) : (s.modBlock b f).watch = s.watch := rfl
@[simp] theorem modBlock_woken (s : State) (b : Nat) (f : Block → Block) : (s.modBlock b f).woken = s.woken := rfl
@[simp] theorem modBlock_trellis (s : State) (b : Nat) (f : Block → Block) : (s.modBlock b f).trellis = s.trellis := rfl
@[simp] theorem modBlock_now (s : State) (b : Nat) (f : Block → Block) : (s.modBlock b f).now = s.now := rfl
@[simp] theorem modBlock_skew (s : State) (b : Nat) (f : Block → Block) : (s.modBlock b f).skew = s.skew := rfl
@[simp] theorem modBlock_dieTlb (s : State) (b : Nat) (f : Block → Block) : (s.modBlock b f).dieTlb = s.dieTlb := rfl
@[simp] theorem modBlock_asks (s : State) (b : Nat) (f : Block → Block) : (s.modBlock b f).asks = s.asks := rfl
@[simp] theorem modBlock_walked (s : State) (b : Nat) (f : Block → Block) : (s.modBlock b f).walked = s.walked := rfl
@[simp] theorem modBlock_cycles (s : State) (b : Nat) (f : Block → Block) : (s.modBlock b f).cycles = s.cycles := rfl
@[simp] theorem modBlock_svcCycles (s : State) (b : Nat) (f : Block → Block) : (s.modBlock b f).svcCycles = s.svcCycles := rfl
@[simp] theorem modBlock_frozen (s : State) (b : Nat) (f : Block → Block) : (s.modBlock b f).frozen = s.frozen := rfl
@[simp] theorem modBlock_mhz (s : State) (b : Nat) (f : Block → Block) : (s.modBlock b f).mhz = s.mhz := rfl
@[simp] theorem modBlock_pkg (s : State) (b : Nat) (f : Block → Block) : (s.modBlock b f).pkg = s.pkg := rfl
@[simp] theorem modBlock_dies (s : State) (b : Nat) (f : Block → Block) : (s.modBlock b f).dies = s.dies := rfl
@[simp] theorem modBlock_windowAdmitted (s : State) (b : Nat) (f : Block → Block) : (s.modBlock b f).windowAdmitted = s.windowAdmitted := rfl
@[simp] theorem modBlock_windowNo (s : State) (b : Nat) (f : Block → Block) : (s.modBlock b f).windowNo = s.windowNo := rfl
@[simp] theorem modBlock_events (s : State) (b : Nat) (f : Block → Block) : (s.modBlock b f).events = s.events := rfl
@[simp] theorem modBlock_eventsRead (s : State) (b : Nat) (f : Block → Block) : (s.modBlock b f).eventsRead = s.eventsRead := rfl
@[simp] theorem modBlock_logCap (s : State) (b : Nat) (f : Block → Block) : (s.modBlock b f).logCap = s.logCap := rfl
@[simp] theorem modBlock_flows (s : State) (b : Nat) (f : Block → Block) : (s.modBlock b f).flows = s.flows := rfl
@[simp] theorem modBlock_rx (s : State) (b : Nat) (f : Block → Block) : (s.modBlock b f).rx = s.rx := rfl
@[simp] theorem modBlock_failed (s : State) (b : Nat) (f : Block → Block) : (s.modBlock b f).failed = s.failed := rfl
@[simp] theorem modBlock_merges (s : State) (b : Nat) (f : Block → Block) : (s.modBlock b f).merges = s.merges := rfl
@[simp] theorem modBlock_down (s : State) (b : Nat) (f : Block → Block) : (s.modBlock b f).down = s.down := rfl
@[simp] theorem modBlock_unreach (s : State) (b : Nat) (f : Block → Block) : (s.modBlock b f).unreach = s.unreach := rfl
@[simp] theorem modBlock_reroute (s : State) (b : Nat) (f : Block → Block) : (s.modBlock b f).reroute = s.reroute := rfl
@[simp] theorem modBlock_replayed (s : State) (b : Nat) (f : Block → Block) : (s.modBlock b f).replayed = s.replayed := rfl
@[simp] theorem modBlock_fxEn (s : State) (b : Nat) (f : Block → Block) : (s.modBlock b f).fxEn = s.fxEn := rfl
@[simp] theorem modBlock_fxBase (s : State) (b : Nat) (f : Block → Block) : (s.modBlock b f).fxBase = s.fxBase := rfl
@[simp] theorem modBlock_gangs (s : State) (b : Nat) (f : Block → Block) : (s.modBlock b f).gangs = s.gangs := rfl
@[simp] theorem modBlock_members (s : State) (b : Nat) (f : Block → Block) : (s.modBlock b f).members = s.members := rfl
@[simp] theorem modBlock_preps (s : State) (b : Nat) (f : Block → Block) : (s.modBlock b f).preps = s.preps := rfl
@[simp] theorem modBlock_colls (s : State) (b : Nat) (f : Block → Block) : (s.modBlock b f).colls = s.colls := rfl
@[simp] theorem modBlock_collSent (s : State) (b : Nat) (f : Block → Block) : (s.modBlock b f).collSent = s.collSent := rfl
@[simp] theorem modBlock_crossings (s : State) (b : Nat) (f : Block → Block) : (s.modBlock b f).crossings = s.crossings := rfl
@[simp] theorem modBlock_outbox (s : State) (b : Nat) (f : Block → Block) : (s.modBlock b f).outbox = s.outbox := rfl
@[simp] theorem modBlock_winAsks (s : State) (b : Nat) (f : Block → Block) : (s.modBlock b f).winAsks = s.winAsks := rfl
@[simp] theorem modBlock_locks (s : State) (b : Nat) (f : Block → Block) : (s.modBlock b f).locks = s.locks := rfl
@[simp] theorem modBlock_owed (s : State) (b : Nat) (f : Block → Block) : (s.modBlock b f).owed = s.owed := rfl
@[simp] theorem modBlock_err (s : State) (b : Nat) (f : Block → Block) : (s.modBlock b f).err = s.err := rfl
@[simp] theorem modBlock_host (s : State) (b : Nat) (f : Block → Block) : (s.modBlock b f).host = s.host := rfl
@[simp] theorem modBlock_test (s : State) (b : Nat) (f : Block → Block) : (s.modBlock b f).test = s.test := rfl
@[simp] theorem modBlock_marks (s : State) (b : Nat) (f : Block → Block) : (s.modBlock b f).marks = s.marks := rfl
@[simp] theorem modBlock_agenda (s : State) (b : Nat) (f : Block → Block) : (s.modBlock b f).agenda = s.agenda := rfl
@[simp] theorem modBlock_free (s : State) (b : Nat) (f : Block → Block) : (s.modBlock b f).free = s.free := rfl

/-! ### modCore -/

@[simp] theorem modCore_th (s : State) (c : Nat) (f : Core → Core) : (s.modCore c f).th = s.th := rfl
@[simp] theorem modCore_threads (s : State) (c : Nat) (f : Core → Core) : (s.modCore c f).threads = s.threads := rfl
@[simp] theorem modCore_nextUid (s : State) (c : Nat) (f : Core → Core) : (s.modCore c f).nextUid = s.nextUid := rfl
@[simp] theorem modCore_blocks (s : State) (c : Nat) (f : Core → Core) : (s.modCore c f).blocks = s.blocks := rfl
@[simp] theorem modCore_tasks (s : State) (c : Nat) (f : Core → Core) : (s.modCore c f).tasks = s.tasks := rfl
@[simp] theorem modCore_ctxs (s : State) (c : Nat) (f : Core → Core) : (s.modCore c f).ctxs = s.ctxs := rfl
@[simp] theorem modCore_tier (s : State) (c : Nat) (f : Core → Core) : (s.modCore c f).tier = s.tier := rfl
@[simp] theorem modCore_home (s : State) (c : Nat) (f : Core → Core) : (s.modCore c f).home = s.home := rfl
@[simp] theorem modCore_memPoison (s : State) (c : Nat) (f : Core → Core) : (s.modCore c f).memPoison = s.memPoison := rfl
@[simp] theorem modCore_tierPoison (s : State) (c : Nat) (f : Core → Core) : (s.modCore c f).tierPoison = s.tierPoison := rfl
@[simp] theorem modCore_lines (s : State) (c : Nat) (f : Core → Core) : (s.modCore c f).lines = s.lines := rfl
@[simp] theorem modCore_tick (s : State) (c : Nat) (f : Core → Core) : (s.modCore c f).tick = s.tick := rfl
@[simp] theorem modCore_quarantined (s : State) (c : Nat) (f : Core → Core) : (s.modCore c f).quarantined = s.quarantined := rfl
@[simp] theorem modCore_retired (s : State) (c : Nat) (f : Core → Core) : (s.modCore c f).retired = s.retired := rfl
@[simp] theorem modCore_seed (s : State) (c : Nat) (f : Core → Core) : (s.modCore c f).seed = s.seed := rfl
@[simp] theorem modCore_seedPoison (s : State) (c : Nat) (f : Core → Core) : (s.modCore c f).seedPoison = s.seedPoison := rfl
@[simp] theorem modCore_watch (s : State) (c : Nat) (f : Core → Core) : (s.modCore c f).watch = s.watch := rfl
@[simp] theorem modCore_woken (s : State) (c : Nat) (f : Core → Core) : (s.modCore c f).woken = s.woken := rfl
@[simp] theorem modCore_trellis (s : State) (c : Nat) (f : Core → Core) : (s.modCore c f).trellis = s.trellis := rfl
@[simp] theorem modCore_now (s : State) (c : Nat) (f : Core → Core) : (s.modCore c f).now = s.now := rfl
@[simp] theorem modCore_skew (s : State) (c : Nat) (f : Core → Core) : (s.modCore c f).skew = s.skew := rfl
@[simp] theorem modCore_dieTlb (s : State) (c : Nat) (f : Core → Core) : (s.modCore c f).dieTlb = s.dieTlb := rfl
@[simp] theorem modCore_asks (s : State) (c : Nat) (f : Core → Core) : (s.modCore c f).asks = s.asks := rfl
@[simp] theorem modCore_walked (s : State) (c : Nat) (f : Core → Core) : (s.modCore c f).walked = s.walked := rfl
@[simp] theorem modCore_cycles (s : State) (c : Nat) (f : Core → Core) : (s.modCore c f).cycles = s.cycles := rfl
@[simp] theorem modCore_svcCycles (s : State) (c : Nat) (f : Core → Core) : (s.modCore c f).svcCycles = s.svcCycles := rfl
@[simp] theorem modCore_frozen (s : State) (c : Nat) (f : Core → Core) : (s.modCore c f).frozen = s.frozen := rfl
@[simp] theorem modCore_mhz (s : State) (c : Nat) (f : Core → Core) : (s.modCore c f).mhz = s.mhz := rfl
@[simp] theorem modCore_pkg (s : State) (c : Nat) (f : Core → Core) : (s.modCore c f).pkg = s.pkg := rfl
@[simp] theorem modCore_dies (s : State) (c : Nat) (f : Core → Core) : (s.modCore c f).dies = s.dies := rfl
@[simp] theorem modCore_windowAdmitted (s : State) (c : Nat) (f : Core → Core) : (s.modCore c f).windowAdmitted = s.windowAdmitted := rfl
@[simp] theorem modCore_windowNo (s : State) (c : Nat) (f : Core → Core) : (s.modCore c f).windowNo = s.windowNo := rfl
@[simp] theorem modCore_events (s : State) (c : Nat) (f : Core → Core) : (s.modCore c f).events = s.events := rfl
@[simp] theorem modCore_eventsRead (s : State) (c : Nat) (f : Core → Core) : (s.modCore c f).eventsRead = s.eventsRead := rfl
@[simp] theorem modCore_logCap (s : State) (c : Nat) (f : Core → Core) : (s.modCore c f).logCap = s.logCap := rfl
@[simp] theorem modCore_flows (s : State) (c : Nat) (f : Core → Core) : (s.modCore c f).flows = s.flows := rfl
@[simp] theorem modCore_rx (s : State) (c : Nat) (f : Core → Core) : (s.modCore c f).rx = s.rx := rfl
@[simp] theorem modCore_failed (s : State) (c : Nat) (f : Core → Core) : (s.modCore c f).failed = s.failed := rfl
@[simp] theorem modCore_merges (s : State) (c : Nat) (f : Core → Core) : (s.modCore c f).merges = s.merges := rfl
@[simp] theorem modCore_down (s : State) (c : Nat) (f : Core → Core) : (s.modCore c f).down = s.down := rfl
@[simp] theorem modCore_unreach (s : State) (c : Nat) (f : Core → Core) : (s.modCore c f).unreach = s.unreach := rfl
@[simp] theorem modCore_reroute (s : State) (c : Nat) (f : Core → Core) : (s.modCore c f).reroute = s.reroute := rfl
@[simp] theorem modCore_replayed (s : State) (c : Nat) (f : Core → Core) : (s.modCore c f).replayed = s.replayed := rfl
@[simp] theorem modCore_fxEn (s : State) (c : Nat) (f : Core → Core) : (s.modCore c f).fxEn = s.fxEn := rfl
@[simp] theorem modCore_fxBase (s : State) (c : Nat) (f : Core → Core) : (s.modCore c f).fxBase = s.fxBase := rfl
@[simp] theorem modCore_gangs (s : State) (c : Nat) (f : Core → Core) : (s.modCore c f).gangs = s.gangs := rfl
@[simp] theorem modCore_members (s : State) (c : Nat) (f : Core → Core) : (s.modCore c f).members = s.members := rfl
@[simp] theorem modCore_preps (s : State) (c : Nat) (f : Core → Core) : (s.modCore c f).preps = s.preps := rfl
@[simp] theorem modCore_colls (s : State) (c : Nat) (f : Core → Core) : (s.modCore c f).colls = s.colls := rfl
@[simp] theorem modCore_collSent (s : State) (c : Nat) (f : Core → Core) : (s.modCore c f).collSent = s.collSent := rfl
@[simp] theorem modCore_crossings (s : State) (c : Nat) (f : Core → Core) : (s.modCore c f).crossings = s.crossings := rfl
@[simp] theorem modCore_outbox (s : State) (c : Nat) (f : Core → Core) : (s.modCore c f).outbox = s.outbox := rfl
@[simp] theorem modCore_winAsks (s : State) (c : Nat) (f : Core → Core) : (s.modCore c f).winAsks = s.winAsks := rfl
@[simp] theorem modCore_locks (s : State) (c : Nat) (f : Core → Core) : (s.modCore c f).locks = s.locks := rfl
@[simp] theorem modCore_owed (s : State) (c : Nat) (f : Core → Core) : (s.modCore c f).owed = s.owed := rfl
@[simp] theorem modCore_err (s : State) (c : Nat) (f : Core → Core) : (s.modCore c f).err = s.err := rfl
@[simp] theorem modCore_host (s : State) (c : Nat) (f : Core → Core) : (s.modCore c f).host = s.host := rfl
@[simp] theorem modCore_test (s : State) (c : Nat) (f : Core → Core) : (s.modCore c f).test = s.test := rfl
@[simp] theorem modCore_marks (s : State) (c : Nat) (f : Core → Core) : (s.modCore c f).marks = s.marks := rfl
@[simp] theorem modCore_agenda (s : State) (c : Nat) (f : Core → Core) : (s.modCore c f).agenda = s.agenda := rfl
@[simp] theorem modCore_free (s : State) (c : Nat) (f : Core → Core) : (s.modCore c f).free = s.free := rfl

/-! ### modCtx -/

@[simp] theorem modCtx_th (s : State) (c : Nat) (f : Ctx → Ctx) : (s.modCtx c f).th = s.th := rfl
@[simp] theorem modCtx_threads (s : State) (c : Nat) (f : Ctx → Ctx) : (s.modCtx c f).threads = s.threads := rfl
@[simp] theorem modCtx_nextUid (s : State) (c : Nat) (f : Ctx → Ctx) : (s.modCtx c f).nextUid = s.nextUid := rfl
@[simp] theorem modCtx_blocks (s : State) (c : Nat) (f : Ctx → Ctx) : (s.modCtx c f).blocks = s.blocks := rfl
@[simp] theorem modCtx_cores (s : State) (c : Nat) (f : Ctx → Ctx) : (s.modCtx c f).cores = s.cores := rfl
@[simp] theorem modCtx_tasks (s : State) (c : Nat) (f : Ctx → Ctx) : (s.modCtx c f).tasks = s.tasks := rfl
@[simp] theorem modCtx_tier (s : State) (c : Nat) (f : Ctx → Ctx) : (s.modCtx c f).tier = s.tier := rfl
@[simp] theorem modCtx_home (s : State) (c : Nat) (f : Ctx → Ctx) : (s.modCtx c f).home = s.home := rfl
@[simp] theorem modCtx_memPoison (s : State) (c : Nat) (f : Ctx → Ctx) : (s.modCtx c f).memPoison = s.memPoison := rfl
@[simp] theorem modCtx_tierPoison (s : State) (c : Nat) (f : Ctx → Ctx) : (s.modCtx c f).tierPoison = s.tierPoison := rfl
@[simp] theorem modCtx_lines (s : State) (c : Nat) (f : Ctx → Ctx) : (s.modCtx c f).lines = s.lines := rfl
@[simp] theorem modCtx_tick (s : State) (c : Nat) (f : Ctx → Ctx) : (s.modCtx c f).tick = s.tick := rfl
@[simp] theorem modCtx_quarantined (s : State) (c : Nat) (f : Ctx → Ctx) : (s.modCtx c f).quarantined = s.quarantined := rfl
@[simp] theorem modCtx_retired (s : State) (c : Nat) (f : Ctx → Ctx) : (s.modCtx c f).retired = s.retired := rfl
@[simp] theorem modCtx_seed (s : State) (c : Nat) (f : Ctx → Ctx) : (s.modCtx c f).seed = s.seed := rfl
@[simp] theorem modCtx_seedPoison (s : State) (c : Nat) (f : Ctx → Ctx) : (s.modCtx c f).seedPoison = s.seedPoison := rfl
@[simp] theorem modCtx_watch (s : State) (c : Nat) (f : Ctx → Ctx) : (s.modCtx c f).watch = s.watch := rfl
@[simp] theorem modCtx_woken (s : State) (c : Nat) (f : Ctx → Ctx) : (s.modCtx c f).woken = s.woken := rfl
@[simp] theorem modCtx_trellis (s : State) (c : Nat) (f : Ctx → Ctx) : (s.modCtx c f).trellis = s.trellis := rfl
@[simp] theorem modCtx_now (s : State) (c : Nat) (f : Ctx → Ctx) : (s.modCtx c f).now = s.now := rfl
@[simp] theorem modCtx_skew (s : State) (c : Nat) (f : Ctx → Ctx) : (s.modCtx c f).skew = s.skew := rfl
@[simp] theorem modCtx_dieTlb (s : State) (c : Nat) (f : Ctx → Ctx) : (s.modCtx c f).dieTlb = s.dieTlb := rfl
@[simp] theorem modCtx_asks (s : State) (c : Nat) (f : Ctx → Ctx) : (s.modCtx c f).asks = s.asks := rfl
@[simp] theorem modCtx_walked (s : State) (c : Nat) (f : Ctx → Ctx) : (s.modCtx c f).walked = s.walked := rfl
@[simp] theorem modCtx_cycles (s : State) (c : Nat) (f : Ctx → Ctx) : (s.modCtx c f).cycles = s.cycles := rfl
@[simp] theorem modCtx_svcCycles (s : State) (c : Nat) (f : Ctx → Ctx) : (s.modCtx c f).svcCycles = s.svcCycles := rfl
@[simp] theorem modCtx_frozen (s : State) (c : Nat) (f : Ctx → Ctx) : (s.modCtx c f).frozen = s.frozen := rfl
@[simp] theorem modCtx_mhz (s : State) (c : Nat) (f : Ctx → Ctx) : (s.modCtx c f).mhz = s.mhz := rfl
@[simp] theorem modCtx_pkg (s : State) (c : Nat) (f : Ctx → Ctx) : (s.modCtx c f).pkg = s.pkg := rfl
@[simp] theorem modCtx_dies (s : State) (c : Nat) (f : Ctx → Ctx) : (s.modCtx c f).dies = s.dies := rfl
@[simp] theorem modCtx_windowAdmitted (s : State) (c : Nat) (f : Ctx → Ctx) : (s.modCtx c f).windowAdmitted = s.windowAdmitted := rfl
@[simp] theorem modCtx_windowNo (s : State) (c : Nat) (f : Ctx → Ctx) : (s.modCtx c f).windowNo = s.windowNo := rfl
@[simp] theorem modCtx_events (s : State) (c : Nat) (f : Ctx → Ctx) : (s.modCtx c f).events = s.events := rfl
@[simp] theorem modCtx_eventsRead (s : State) (c : Nat) (f : Ctx → Ctx) : (s.modCtx c f).eventsRead = s.eventsRead := rfl
@[simp] theorem modCtx_logCap (s : State) (c : Nat) (f : Ctx → Ctx) : (s.modCtx c f).logCap = s.logCap := rfl
@[simp] theorem modCtx_flows (s : State) (c : Nat) (f : Ctx → Ctx) : (s.modCtx c f).flows = s.flows := rfl
@[simp] theorem modCtx_rx (s : State) (c : Nat) (f : Ctx → Ctx) : (s.modCtx c f).rx = s.rx := rfl
@[simp] theorem modCtx_failed (s : State) (c : Nat) (f : Ctx → Ctx) : (s.modCtx c f).failed = s.failed := rfl
@[simp] theorem modCtx_merges (s : State) (c : Nat) (f : Ctx → Ctx) : (s.modCtx c f).merges = s.merges := rfl
@[simp] theorem modCtx_down (s : State) (c : Nat) (f : Ctx → Ctx) : (s.modCtx c f).down = s.down := rfl
@[simp] theorem modCtx_unreach (s : State) (c : Nat) (f : Ctx → Ctx) : (s.modCtx c f).unreach = s.unreach := rfl
@[simp] theorem modCtx_reroute (s : State) (c : Nat) (f : Ctx → Ctx) : (s.modCtx c f).reroute = s.reroute := rfl
@[simp] theorem modCtx_replayed (s : State) (c : Nat) (f : Ctx → Ctx) : (s.modCtx c f).replayed = s.replayed := rfl
@[simp] theorem modCtx_fxEn (s : State) (c : Nat) (f : Ctx → Ctx) : (s.modCtx c f).fxEn = s.fxEn := rfl
@[simp] theorem modCtx_fxBase (s : State) (c : Nat) (f : Ctx → Ctx) : (s.modCtx c f).fxBase = s.fxBase := rfl
@[simp] theorem modCtx_gangs (s : State) (c : Nat) (f : Ctx → Ctx) : (s.modCtx c f).gangs = s.gangs := rfl
@[simp] theorem modCtx_members (s : State) (c : Nat) (f : Ctx → Ctx) : (s.modCtx c f).members = s.members := rfl
@[simp] theorem modCtx_preps (s : State) (c : Nat) (f : Ctx → Ctx) : (s.modCtx c f).preps = s.preps := rfl
@[simp] theorem modCtx_colls (s : State) (c : Nat) (f : Ctx → Ctx) : (s.modCtx c f).colls = s.colls := rfl
@[simp] theorem modCtx_collSent (s : State) (c : Nat) (f : Ctx → Ctx) : (s.modCtx c f).collSent = s.collSent := rfl
@[simp] theorem modCtx_crossings (s : State) (c : Nat) (f : Ctx → Ctx) : (s.modCtx c f).crossings = s.crossings := rfl
@[simp] theorem modCtx_outbox (s : State) (c : Nat) (f : Ctx → Ctx) : (s.modCtx c f).outbox = s.outbox := rfl
@[simp] theorem modCtx_winAsks (s : State) (c : Nat) (f : Ctx → Ctx) : (s.modCtx c f).winAsks = s.winAsks := rfl
@[simp] theorem modCtx_locks (s : State) (c : Nat) (f : Ctx → Ctx) : (s.modCtx c f).locks = s.locks := rfl
@[simp] theorem modCtx_owed (s : State) (c : Nat) (f : Ctx → Ctx) : (s.modCtx c f).owed = s.owed := rfl
@[simp] theorem modCtx_err (s : State) (c : Nat) (f : Ctx → Ctx) : (s.modCtx c f).err = s.err := rfl
@[simp] theorem modCtx_host (s : State) (c : Nat) (f : Ctx → Ctx) : (s.modCtx c f).host = s.host := rfl
@[simp] theorem modCtx_test (s : State) (c : Nat) (f : Ctx → Ctx) : (s.modCtx c f).test = s.test := rfl
@[simp] theorem modCtx_marks (s : State) (c : Nat) (f : Ctx → Ctx) : (s.modCtx c f).marks = s.marks := rfl
@[simp] theorem modCtx_agenda (s : State) (c : Nat) (f : Ctx → Ctx) : (s.modCtx c f).agenda = s.agenda := rfl
@[simp] theorem modCtx_free (s : State) (c : Nat) (f : Ctx → Ctx) : (s.modCtx c f).free = s.free := rfl

/-! ### modTask -/

@[simp] theorem modTask_th (s : State) (u : Nat) (f : Task → Task) : (s.modTask u f).th = s.th := rfl
@[simp] theorem modTask_threads (s : State) (u : Nat) (f : Task → Task) : (s.modTask u f).threads = s.threads := rfl
@[simp] theorem modTask_nextUid (s : State) (u : Nat) (f : Task → Task) : (s.modTask u f).nextUid = s.nextUid := rfl
@[simp] theorem modTask_blocks (s : State) (u : Nat) (f : Task → Task) : (s.modTask u f).blocks = s.blocks := rfl
@[simp] theorem modTask_cores (s : State) (u : Nat) (f : Task → Task) : (s.modTask u f).cores = s.cores := rfl
@[simp] theorem modTask_ctxs (s : State) (u : Nat) (f : Task → Task) : (s.modTask u f).ctxs = s.ctxs := rfl
@[simp] theorem modTask_tier (s : State) (u : Nat) (f : Task → Task) : (s.modTask u f).tier = s.tier := rfl
@[simp] theorem modTask_home (s : State) (u : Nat) (f : Task → Task) : (s.modTask u f).home = s.home := rfl
@[simp] theorem modTask_memPoison (s : State) (u : Nat) (f : Task → Task) : (s.modTask u f).memPoison = s.memPoison := rfl
@[simp] theorem modTask_tierPoison (s : State) (u : Nat) (f : Task → Task) : (s.modTask u f).tierPoison = s.tierPoison := rfl
@[simp] theorem modTask_lines (s : State) (u : Nat) (f : Task → Task) : (s.modTask u f).lines = s.lines := rfl
@[simp] theorem modTask_tick (s : State) (u : Nat) (f : Task → Task) : (s.modTask u f).tick = s.tick := rfl
@[simp] theorem modTask_quarantined (s : State) (u : Nat) (f : Task → Task) : (s.modTask u f).quarantined = s.quarantined := rfl
@[simp] theorem modTask_retired (s : State) (u : Nat) (f : Task → Task) : (s.modTask u f).retired = s.retired := rfl
@[simp] theorem modTask_seed (s : State) (u : Nat) (f : Task → Task) : (s.modTask u f).seed = s.seed := rfl
@[simp] theorem modTask_seedPoison (s : State) (u : Nat) (f : Task → Task) : (s.modTask u f).seedPoison = s.seedPoison := rfl
@[simp] theorem modTask_watch (s : State) (u : Nat) (f : Task → Task) : (s.modTask u f).watch = s.watch := rfl
@[simp] theorem modTask_woken (s : State) (u : Nat) (f : Task → Task) : (s.modTask u f).woken = s.woken := rfl
@[simp] theorem modTask_trellis (s : State) (u : Nat) (f : Task → Task) : (s.modTask u f).trellis = s.trellis := rfl
@[simp] theorem modTask_now (s : State) (u : Nat) (f : Task → Task) : (s.modTask u f).now = s.now := rfl
@[simp] theorem modTask_skew (s : State) (u : Nat) (f : Task → Task) : (s.modTask u f).skew = s.skew := rfl
@[simp] theorem modTask_dieTlb (s : State) (u : Nat) (f : Task → Task) : (s.modTask u f).dieTlb = s.dieTlb := rfl
@[simp] theorem modTask_asks (s : State) (u : Nat) (f : Task → Task) : (s.modTask u f).asks = s.asks := rfl
@[simp] theorem modTask_walked (s : State) (u : Nat) (f : Task → Task) : (s.modTask u f).walked = s.walked := rfl
@[simp] theorem modTask_cycles (s : State) (u : Nat) (f : Task → Task) : (s.modTask u f).cycles = s.cycles := rfl
@[simp] theorem modTask_svcCycles (s : State) (u : Nat) (f : Task → Task) : (s.modTask u f).svcCycles = s.svcCycles := rfl
@[simp] theorem modTask_frozen (s : State) (u : Nat) (f : Task → Task) : (s.modTask u f).frozen = s.frozen := rfl
@[simp] theorem modTask_mhz (s : State) (u : Nat) (f : Task → Task) : (s.modTask u f).mhz = s.mhz := rfl
@[simp] theorem modTask_pkg (s : State) (u : Nat) (f : Task → Task) : (s.modTask u f).pkg = s.pkg := rfl
@[simp] theorem modTask_dies (s : State) (u : Nat) (f : Task → Task) : (s.modTask u f).dies = s.dies := rfl
@[simp] theorem modTask_windowAdmitted (s : State) (u : Nat) (f : Task → Task) : (s.modTask u f).windowAdmitted = s.windowAdmitted := rfl
@[simp] theorem modTask_windowNo (s : State) (u : Nat) (f : Task → Task) : (s.modTask u f).windowNo = s.windowNo := rfl
@[simp] theorem modTask_events (s : State) (u : Nat) (f : Task → Task) : (s.modTask u f).events = s.events := rfl
@[simp] theorem modTask_eventsRead (s : State) (u : Nat) (f : Task → Task) : (s.modTask u f).eventsRead = s.eventsRead := rfl
@[simp] theorem modTask_logCap (s : State) (u : Nat) (f : Task → Task) : (s.modTask u f).logCap = s.logCap := rfl
@[simp] theorem modTask_flows (s : State) (u : Nat) (f : Task → Task) : (s.modTask u f).flows = s.flows := rfl
@[simp] theorem modTask_rx (s : State) (u : Nat) (f : Task → Task) : (s.modTask u f).rx = s.rx := rfl
@[simp] theorem modTask_failed (s : State) (u : Nat) (f : Task → Task) : (s.modTask u f).failed = s.failed := rfl
@[simp] theorem modTask_merges (s : State) (u : Nat) (f : Task → Task) : (s.modTask u f).merges = s.merges := rfl
@[simp] theorem modTask_down (s : State) (u : Nat) (f : Task → Task) : (s.modTask u f).down = s.down := rfl
@[simp] theorem modTask_unreach (s : State) (u : Nat) (f : Task → Task) : (s.modTask u f).unreach = s.unreach := rfl
@[simp] theorem modTask_reroute (s : State) (u : Nat) (f : Task → Task) : (s.modTask u f).reroute = s.reroute := rfl
@[simp] theorem modTask_replayed (s : State) (u : Nat) (f : Task → Task) : (s.modTask u f).replayed = s.replayed := rfl
@[simp] theorem modTask_fxEn (s : State) (u : Nat) (f : Task → Task) : (s.modTask u f).fxEn = s.fxEn := rfl
@[simp] theorem modTask_fxBase (s : State) (u : Nat) (f : Task → Task) : (s.modTask u f).fxBase = s.fxBase := rfl
@[simp] theorem modTask_gangs (s : State) (u : Nat) (f : Task → Task) : (s.modTask u f).gangs = s.gangs := rfl
@[simp] theorem modTask_members (s : State) (u : Nat) (f : Task → Task) : (s.modTask u f).members = s.members := rfl
@[simp] theorem modTask_preps (s : State) (u : Nat) (f : Task → Task) : (s.modTask u f).preps = s.preps := rfl
@[simp] theorem modTask_colls (s : State) (u : Nat) (f : Task → Task) : (s.modTask u f).colls = s.colls := rfl
@[simp] theorem modTask_collSent (s : State) (u : Nat) (f : Task → Task) : (s.modTask u f).collSent = s.collSent := rfl
@[simp] theorem modTask_crossings (s : State) (u : Nat) (f : Task → Task) : (s.modTask u f).crossings = s.crossings := rfl
@[simp] theorem modTask_outbox (s : State) (u : Nat) (f : Task → Task) : (s.modTask u f).outbox = s.outbox := rfl
@[simp] theorem modTask_winAsks (s : State) (u : Nat) (f : Task → Task) : (s.modTask u f).winAsks = s.winAsks := rfl
@[simp] theorem modTask_locks (s : State) (u : Nat) (f : Task → Task) : (s.modTask u f).locks = s.locks := rfl
@[simp] theorem modTask_owed (s : State) (u : Nat) (f : Task → Task) : (s.modTask u f).owed = s.owed := rfl
@[simp] theorem modTask_err (s : State) (u : Nat) (f : Task → Task) : (s.modTask u f).err = s.err := rfl
@[simp] theorem modTask_host (s : State) (u : Nat) (f : Task → Task) : (s.modTask u f).host = s.host := rfl
@[simp] theorem modTask_test (s : State) (u : Nat) (f : Task → Task) : (s.modTask u f).test = s.test := rfl
@[simp] theorem modTask_marks (s : State) (u : Nat) (f : Task → Task) : (s.modTask u f).marks = s.marks := rfl
@[simp] theorem modTask_agenda (s : State) (u : Nat) (f : Task → Task) : (s.modTask u f).agenda = s.agenda := rfl
@[simp] theorem modTask_free (s : State) (u : Nat) (f : Task → Task) : (s.modTask u f).free = s.free := rfl

/-! ### adv -/

@[simp] theorem adv_threads (s : State) : (s.adv).threads = s.threads := rfl
@[simp] theorem adv_nextUid (s : State) : (s.adv).nextUid = s.nextUid := rfl
@[simp] theorem adv_blocks (s : State) : (s.adv).blocks = s.blocks := rfl
@[simp] theorem adv_cores (s : State) : (s.adv).cores = s.cores := rfl
@[simp] theorem adv_tasks (s : State) : (s.adv).tasks = s.tasks := rfl
@[simp] theorem adv_ctxs (s : State) : (s.adv).ctxs = s.ctxs := rfl
@[simp] theorem adv_tier (s : State) : (s.adv).tier = s.tier := rfl
@[simp] theorem adv_home (s : State) : (s.adv).home = s.home := rfl
@[simp] theorem adv_memPoison (s : State) : (s.adv).memPoison = s.memPoison := rfl
@[simp] theorem adv_tierPoison (s : State) : (s.adv).tierPoison = s.tierPoison := rfl
@[simp] theorem adv_lines (s : State) : (s.adv).lines = s.lines := rfl
@[simp] theorem adv_tick (s : State) : (s.adv).tick = s.tick := rfl
@[simp] theorem adv_quarantined (s : State) : (s.adv).quarantined = s.quarantined := rfl
@[simp] theorem adv_retired (s : State) : (s.adv).retired = s.retired := rfl
@[simp] theorem adv_seed (s : State) : (s.adv).seed = s.seed := rfl
@[simp] theorem adv_seedPoison (s : State) : (s.adv).seedPoison = s.seedPoison := rfl
@[simp] theorem adv_watch (s : State) : (s.adv).watch = s.watch := rfl
@[simp] theorem adv_woken (s : State) : (s.adv).woken = s.woken := rfl
@[simp] theorem adv_trellis (s : State) : (s.adv).trellis = s.trellis := rfl
@[simp] theorem adv_now (s : State) : (s.adv).now = s.now := rfl
@[simp] theorem adv_skew (s : State) : (s.adv).skew = s.skew := rfl
@[simp] theorem adv_dieTlb (s : State) : (s.adv).dieTlb = s.dieTlb := rfl
@[simp] theorem adv_asks (s : State) : (s.adv).asks = s.asks := rfl
@[simp] theorem adv_walked (s : State) : (s.adv).walked = s.walked := rfl
@[simp] theorem adv_cycles (s : State) : (s.adv).cycles = s.cycles := rfl
@[simp] theorem adv_svcCycles (s : State) : (s.adv).svcCycles = s.svcCycles := rfl
@[simp] theorem adv_frozen (s : State) : (s.adv).frozen = s.frozen := rfl
@[simp] theorem adv_mhz (s : State) : (s.adv).mhz = s.mhz := rfl
@[simp] theorem adv_pkg (s : State) : (s.adv).pkg = s.pkg := rfl
@[simp] theorem adv_dies (s : State) : (s.adv).dies = s.dies := rfl
@[simp] theorem adv_windowAdmitted (s : State) : (s.adv).windowAdmitted = s.windowAdmitted := rfl
@[simp] theorem adv_windowNo (s : State) : (s.adv).windowNo = s.windowNo := rfl
@[simp] theorem adv_events (s : State) : (s.adv).events = s.events := rfl
@[simp] theorem adv_eventsRead (s : State) : (s.adv).eventsRead = s.eventsRead := rfl
@[simp] theorem adv_logCap (s : State) : (s.adv).logCap = s.logCap := rfl
@[simp] theorem adv_flows (s : State) : (s.adv).flows = s.flows := rfl
@[simp] theorem adv_rx (s : State) : (s.adv).rx = s.rx := rfl
@[simp] theorem adv_failed (s : State) : (s.adv).failed = s.failed := rfl
@[simp] theorem adv_merges (s : State) : (s.adv).merges = s.merges := rfl
@[simp] theorem adv_down (s : State) : (s.adv).down = s.down := rfl
@[simp] theorem adv_unreach (s : State) : (s.adv).unreach = s.unreach := rfl
@[simp] theorem adv_reroute (s : State) : (s.adv).reroute = s.reroute := rfl
@[simp] theorem adv_replayed (s : State) : (s.adv).replayed = s.replayed := rfl
@[simp] theorem adv_fxEn (s : State) : (s.adv).fxEn = s.fxEn := rfl
@[simp] theorem adv_fxBase (s : State) : (s.adv).fxBase = s.fxBase := rfl
@[simp] theorem adv_gangs (s : State) : (s.adv).gangs = s.gangs := rfl
@[simp] theorem adv_members (s : State) : (s.adv).members = s.members := rfl
@[simp] theorem adv_preps (s : State) : (s.adv).preps = s.preps := rfl
@[simp] theorem adv_colls (s : State) : (s.adv).colls = s.colls := rfl
@[simp] theorem adv_collSent (s : State) : (s.adv).collSent = s.collSent := rfl
@[simp] theorem adv_crossings (s : State) : (s.adv).crossings = s.crossings := rfl
@[simp] theorem adv_outbox (s : State) : (s.adv).outbox = s.outbox := rfl
@[simp] theorem adv_winAsks (s : State) : (s.adv).winAsks = s.winAsks := rfl
@[simp] theorem adv_locks (s : State) : (s.adv).locks = s.locks := rfl
@[simp] theorem adv_owed (s : State) : (s.adv).owed = s.owed := rfl
@[simp] theorem adv_err (s : State) : (s.adv).err = s.err := rfl
@[simp] theorem adv_host (s : State) : (s.adv).host = s.host := rfl
@[simp] theorem adv_test (s : State) : (s.adv).test = s.test := rfl
@[simp] theorem adv_marks (s : State) : (s.adv).marks = s.marks := rfl
@[simp] theorem adv_agenda (s : State) : (s.adv).agenda = s.agenda := rfl
@[simp] theorem adv_free (s : State) : (s.adv).free = s.free := rfl

/-! ### goto -/

@[simp] theorem goto_threads (s : State) (t : Word) : (s.goto t).threads = s.threads := rfl
@[simp] theorem goto_nextUid (s : State) (t : Word) : (s.goto t).nextUid = s.nextUid := rfl
@[simp] theorem goto_blocks (s : State) (t : Word) : (s.goto t).blocks = s.blocks := rfl
@[simp] theorem goto_cores (s : State) (t : Word) : (s.goto t).cores = s.cores := rfl
@[simp] theorem goto_tasks (s : State) (t : Word) : (s.goto t).tasks = s.tasks := rfl
@[simp] theorem goto_ctxs (s : State) (t : Word) : (s.goto t).ctxs = s.ctxs := rfl
@[simp] theorem goto_tier (s : State) (t : Word) : (s.goto t).tier = s.tier := rfl
@[simp] theorem goto_home (s : State) (t : Word) : (s.goto t).home = s.home := rfl
@[simp] theorem goto_memPoison (s : State) (t : Word) : (s.goto t).memPoison = s.memPoison := rfl
@[simp] theorem goto_tierPoison (s : State) (t : Word) : (s.goto t).tierPoison = s.tierPoison := rfl
@[simp] theorem goto_lines (s : State) (t : Word) : (s.goto t).lines = s.lines := rfl
@[simp] theorem goto_tick (s : State) (t : Word) : (s.goto t).tick = s.tick := rfl
@[simp] theorem goto_quarantined (s : State) (t : Word) : (s.goto t).quarantined = s.quarantined := rfl
@[simp] theorem goto_retired (s : State) (t : Word) : (s.goto t).retired = s.retired := rfl
@[simp] theorem goto_seed (s : State) (t : Word) : (s.goto t).seed = s.seed := rfl
@[simp] theorem goto_seedPoison (s : State) (t : Word) : (s.goto t).seedPoison = s.seedPoison := rfl
@[simp] theorem goto_watch (s : State) (t : Word) : (s.goto t).watch = s.watch := rfl
@[simp] theorem goto_woken (s : State) (t : Word) : (s.goto t).woken = s.woken := rfl
@[simp] theorem goto_trellis (s : State) (t : Word) : (s.goto t).trellis = s.trellis := rfl
@[simp] theorem goto_now (s : State) (t : Word) : (s.goto t).now = s.now := rfl
@[simp] theorem goto_skew (s : State) (t : Word) : (s.goto t).skew = s.skew := rfl
@[simp] theorem goto_dieTlb (s : State) (t : Word) : (s.goto t).dieTlb = s.dieTlb := rfl
@[simp] theorem goto_asks (s : State) (t : Word) : (s.goto t).asks = s.asks := rfl
@[simp] theorem goto_walked (s : State) (t : Word) : (s.goto t).walked = s.walked := rfl
@[simp] theorem goto_cycles (s : State) (t : Word) : (s.goto t).cycles = s.cycles := rfl
@[simp] theorem goto_svcCycles (s : State) (t : Word) : (s.goto t).svcCycles = s.svcCycles := rfl
@[simp] theorem goto_frozen (s : State) (t : Word) : (s.goto t).frozen = s.frozen := rfl
@[simp] theorem goto_mhz (s : State) (t : Word) : (s.goto t).mhz = s.mhz := rfl
@[simp] theorem goto_pkg (s : State) (t : Word) : (s.goto t).pkg = s.pkg := rfl
@[simp] theorem goto_dies (s : State) (t : Word) : (s.goto t).dies = s.dies := rfl
@[simp] theorem goto_windowAdmitted (s : State) (t : Word) : (s.goto t).windowAdmitted = s.windowAdmitted := rfl
@[simp] theorem goto_windowNo (s : State) (t : Word) : (s.goto t).windowNo = s.windowNo := rfl
@[simp] theorem goto_events (s : State) (t : Word) : (s.goto t).events = s.events := rfl
@[simp] theorem goto_eventsRead (s : State) (t : Word) : (s.goto t).eventsRead = s.eventsRead := rfl
@[simp] theorem goto_logCap (s : State) (t : Word) : (s.goto t).logCap = s.logCap := rfl
@[simp] theorem goto_flows (s : State) (t : Word) : (s.goto t).flows = s.flows := rfl
@[simp] theorem goto_rx (s : State) (t : Word) : (s.goto t).rx = s.rx := rfl
@[simp] theorem goto_failed (s : State) (t : Word) : (s.goto t).failed = s.failed := rfl
@[simp] theorem goto_merges (s : State) (t : Word) : (s.goto t).merges = s.merges := rfl
@[simp] theorem goto_down (s : State) (t : Word) : (s.goto t).down = s.down := rfl
@[simp] theorem goto_unreach (s : State) (t : Word) : (s.goto t).unreach = s.unreach := rfl
@[simp] theorem goto_reroute (s : State) (t : Word) : (s.goto t).reroute = s.reroute := rfl
@[simp] theorem goto_replayed (s : State) (t : Word) : (s.goto t).replayed = s.replayed := rfl
@[simp] theorem goto_fxEn (s : State) (t : Word) : (s.goto t).fxEn = s.fxEn := rfl
@[simp] theorem goto_fxBase (s : State) (t : Word) : (s.goto t).fxBase = s.fxBase := rfl
@[simp] theorem goto_gangs (s : State) (t : Word) : (s.goto t).gangs = s.gangs := rfl
@[simp] theorem goto_members (s : State) (t : Word) : (s.goto t).members = s.members := rfl
@[simp] theorem goto_preps (s : State) (t : Word) : (s.goto t).preps = s.preps := rfl
@[simp] theorem goto_colls (s : State) (t : Word) : (s.goto t).colls = s.colls := rfl
@[simp] theorem goto_collSent (s : State) (t : Word) : (s.goto t).collSent = s.collSent := rfl
@[simp] theorem goto_crossings (s : State) (t : Word) : (s.goto t).crossings = s.crossings := rfl
@[simp] theorem goto_outbox (s : State) (t : Word) : (s.goto t).outbox = s.outbox := rfl
@[simp] theorem goto_winAsks (s : State) (t : Word) : (s.goto t).winAsks = s.winAsks := rfl
@[simp] theorem goto_locks (s : State) (t : Word) : (s.goto t).locks = s.locks := rfl
@[simp] theorem goto_owed (s : State) (t : Word) : (s.goto t).owed = s.owed := rfl
@[simp] theorem goto_err (s : State) (t : Word) : (s.goto t).err = s.err := rfl
@[simp] theorem goto_host (s : State) (t : Word) : (s.goto t).host = s.host := rfl
@[simp] theorem goto_test (s : State) (t : Word) : (s.goto t).test = s.test := rfl
@[simp] theorem goto_marks (s : State) (t : Word) : (s.goto t).marks = s.marks := rfl
@[simp] theorem goto_agenda (s : State) (t : Word) : (s.goto t).agenda = s.agenda := rfl
@[simp] theorem goto_free (s : State) (t : Word) : (s.goto t).free = s.free := rfl

/-! ### vset -/

@[simp] theorem vset_threads (s : State) (v : Reg) (f : Nat → W32) : (s.vset v f).threads = s.threads := by rw [vset_eq]
@[simp] theorem vset_nextUid (s : State) (v : Reg) (f : Nat → W32) : (s.vset v f).nextUid = s.nextUid := by rw [vset_eq]
@[simp] theorem vset_blocks (s : State) (v : Reg) (f : Nat → W32) : (s.vset v f).blocks = s.blocks := by rw [vset_eq]
@[simp] theorem vset_cores (s : State) (v : Reg) (f : Nat → W32) : (s.vset v f).cores = s.cores := by rw [vset_eq]
@[simp] theorem vset_tasks (s : State) (v : Reg) (f : Nat → W32) : (s.vset v f).tasks = s.tasks := by rw [vset_eq]
@[simp] theorem vset_ctxs (s : State) (v : Reg) (f : Nat → W32) : (s.vset v f).ctxs = s.ctxs := by rw [vset_eq]
@[simp] theorem vset_tier (s : State) (v : Reg) (f : Nat → W32) : (s.vset v f).tier = s.tier := by rw [vset_eq]
@[simp] theorem vset_home (s : State) (v : Reg) (f : Nat → W32) : (s.vset v f).home = s.home := by rw [vset_eq]
@[simp] theorem vset_memPoison (s : State) (v : Reg) (f : Nat → W32) : (s.vset v f).memPoison = s.memPoison := by rw [vset_eq]
@[simp] theorem vset_tierPoison (s : State) (v : Reg) (f : Nat → W32) : (s.vset v f).tierPoison = s.tierPoison := by rw [vset_eq]
@[simp] theorem vset_lines (s : State) (v : Reg) (f : Nat → W32) : (s.vset v f).lines = s.lines := by rw [vset_eq]
@[simp] theorem vset_tick (s : State) (v : Reg) (f : Nat → W32) : (s.vset v f).tick = s.tick := by rw [vset_eq]
@[simp] theorem vset_quarantined (s : State) (v : Reg) (f : Nat → W32) : (s.vset v f).quarantined = s.quarantined := by rw [vset_eq]
@[simp] theorem vset_retired (s : State) (v : Reg) (f : Nat → W32) : (s.vset v f).retired = s.retired := by rw [vset_eq]
@[simp] theorem vset_seed (s : State) (v : Reg) (f : Nat → W32) : (s.vset v f).seed = s.seed := by rw [vset_eq]
@[simp] theorem vset_seedPoison (s : State) (v : Reg) (f : Nat → W32) : (s.vset v f).seedPoison = s.seedPoison := by rw [vset_eq]
@[simp] theorem vset_watch (s : State) (v : Reg) (f : Nat → W32) : (s.vset v f).watch = s.watch := by rw [vset_eq]
@[simp] theorem vset_woken (s : State) (v : Reg) (f : Nat → W32) : (s.vset v f).woken = s.woken := by rw [vset_eq]
@[simp] theorem vset_trellis (s : State) (v : Reg) (f : Nat → W32) : (s.vset v f).trellis = s.trellis := by rw [vset_eq]
@[simp] theorem vset_now (s : State) (v : Reg) (f : Nat → W32) : (s.vset v f).now = s.now := by rw [vset_eq]
@[simp] theorem vset_skew (s : State) (v : Reg) (f : Nat → W32) : (s.vset v f).skew = s.skew := by rw [vset_eq]
@[simp] theorem vset_dieTlb (s : State) (v : Reg) (f : Nat → W32) : (s.vset v f).dieTlb = s.dieTlb := by rw [vset_eq]
@[simp] theorem vset_asks (s : State) (v : Reg) (f : Nat → W32) : (s.vset v f).asks = s.asks := by rw [vset_eq]
@[simp] theorem vset_walked (s : State) (v : Reg) (f : Nat → W32) : (s.vset v f).walked = s.walked := by rw [vset_eq]
@[simp] theorem vset_cycles (s : State) (v : Reg) (f : Nat → W32) : (s.vset v f).cycles = s.cycles := by rw [vset_eq]
@[simp] theorem vset_svcCycles (s : State) (v : Reg) (f : Nat → W32) : (s.vset v f).svcCycles = s.svcCycles := by rw [vset_eq]
@[simp] theorem vset_frozen (s : State) (v : Reg) (f : Nat → W32) : (s.vset v f).frozen = s.frozen := by rw [vset_eq]
@[simp] theorem vset_mhz (s : State) (v : Reg) (f : Nat → W32) : (s.vset v f).mhz = s.mhz := by rw [vset_eq]
@[simp] theorem vset_pkg (s : State) (v : Reg) (f : Nat → W32) : (s.vset v f).pkg = s.pkg := by rw [vset_eq]
@[simp] theorem vset_dies (s : State) (v : Reg) (f : Nat → W32) : (s.vset v f).dies = s.dies := by rw [vset_eq]
@[simp] theorem vset_windowAdmitted (s : State) (v : Reg) (f : Nat → W32) : (s.vset v f).windowAdmitted = s.windowAdmitted := by rw [vset_eq]
@[simp] theorem vset_windowNo (s : State) (v : Reg) (f : Nat → W32) : (s.vset v f).windowNo = s.windowNo := by rw [vset_eq]
@[simp] theorem vset_events (s : State) (v : Reg) (f : Nat → W32) : (s.vset v f).events = s.events := by rw [vset_eq]
@[simp] theorem vset_eventsRead (s : State) (v : Reg) (f : Nat → W32) : (s.vset v f).eventsRead = s.eventsRead := by rw [vset_eq]
@[simp] theorem vset_logCap (s : State) (v : Reg) (f : Nat → W32) : (s.vset v f).logCap = s.logCap := by rw [vset_eq]
@[simp] theorem vset_flows (s : State) (v : Reg) (f : Nat → W32) : (s.vset v f).flows = s.flows := by rw [vset_eq]
@[simp] theorem vset_rx (s : State) (v : Reg) (f : Nat → W32) : (s.vset v f).rx = s.rx := by rw [vset_eq]
@[simp] theorem vset_failed (s : State) (v : Reg) (f : Nat → W32) : (s.vset v f).failed = s.failed := by rw [vset_eq]
@[simp] theorem vset_merges (s : State) (v : Reg) (f : Nat → W32) : (s.vset v f).merges = s.merges := by rw [vset_eq]
@[simp] theorem vset_down (s : State) (v : Reg) (f : Nat → W32) : (s.vset v f).down = s.down := by rw [vset_eq]
@[simp] theorem vset_unreach (s : State) (v : Reg) (f : Nat → W32) : (s.vset v f).unreach = s.unreach := by rw [vset_eq]
@[simp] theorem vset_reroute (s : State) (v : Reg) (f : Nat → W32) : (s.vset v f).reroute = s.reroute := by rw [vset_eq]
@[simp] theorem vset_replayed (s : State) (v : Reg) (f : Nat → W32) : (s.vset v f).replayed = s.replayed := by rw [vset_eq]
@[simp] theorem vset_fxEn (s : State) (v : Reg) (f : Nat → W32) : (s.vset v f).fxEn = s.fxEn := by rw [vset_eq]
@[simp] theorem vset_fxBase (s : State) (v : Reg) (f : Nat → W32) : (s.vset v f).fxBase = s.fxBase := by rw [vset_eq]
@[simp] theorem vset_gangs (s : State) (v : Reg) (f : Nat → W32) : (s.vset v f).gangs = s.gangs := by rw [vset_eq]
@[simp] theorem vset_members (s : State) (v : Reg) (f : Nat → W32) : (s.vset v f).members = s.members := by rw [vset_eq]
@[simp] theorem vset_preps (s : State) (v : Reg) (f : Nat → W32) : (s.vset v f).preps = s.preps := by rw [vset_eq]
@[simp] theorem vset_colls (s : State) (v : Reg) (f : Nat → W32) : (s.vset v f).colls = s.colls := by rw [vset_eq]
@[simp] theorem vset_collSent (s : State) (v : Reg) (f : Nat → W32) : (s.vset v f).collSent = s.collSent := by rw [vset_eq]
@[simp] theorem vset_crossings (s : State) (v : Reg) (f : Nat → W32) : (s.vset v f).crossings = s.crossings := by rw [vset_eq]
@[simp] theorem vset_outbox (s : State) (v : Reg) (f : Nat → W32) : (s.vset v f).outbox = s.outbox := by rw [vset_eq]
@[simp] theorem vset_winAsks (s : State) (v : Reg) (f : Nat → W32) : (s.vset v f).winAsks = s.winAsks := by rw [vset_eq]
@[simp] theorem vset_locks (s : State) (v : Reg) (f : Nat → W32) : (s.vset v f).locks = s.locks := by rw [vset_eq]
@[simp] theorem vset_owed (s : State) (v : Reg) (f : Nat → W32) : (s.vset v f).owed = s.owed := by rw [vset_eq]
@[simp] theorem vset_err (s : State) (v : Reg) (f : Nat → W32) : (s.vset v f).err = s.err := by rw [vset_eq]
@[simp] theorem vset_host (s : State) (v : Reg) (f : Nat → W32) : (s.vset v f).host = s.host := by rw [vset_eq]
@[simp] theorem vset_test (s : State) (v : Reg) (f : Nat → W32) : (s.vset v f).test = s.test := by rw [vset_eq]
@[simp] theorem vset_marks (s : State) (v : Reg) (f : Nat → W32) : (s.vset v f).marks = s.marks := by rw [vset_eq]
@[simp] theorem vset_agenda (s : State) (v : Reg) (f : Nat → W32) : (s.vset v f).agenda = s.agenda := by rw [vset_eq]
@[simp] theorem vset_free (s : State) (v : Reg) (f : Nat → W32) : (s.vset v f).free = s.free := by rw [vset_eq]

/-! ### sset -/

@[simp] theorem sset_threads (s : State) (r : Reg) (v : Word) : (s.sset r v).threads = s.threads := by rw [sset_eq]
@[simp] theorem sset_nextUid (s : State) (r : Reg) (v : Word) : (s.sset r v).nextUid = s.nextUid := by rw [sset_eq]
@[simp] theorem sset_blocks (s : State) (r : Reg) (v : Word) : (s.sset r v).blocks = s.blocks := by rw [sset_eq]
@[simp] theorem sset_cores (s : State) (r : Reg) (v : Word) : (s.sset r v).cores = s.cores := by rw [sset_eq]
@[simp] theorem sset_tasks (s : State) (r : Reg) (v : Word) : (s.sset r v).tasks = s.tasks := by rw [sset_eq]
@[simp] theorem sset_ctxs (s : State) (r : Reg) (v : Word) : (s.sset r v).ctxs = s.ctxs := by rw [sset_eq]
@[simp] theorem sset_tier (s : State) (r : Reg) (v : Word) : (s.sset r v).tier = s.tier := by rw [sset_eq]
@[simp] theorem sset_home (s : State) (r : Reg) (v : Word) : (s.sset r v).home = s.home := by rw [sset_eq]
@[simp] theorem sset_memPoison (s : State) (r : Reg) (v : Word) : (s.sset r v).memPoison = s.memPoison := by rw [sset_eq]
@[simp] theorem sset_tierPoison (s : State) (r : Reg) (v : Word) : (s.sset r v).tierPoison = s.tierPoison := by rw [sset_eq]
@[simp] theorem sset_lines (s : State) (r : Reg) (v : Word) : (s.sset r v).lines = s.lines := by rw [sset_eq]
@[simp] theorem sset_tick (s : State) (r : Reg) (v : Word) : (s.sset r v).tick = s.tick := by rw [sset_eq]
@[simp] theorem sset_quarantined (s : State) (r : Reg) (v : Word) : (s.sset r v).quarantined = s.quarantined := by rw [sset_eq]
@[simp] theorem sset_retired (s : State) (r : Reg) (v : Word) : (s.sset r v).retired = s.retired := by rw [sset_eq]
@[simp] theorem sset_seed (s : State) (r : Reg) (v : Word) : (s.sset r v).seed = s.seed := by rw [sset_eq]
@[simp] theorem sset_seedPoison (s : State) (r : Reg) (v : Word) : (s.sset r v).seedPoison = s.seedPoison := by rw [sset_eq]
@[simp] theorem sset_watch (s : State) (r : Reg) (v : Word) : (s.sset r v).watch = s.watch := by rw [sset_eq]
@[simp] theorem sset_woken (s : State) (r : Reg) (v : Word) : (s.sset r v).woken = s.woken := by rw [sset_eq]
@[simp] theorem sset_trellis (s : State) (r : Reg) (v : Word) : (s.sset r v).trellis = s.trellis := by rw [sset_eq]
@[simp] theorem sset_now (s : State) (r : Reg) (v : Word) : (s.sset r v).now = s.now := by rw [sset_eq]
@[simp] theorem sset_skew (s : State) (r : Reg) (v : Word) : (s.sset r v).skew = s.skew := by rw [sset_eq]
@[simp] theorem sset_dieTlb (s : State) (r : Reg) (v : Word) : (s.sset r v).dieTlb = s.dieTlb := by rw [sset_eq]
@[simp] theorem sset_asks (s : State) (r : Reg) (v : Word) : (s.sset r v).asks = s.asks := by rw [sset_eq]
@[simp] theorem sset_walked (s : State) (r : Reg) (v : Word) : (s.sset r v).walked = s.walked := by rw [sset_eq]
@[simp] theorem sset_cycles (s : State) (r : Reg) (v : Word) : (s.sset r v).cycles = s.cycles := by rw [sset_eq]
@[simp] theorem sset_svcCycles (s : State) (r : Reg) (v : Word) : (s.sset r v).svcCycles = s.svcCycles := by rw [sset_eq]
@[simp] theorem sset_frozen (s : State) (r : Reg) (v : Word) : (s.sset r v).frozen = s.frozen := by rw [sset_eq]
@[simp] theorem sset_mhz (s : State) (r : Reg) (v : Word) : (s.sset r v).mhz = s.mhz := by rw [sset_eq]
@[simp] theorem sset_pkg (s : State) (r : Reg) (v : Word) : (s.sset r v).pkg = s.pkg := by rw [sset_eq]
@[simp] theorem sset_dies (s : State) (r : Reg) (v : Word) : (s.sset r v).dies = s.dies := by rw [sset_eq]
@[simp] theorem sset_windowAdmitted (s : State) (r : Reg) (v : Word) : (s.sset r v).windowAdmitted = s.windowAdmitted := by rw [sset_eq]
@[simp] theorem sset_windowNo (s : State) (r : Reg) (v : Word) : (s.sset r v).windowNo = s.windowNo := by rw [sset_eq]
@[simp] theorem sset_events (s : State) (r : Reg) (v : Word) : (s.sset r v).events = s.events := by rw [sset_eq]
@[simp] theorem sset_eventsRead (s : State) (r : Reg) (v : Word) : (s.sset r v).eventsRead = s.eventsRead := by rw [sset_eq]
@[simp] theorem sset_logCap (s : State) (r : Reg) (v : Word) : (s.sset r v).logCap = s.logCap := by rw [sset_eq]
@[simp] theorem sset_flows (s : State) (r : Reg) (v : Word) : (s.sset r v).flows = s.flows := by rw [sset_eq]
@[simp] theorem sset_rx (s : State) (r : Reg) (v : Word) : (s.sset r v).rx = s.rx := by rw [sset_eq]
@[simp] theorem sset_failed (s : State) (r : Reg) (v : Word) : (s.sset r v).failed = s.failed := by rw [sset_eq]
@[simp] theorem sset_merges (s : State) (r : Reg) (v : Word) : (s.sset r v).merges = s.merges := by rw [sset_eq]
@[simp] theorem sset_down (s : State) (r : Reg) (v : Word) : (s.sset r v).down = s.down := by rw [sset_eq]
@[simp] theorem sset_unreach (s : State) (r : Reg) (v : Word) : (s.sset r v).unreach = s.unreach := by rw [sset_eq]
@[simp] theorem sset_reroute (s : State) (r : Reg) (v : Word) : (s.sset r v).reroute = s.reroute := by rw [sset_eq]
@[simp] theorem sset_replayed (s : State) (r : Reg) (v : Word) : (s.sset r v).replayed = s.replayed := by rw [sset_eq]
@[simp] theorem sset_fxEn (s : State) (r : Reg) (v : Word) : (s.sset r v).fxEn = s.fxEn := by rw [sset_eq]
@[simp] theorem sset_fxBase (s : State) (r : Reg) (v : Word) : (s.sset r v).fxBase = s.fxBase := by rw [sset_eq]
@[simp] theorem sset_gangs (s : State) (r : Reg) (v : Word) : (s.sset r v).gangs = s.gangs := by rw [sset_eq]
@[simp] theorem sset_members (s : State) (r : Reg) (v : Word) : (s.sset r v).members = s.members := by rw [sset_eq]
@[simp] theorem sset_preps (s : State) (r : Reg) (v : Word) : (s.sset r v).preps = s.preps := by rw [sset_eq]
@[simp] theorem sset_colls (s : State) (r : Reg) (v : Word) : (s.sset r v).colls = s.colls := by rw [sset_eq]
@[simp] theorem sset_collSent (s : State) (r : Reg) (v : Word) : (s.sset r v).collSent = s.collSent := by rw [sset_eq]
@[simp] theorem sset_crossings (s : State) (r : Reg) (v : Word) : (s.sset r v).crossings = s.crossings := by rw [sset_eq]
@[simp] theorem sset_outbox (s : State) (r : Reg) (v : Word) : (s.sset r v).outbox = s.outbox := by rw [sset_eq]
@[simp] theorem sset_winAsks (s : State) (r : Reg) (v : Word) : (s.sset r v).winAsks = s.winAsks := by rw [sset_eq]
@[simp] theorem sset_locks (s : State) (r : Reg) (v : Word) : (s.sset r v).locks = s.locks := by rw [sset_eq]
@[simp] theorem sset_owed (s : State) (r : Reg) (v : Word) : (s.sset r v).owed = s.owed := by rw [sset_eq]
@[simp] theorem sset_err (s : State) (r : Reg) (v : Word) : (s.sset r v).err = s.err := by rw [sset_eq]
@[simp] theorem sset_host (s : State) (r : Reg) (v : Word) : (s.sset r v).host = s.host := by rw [sset_eq]
@[simp] theorem sset_test (s : State) (r : Reg) (v : Word) : (s.sset r v).test = s.test := by rw [sset_eq]
@[simp] theorem sset_marks (s : State) (r : Reg) (v : Word) : (s.sset r v).marks = s.marks := by rw [sset_eq]
@[simp] theorem sset_agenda (s : State) (r : Reg) (v : Word) : (s.sset r v).agenda = s.agenda := by rw [sset_eq]
@[simp] theorem sset_free (s : State) (r : Reg) (v : Word) : (s.sset r v).free = s.free := by rw [sset_eq]

/-! ### tset -/

@[simp] theorem tset_threads (s : State) (r : Reg) (f : Nat → Bool) : (s.tset r f).threads = s.threads := by rw [tset_eq]
@[simp] theorem tset_nextUid (s : State) (r : Reg) (f : Nat → Bool) : (s.tset r f).nextUid = s.nextUid := by rw [tset_eq]
@[simp] theorem tset_blocks (s : State) (r : Reg) (f : Nat → Bool) : (s.tset r f).blocks = s.blocks := by rw [tset_eq]
@[simp] theorem tset_cores (s : State) (r : Reg) (f : Nat → Bool) : (s.tset r f).cores = s.cores := by rw [tset_eq]
@[simp] theorem tset_tasks (s : State) (r : Reg) (f : Nat → Bool) : (s.tset r f).tasks = s.tasks := by rw [tset_eq]
@[simp] theorem tset_ctxs (s : State) (r : Reg) (f : Nat → Bool) : (s.tset r f).ctxs = s.ctxs := by rw [tset_eq]
@[simp] theorem tset_tier (s : State) (r : Reg) (f : Nat → Bool) : (s.tset r f).tier = s.tier := by rw [tset_eq]
@[simp] theorem tset_home (s : State) (r : Reg) (f : Nat → Bool) : (s.tset r f).home = s.home := by rw [tset_eq]
@[simp] theorem tset_memPoison (s : State) (r : Reg) (f : Nat → Bool) : (s.tset r f).memPoison = s.memPoison := by rw [tset_eq]
@[simp] theorem tset_tierPoison (s : State) (r : Reg) (f : Nat → Bool) : (s.tset r f).tierPoison = s.tierPoison := by rw [tset_eq]
@[simp] theorem tset_lines (s : State) (r : Reg) (f : Nat → Bool) : (s.tset r f).lines = s.lines := by rw [tset_eq]
@[simp] theorem tset_tick (s : State) (r : Reg) (f : Nat → Bool) : (s.tset r f).tick = s.tick := by rw [tset_eq]
@[simp] theorem tset_quarantined (s : State) (r : Reg) (f : Nat → Bool) : (s.tset r f).quarantined = s.quarantined := by rw [tset_eq]
@[simp] theorem tset_retired (s : State) (r : Reg) (f : Nat → Bool) : (s.tset r f).retired = s.retired := by rw [tset_eq]
@[simp] theorem tset_seed (s : State) (r : Reg) (f : Nat → Bool) : (s.tset r f).seed = s.seed := by rw [tset_eq]
@[simp] theorem tset_seedPoison (s : State) (r : Reg) (f : Nat → Bool) : (s.tset r f).seedPoison = s.seedPoison := by rw [tset_eq]
@[simp] theorem tset_watch (s : State) (r : Reg) (f : Nat → Bool) : (s.tset r f).watch = s.watch := by rw [tset_eq]
@[simp] theorem tset_woken (s : State) (r : Reg) (f : Nat → Bool) : (s.tset r f).woken = s.woken := by rw [tset_eq]
@[simp] theorem tset_trellis (s : State) (r : Reg) (f : Nat → Bool) : (s.tset r f).trellis = s.trellis := by rw [tset_eq]
@[simp] theorem tset_now (s : State) (r : Reg) (f : Nat → Bool) : (s.tset r f).now = s.now := by rw [tset_eq]
@[simp] theorem tset_skew (s : State) (r : Reg) (f : Nat → Bool) : (s.tset r f).skew = s.skew := by rw [tset_eq]
@[simp] theorem tset_dieTlb (s : State) (r : Reg) (f : Nat → Bool) : (s.tset r f).dieTlb = s.dieTlb := by rw [tset_eq]
@[simp] theorem tset_asks (s : State) (r : Reg) (f : Nat → Bool) : (s.tset r f).asks = s.asks := by rw [tset_eq]
@[simp] theorem tset_walked (s : State) (r : Reg) (f : Nat → Bool) : (s.tset r f).walked = s.walked := by rw [tset_eq]
@[simp] theorem tset_cycles (s : State) (r : Reg) (f : Nat → Bool) : (s.tset r f).cycles = s.cycles := by rw [tset_eq]
@[simp] theorem tset_svcCycles (s : State) (r : Reg) (f : Nat → Bool) : (s.tset r f).svcCycles = s.svcCycles := by rw [tset_eq]
@[simp] theorem tset_frozen (s : State) (r : Reg) (f : Nat → Bool) : (s.tset r f).frozen = s.frozen := by rw [tset_eq]
@[simp] theorem tset_mhz (s : State) (r : Reg) (f : Nat → Bool) : (s.tset r f).mhz = s.mhz := by rw [tset_eq]
@[simp] theorem tset_pkg (s : State) (r : Reg) (f : Nat → Bool) : (s.tset r f).pkg = s.pkg := by rw [tset_eq]
@[simp] theorem tset_dies (s : State) (r : Reg) (f : Nat → Bool) : (s.tset r f).dies = s.dies := by rw [tset_eq]
@[simp] theorem tset_windowAdmitted (s : State) (r : Reg) (f : Nat → Bool) : (s.tset r f).windowAdmitted = s.windowAdmitted := by rw [tset_eq]
@[simp] theorem tset_windowNo (s : State) (r : Reg) (f : Nat → Bool) : (s.tset r f).windowNo = s.windowNo := by rw [tset_eq]
@[simp] theorem tset_events (s : State) (r : Reg) (f : Nat → Bool) : (s.tset r f).events = s.events := by rw [tset_eq]
@[simp] theorem tset_eventsRead (s : State) (r : Reg) (f : Nat → Bool) : (s.tset r f).eventsRead = s.eventsRead := by rw [tset_eq]
@[simp] theorem tset_logCap (s : State) (r : Reg) (f : Nat → Bool) : (s.tset r f).logCap = s.logCap := by rw [tset_eq]
@[simp] theorem tset_flows (s : State) (r : Reg) (f : Nat → Bool) : (s.tset r f).flows = s.flows := by rw [tset_eq]
@[simp] theorem tset_rx (s : State) (r : Reg) (f : Nat → Bool) : (s.tset r f).rx = s.rx := by rw [tset_eq]
@[simp] theorem tset_failed (s : State) (r : Reg) (f : Nat → Bool) : (s.tset r f).failed = s.failed := by rw [tset_eq]
@[simp] theorem tset_merges (s : State) (r : Reg) (f : Nat → Bool) : (s.tset r f).merges = s.merges := by rw [tset_eq]
@[simp] theorem tset_down (s : State) (r : Reg) (f : Nat → Bool) : (s.tset r f).down = s.down := by rw [tset_eq]
@[simp] theorem tset_unreach (s : State) (r : Reg) (f : Nat → Bool) : (s.tset r f).unreach = s.unreach := by rw [tset_eq]
@[simp] theorem tset_reroute (s : State) (r : Reg) (f : Nat → Bool) : (s.tset r f).reroute = s.reroute := by rw [tset_eq]
@[simp] theorem tset_replayed (s : State) (r : Reg) (f : Nat → Bool) : (s.tset r f).replayed = s.replayed := by rw [tset_eq]
@[simp] theorem tset_fxEn (s : State) (r : Reg) (f : Nat → Bool) : (s.tset r f).fxEn = s.fxEn := by rw [tset_eq]
@[simp] theorem tset_fxBase (s : State) (r : Reg) (f : Nat → Bool) : (s.tset r f).fxBase = s.fxBase := by rw [tset_eq]
@[simp] theorem tset_gangs (s : State) (r : Reg) (f : Nat → Bool) : (s.tset r f).gangs = s.gangs := by rw [tset_eq]
@[simp] theorem tset_members (s : State) (r : Reg) (f : Nat → Bool) : (s.tset r f).members = s.members := by rw [tset_eq]
@[simp] theorem tset_preps (s : State) (r : Reg) (f : Nat → Bool) : (s.tset r f).preps = s.preps := by rw [tset_eq]
@[simp] theorem tset_colls (s : State) (r : Reg) (f : Nat → Bool) : (s.tset r f).colls = s.colls := by rw [tset_eq]
@[simp] theorem tset_collSent (s : State) (r : Reg) (f : Nat → Bool) : (s.tset r f).collSent = s.collSent := by rw [tset_eq]
@[simp] theorem tset_crossings (s : State) (r : Reg) (f : Nat → Bool) : (s.tset r f).crossings = s.crossings := by rw [tset_eq]
@[simp] theorem tset_outbox (s : State) (r : Reg) (f : Nat → Bool) : (s.tset r f).outbox = s.outbox := by rw [tset_eq]
@[simp] theorem tset_winAsks (s : State) (r : Reg) (f : Nat → Bool) : (s.tset r f).winAsks = s.winAsks := by rw [tset_eq]
@[simp] theorem tset_locks (s : State) (r : Reg) (f : Nat → Bool) : (s.tset r f).locks = s.locks := by rw [tset_eq]
@[simp] theorem tset_owed (s : State) (r : Reg) (f : Nat → Bool) : (s.tset r f).owed = s.owed := by rw [tset_eq]
@[simp] theorem tset_err (s : State) (r : Reg) (f : Nat → Bool) : (s.tset r f).err = s.err := by rw [tset_eq]
@[simp] theorem tset_host (s : State) (r : Reg) (f : Nat → Bool) : (s.tset r f).host = s.host := by rw [tset_eq]
@[simp] theorem tset_test (s : State) (r : Reg) (f : Nat → Bool) : (s.tset r f).test = s.test := by rw [tset_eq]
@[simp] theorem tset_marks (s : State) (r : Reg) (f : Nat → Bool) : (s.tset r f).marks = s.marks := by rw [tset_eq]
@[simp] theorem tset_agenda (s : State) (r : Reg) (f : Nat → Bool) : (s.tset r f).agenda = s.agenda := by rw [tset_eq]
@[simp] theorem tset_free (s : State) (r : Reg) (f : Nat → Bool) : (s.tset r f).free = s.free := by rw [tset_eq]

/-! ### setThread -/

@[simp] theorem setThread_nextUid (s : State) (t : Thread) : (s.setThread t).nextUid = s.nextUid := by rw [setThread_eq]
@[simp] theorem setThread_blocks (s : State) (t : Thread) : (s.setThread t).blocks = s.blocks := by rw [setThread_eq]
@[simp] theorem setThread_cores (s : State) (t : Thread) : (s.setThread t).cores = s.cores := by rw [setThread_eq]
@[simp] theorem setThread_tasks (s : State) (t : Thread) : (s.setThread t).tasks = s.tasks := by rw [setThread_eq]
@[simp] theorem setThread_ctxs (s : State) (t : Thread) : (s.setThread t).ctxs = s.ctxs := by rw [setThread_eq]
@[simp] theorem setThread_tier (s : State) (t : Thread) : (s.setThread t).tier = s.tier := by rw [setThread_eq]
@[simp] theorem setThread_home (s : State) (t : Thread) : (s.setThread t).home = s.home := by rw [setThread_eq]
@[simp] theorem setThread_memPoison (s : State) (t : Thread) : (s.setThread t).memPoison = s.memPoison := by rw [setThread_eq]
@[simp] theorem setThread_tierPoison (s : State) (t : Thread) : (s.setThread t).tierPoison = s.tierPoison := by rw [setThread_eq]
@[simp] theorem setThread_lines (s : State) (t : Thread) : (s.setThread t).lines = s.lines := by rw [setThread_eq]
@[simp] theorem setThread_tick (s : State) (t : Thread) : (s.setThread t).tick = s.tick := by rw [setThread_eq]
@[simp] theorem setThread_quarantined (s : State) (t : Thread) : (s.setThread t).quarantined = s.quarantined := by rw [setThread_eq]
@[simp] theorem setThread_retired (s : State) (t : Thread) : (s.setThread t).retired = s.retired := by rw [setThread_eq]
@[simp] theorem setThread_seed (s : State) (t : Thread) : (s.setThread t).seed = s.seed := by rw [setThread_eq]
@[simp] theorem setThread_seedPoison (s : State) (t : Thread) : (s.setThread t).seedPoison = s.seedPoison := by rw [setThread_eq]
@[simp] theorem setThread_watch (s : State) (t : Thread) : (s.setThread t).watch = s.watch := by rw [setThread_eq]
@[simp] theorem setThread_woken (s : State) (t : Thread) : (s.setThread t).woken = s.woken := by rw [setThread_eq]
@[simp] theorem setThread_trellis (s : State) (t : Thread) : (s.setThread t).trellis = s.trellis := by rw [setThread_eq]
@[simp] theorem setThread_now (s : State) (t : Thread) : (s.setThread t).now = s.now := by rw [setThread_eq]
@[simp] theorem setThread_skew (s : State) (t : Thread) : (s.setThread t).skew = s.skew := by rw [setThread_eq]
@[simp] theorem setThread_dieTlb (s : State) (t : Thread) : (s.setThread t).dieTlb = s.dieTlb := by rw [setThread_eq]
@[simp] theorem setThread_asks (s : State) (t : Thread) : (s.setThread t).asks = s.asks := by rw [setThread_eq]
@[simp] theorem setThread_walked (s : State) (t : Thread) : (s.setThread t).walked = s.walked := by rw [setThread_eq]
@[simp] theorem setThread_cycles (s : State) (t : Thread) : (s.setThread t).cycles = s.cycles := by rw [setThread_eq]
@[simp] theorem setThread_svcCycles (s : State) (t : Thread) : (s.setThread t).svcCycles = s.svcCycles := by rw [setThread_eq]
@[simp] theorem setThread_frozen (s : State) (t : Thread) : (s.setThread t).frozen = s.frozen := by rw [setThread_eq]
@[simp] theorem setThread_mhz (s : State) (t : Thread) : (s.setThread t).mhz = s.mhz := by rw [setThread_eq]
@[simp] theorem setThread_pkg (s : State) (t : Thread) : (s.setThread t).pkg = s.pkg := by rw [setThread_eq]
@[simp] theorem setThread_dies (s : State) (t : Thread) : (s.setThread t).dies = s.dies := by rw [setThread_eq]
@[simp] theorem setThread_windowAdmitted (s : State) (t : Thread) : (s.setThread t).windowAdmitted = s.windowAdmitted := by rw [setThread_eq]
@[simp] theorem setThread_windowNo (s : State) (t : Thread) : (s.setThread t).windowNo = s.windowNo := by rw [setThread_eq]
@[simp] theorem setThread_events (s : State) (t : Thread) : (s.setThread t).events = s.events := by rw [setThread_eq]
@[simp] theorem setThread_eventsRead (s : State) (t : Thread) : (s.setThread t).eventsRead = s.eventsRead := by rw [setThread_eq]
@[simp] theorem setThread_logCap (s : State) (t : Thread) : (s.setThread t).logCap = s.logCap := by rw [setThread_eq]
@[simp] theorem setThread_flows (s : State) (t : Thread) : (s.setThread t).flows = s.flows := by rw [setThread_eq]
@[simp] theorem setThread_rx (s : State) (t : Thread) : (s.setThread t).rx = s.rx := by rw [setThread_eq]
@[simp] theorem setThread_failed (s : State) (t : Thread) : (s.setThread t).failed = s.failed := by rw [setThread_eq]
@[simp] theorem setThread_merges (s : State) (t : Thread) : (s.setThread t).merges = s.merges := by rw [setThread_eq]
@[simp] theorem setThread_down (s : State) (t : Thread) : (s.setThread t).down = s.down := by rw [setThread_eq]
@[simp] theorem setThread_unreach (s : State) (t : Thread) : (s.setThread t).unreach = s.unreach := by rw [setThread_eq]
@[simp] theorem setThread_reroute (s : State) (t : Thread) : (s.setThread t).reroute = s.reroute := by rw [setThread_eq]
@[simp] theorem setThread_replayed (s : State) (t : Thread) : (s.setThread t).replayed = s.replayed := by rw [setThread_eq]
@[simp] theorem setThread_fxEn (s : State) (t : Thread) : (s.setThread t).fxEn = s.fxEn := by rw [setThread_eq]
@[simp] theorem setThread_fxBase (s : State) (t : Thread) : (s.setThread t).fxBase = s.fxBase := by rw [setThread_eq]
@[simp] theorem setThread_gangs (s : State) (t : Thread) : (s.setThread t).gangs = s.gangs := by rw [setThread_eq]
@[simp] theorem setThread_members (s : State) (t : Thread) : (s.setThread t).members = s.members := by rw [setThread_eq]
@[simp] theorem setThread_preps (s : State) (t : Thread) : (s.setThread t).preps = s.preps := by rw [setThread_eq]
@[simp] theorem setThread_colls (s : State) (t : Thread) : (s.setThread t).colls = s.colls := by rw [setThread_eq]
@[simp] theorem setThread_collSent (s : State) (t : Thread) : (s.setThread t).collSent = s.collSent := by rw [setThread_eq]
@[simp] theorem setThread_crossings (s : State) (t : Thread) : (s.setThread t).crossings = s.crossings := by rw [setThread_eq]
@[simp] theorem setThread_outbox (s : State) (t : Thread) : (s.setThread t).outbox = s.outbox := by rw [setThread_eq]
@[simp] theorem setThread_winAsks (s : State) (t : Thread) : (s.setThread t).winAsks = s.winAsks := by rw [setThread_eq]
@[simp] theorem setThread_locks (s : State) (t : Thread) : (s.setThread t).locks = s.locks := by rw [setThread_eq]
@[simp] theorem setThread_owed (s : State) (t : Thread) : (s.setThread t).owed = s.owed := by rw [setThread_eq]
@[simp] theorem setThread_err (s : State) (t : Thread) : (s.setThread t).err = s.err := by rw [setThread_eq]
@[simp] theorem setThread_host (s : State) (t : Thread) : (s.setThread t).host = s.host := by rw [setThread_eq]
@[simp] theorem setThread_test (s : State) (t : Thread) : (s.setThread t).test = s.test := by rw [setThread_eq]
@[simp] theorem setThread_marks (s : State) (t : Thread) : (s.setThread t).marks = s.marks := by rw [setThread_eq]
@[simp] theorem setThread_agenda (s : State) (t : Thread) : (s.setThread t).agenda = s.agenda := by rw [setThread_eq]
@[simp] theorem setThread_free (s : State) (t : Thread) : (s.setThread t).free = s.free := by rw [setThread_eq]

/-! ### modThread -/

@[simp] theorem modThread_nextUid (s : State) (u : Nat) (f : Thread → Thread) : (s.modThread u f).nextUid = s.nextUid := setThread_nextUid s _
@[simp] theorem modThread_blocks (s : State) (u : Nat) (f : Thread → Thread) : (s.modThread u f).blocks = s.blocks := setThread_blocks s _
@[simp] theorem modThread_cores (s : State) (u : Nat) (f : Thread → Thread) : (s.modThread u f).cores = s.cores := setThread_cores s _
@[simp] theorem modThread_tasks (s : State) (u : Nat) (f : Thread → Thread) : (s.modThread u f).tasks = s.tasks := setThread_tasks s _
@[simp] theorem modThread_ctxs (s : State) (u : Nat) (f : Thread → Thread) : (s.modThread u f).ctxs = s.ctxs := setThread_ctxs s _
@[simp] theorem modThread_tier (s : State) (u : Nat) (f : Thread → Thread) : (s.modThread u f).tier = s.tier := setThread_tier s _
@[simp] theorem modThread_home (s : State) (u : Nat) (f : Thread → Thread) : (s.modThread u f).home = s.home := setThread_home s _
@[simp] theorem modThread_memPoison (s : State) (u : Nat) (f : Thread → Thread) : (s.modThread u f).memPoison = s.memPoison := setThread_memPoison s _
@[simp] theorem modThread_tierPoison (s : State) (u : Nat) (f : Thread → Thread) : (s.modThread u f).tierPoison = s.tierPoison := setThread_tierPoison s _
@[simp] theorem modThread_lines (s : State) (u : Nat) (f : Thread → Thread) : (s.modThread u f).lines = s.lines := setThread_lines s _
@[simp] theorem modThread_tick (s : State) (u : Nat) (f : Thread → Thread) : (s.modThread u f).tick = s.tick := setThread_tick s _
@[simp] theorem modThread_quarantined (s : State) (u : Nat) (f : Thread → Thread) : (s.modThread u f).quarantined = s.quarantined := setThread_quarantined s _
@[simp] theorem modThread_retired (s : State) (u : Nat) (f : Thread → Thread) : (s.modThread u f).retired = s.retired := setThread_retired s _
@[simp] theorem modThread_seed (s : State) (u : Nat) (f : Thread → Thread) : (s.modThread u f).seed = s.seed := setThread_seed s _
@[simp] theorem modThread_seedPoison (s : State) (u : Nat) (f : Thread → Thread) : (s.modThread u f).seedPoison = s.seedPoison := setThread_seedPoison s _
@[simp] theorem modThread_watch (s : State) (u : Nat) (f : Thread → Thread) : (s.modThread u f).watch = s.watch := setThread_watch s _
@[simp] theorem modThread_woken (s : State) (u : Nat) (f : Thread → Thread) : (s.modThread u f).woken = s.woken := setThread_woken s _
@[simp] theorem modThread_trellis (s : State) (u : Nat) (f : Thread → Thread) : (s.modThread u f).trellis = s.trellis := setThread_trellis s _
@[simp] theorem modThread_now (s : State) (u : Nat) (f : Thread → Thread) : (s.modThread u f).now = s.now := setThread_now s _
@[simp] theorem modThread_skew (s : State) (u : Nat) (f : Thread → Thread) : (s.modThread u f).skew = s.skew := setThread_skew s _
@[simp] theorem modThread_dieTlb (s : State) (u : Nat) (f : Thread → Thread) : (s.modThread u f).dieTlb = s.dieTlb := setThread_dieTlb s _
@[simp] theorem modThread_asks (s : State) (u : Nat) (f : Thread → Thread) : (s.modThread u f).asks = s.asks := setThread_asks s _
@[simp] theorem modThread_walked (s : State) (u : Nat) (f : Thread → Thread) : (s.modThread u f).walked = s.walked := setThread_walked s _
@[simp] theorem modThread_cycles (s : State) (u : Nat) (f : Thread → Thread) : (s.modThread u f).cycles = s.cycles := setThread_cycles s _
@[simp] theorem modThread_svcCycles (s : State) (u : Nat) (f : Thread → Thread) : (s.modThread u f).svcCycles = s.svcCycles := setThread_svcCycles s _
@[simp] theorem modThread_frozen (s : State) (u : Nat) (f : Thread → Thread) : (s.modThread u f).frozen = s.frozen := setThread_frozen s _
@[simp] theorem modThread_mhz (s : State) (u : Nat) (f : Thread → Thread) : (s.modThread u f).mhz = s.mhz := setThread_mhz s _
@[simp] theorem modThread_pkg (s : State) (u : Nat) (f : Thread → Thread) : (s.modThread u f).pkg = s.pkg := setThread_pkg s _
@[simp] theorem modThread_dies (s : State) (u : Nat) (f : Thread → Thread) : (s.modThread u f).dies = s.dies := setThread_dies s _
@[simp] theorem modThread_windowAdmitted (s : State) (u : Nat) (f : Thread → Thread) : (s.modThread u f).windowAdmitted = s.windowAdmitted := setThread_windowAdmitted s _
@[simp] theorem modThread_windowNo (s : State) (u : Nat) (f : Thread → Thread) : (s.modThread u f).windowNo = s.windowNo := setThread_windowNo s _
@[simp] theorem modThread_events (s : State) (u : Nat) (f : Thread → Thread) : (s.modThread u f).events = s.events := setThread_events s _
@[simp] theorem modThread_eventsRead (s : State) (u : Nat) (f : Thread → Thread) : (s.modThread u f).eventsRead = s.eventsRead := setThread_eventsRead s _
@[simp] theorem modThread_logCap (s : State) (u : Nat) (f : Thread → Thread) : (s.modThread u f).logCap = s.logCap := setThread_logCap s _
@[simp] theorem modThread_flows (s : State) (u : Nat) (f : Thread → Thread) : (s.modThread u f).flows = s.flows := setThread_flows s _
@[simp] theorem modThread_rx (s : State) (u : Nat) (f : Thread → Thread) : (s.modThread u f).rx = s.rx := setThread_rx s _
@[simp] theorem modThread_failed (s : State) (u : Nat) (f : Thread → Thread) : (s.modThread u f).failed = s.failed := setThread_failed s _
@[simp] theorem modThread_merges (s : State) (u : Nat) (f : Thread → Thread) : (s.modThread u f).merges = s.merges := setThread_merges s _
@[simp] theorem modThread_down (s : State) (u : Nat) (f : Thread → Thread) : (s.modThread u f).down = s.down := setThread_down s _
@[simp] theorem modThread_unreach (s : State) (u : Nat) (f : Thread → Thread) : (s.modThread u f).unreach = s.unreach := setThread_unreach s _
@[simp] theorem modThread_reroute (s : State) (u : Nat) (f : Thread → Thread) : (s.modThread u f).reroute = s.reroute := setThread_reroute s _
@[simp] theorem modThread_replayed (s : State) (u : Nat) (f : Thread → Thread) : (s.modThread u f).replayed = s.replayed := setThread_replayed s _
@[simp] theorem modThread_fxEn (s : State) (u : Nat) (f : Thread → Thread) : (s.modThread u f).fxEn = s.fxEn := setThread_fxEn s _
@[simp] theorem modThread_fxBase (s : State) (u : Nat) (f : Thread → Thread) : (s.modThread u f).fxBase = s.fxBase := setThread_fxBase s _
@[simp] theorem modThread_gangs (s : State) (u : Nat) (f : Thread → Thread) : (s.modThread u f).gangs = s.gangs := setThread_gangs s _
@[simp] theorem modThread_members (s : State) (u : Nat) (f : Thread → Thread) : (s.modThread u f).members = s.members := setThread_members s _
@[simp] theorem modThread_preps (s : State) (u : Nat) (f : Thread → Thread) : (s.modThread u f).preps = s.preps := setThread_preps s _
@[simp] theorem modThread_colls (s : State) (u : Nat) (f : Thread → Thread) : (s.modThread u f).colls = s.colls := setThread_colls s _
@[simp] theorem modThread_collSent (s : State) (u : Nat) (f : Thread → Thread) : (s.modThread u f).collSent = s.collSent := setThread_collSent s _
@[simp] theorem modThread_crossings (s : State) (u : Nat) (f : Thread → Thread) : (s.modThread u f).crossings = s.crossings := setThread_crossings s _
@[simp] theorem modThread_outbox (s : State) (u : Nat) (f : Thread → Thread) : (s.modThread u f).outbox = s.outbox := setThread_outbox s _
@[simp] theorem modThread_winAsks (s : State) (u : Nat) (f : Thread → Thread) : (s.modThread u f).winAsks = s.winAsks := setThread_winAsks s _
@[simp] theorem modThread_locks (s : State) (u : Nat) (f : Thread → Thread) : (s.modThread u f).locks = s.locks := setThread_locks s _
@[simp] theorem modThread_owed (s : State) (u : Nat) (f : Thread → Thread) : (s.modThread u f).owed = s.owed := setThread_owed s _
@[simp] theorem modThread_err (s : State) (u : Nat) (f : Thread → Thread) : (s.modThread u f).err = s.err := setThread_err s _
@[simp] theorem modThread_host (s : State) (u : Nat) (f : Thread → Thread) : (s.modThread u f).host = s.host := setThread_host s _
@[simp] theorem modThread_test (s : State) (u : Nat) (f : Thread → Thread) : (s.modThread u f).test = s.test := setThread_test s _
@[simp] theorem modThread_marks (s : State) (u : Nat) (f : Thread → Thread) : (s.modThread u f).marks = s.marks := setThread_marks s _
@[simp] theorem modThread_agenda (s : State) (u : Nat) (f : Thread → Thread) : (s.modThread u f).agenda = s.agenda := setThread_agenda s _
@[simp] theorem modThread_free (s : State) (u : Nat) (f : Thread → Thread) : (s.modThread u f).free = s.free := setThread_free s _

/-! ### What the updates set -/

@[simp] theorem modTh_th (s : State) (f : Thread → Thread) : (s.modTh f).th = f s.th := rfl
@[simp] theorem adv_pc (s : State) : s.adv.th.pc = s.th.pc + 4 := rfl
@[simp] theorem adv_wait (s : State) : s.adv.th.wait = none := rfl
@[simp] theorem adv_sreg (s : State) : s.adv.th.sreg = s.th.sreg := rfl
@[simp] theorem adv_vreg (s : State) : s.adv.th.vreg = s.th.vreg := rfl
@[simp] theorem adv_out (s : State) : s.adv.th.out = s.th.out := rfl
@[simp] theorem adv_uid (s : State) : s.adv.th.uid = s.th.uid := rfl
@[simp] theorem adv_sget (s : State) (r : Reg) : s.adv.sget r = s.sget r := rfl
@[simp] theorem adv_elem (s : State) (v : Reg) (j : Nat) : s.adv.elem v j = s.elem v j := rfl
@[simp] theorem adv_active (s : State) (j : Nat) : s.adv.active j = s.active j := rfl
@[simp] theorem goto_pc (s : State) (t : Word) : (s.goto t).th.pc = t := rfl
@[simp] theorem goto_sget (s : State) (t : Word) (r : Reg) : (s.goto t).sget r = s.sget r := rfl
@[simp] theorem vset_pc (s : State) (v : Reg) (f : Nat → W32) : (s.vset v f).th.pc = s.th.pc := by unfold State.vset Thread.vwriteA Thread.bind; rfl
@[simp] theorem vset_sget (s : State) (v : Reg) (f : Nat → W32) (r : Reg) : (s.vset v f).sget r = s.sget r := by unfold State.sget State.vset Thread.vwriteA Thread.bind; rfl
@[simp] theorem sset_pc (s : State) (r : Reg) (v : Word) : (s.sset r v).th.pc = s.th.pc := by
  unfold State.sset; split <;> [rfl; (split <;> rfl)]
@[simp] theorem sset_vreg (s : State) (r : Reg) (v : Word) : (s.sset r v).th.vreg = s.th.vreg := by
  unfold State.sset; split <;> [rfl; (split <;> rfl)]
@[simp] theorem sset_trapMode (s : State) (r : Reg) (v : Word) : (s.sset r v).th.trapMode = s.th.trapMode := by
  unfold State.sset; split <;> [rfl; (split <;> rfl)]
@[simp] theorem sset_zero (s : State) (v : Word) : s.sset 0 v = s := rfl

end Sys2Proof.Machine
end

