-- ==== Sys2Proof/Laws/Ops.lean ====
section
/-! SUPPORT. What each shared operation can do, said once: waits, issue, translation, traps and trap points, record reads, and that
none of them stops the machine. -/

set_option Elab.async false

namespace Sys2Proof.Machine

open Sys2Proof

/-- A result that is a next state. -/
def goesOn (r : Res) : Prop := ∃ t, r = .next t

@[simp] theorem goesOn_next (t : State) : goesOn (.next t) := ⟨t, rfl⟩

/-! ### Waiting -/

theorem waitWith_eq (s : State) (k : WaitKind) (l : List Word) : s.waitWith k l = { s with th := { s.th with wait := (s.waitWith k l).th.wait } } := by
  unfold State.waitWith
  split
  · split <;> rfl
  · rfl

theorem waitAt_eq (s : State) (k : WaitKind) : s.waitAt k = { s with th := { s.th with wait := (s.waitAt k).th.wait } } := waitWith_eq s k []

/-- The thread waits at its instruction in the wait named, with what the instruction read at issue. -/
theorem waitWith_kind (s : State) (k : WaitKind) (l : List Word) : ∃ w, (s.waitWith k l).th.wait = some w ∧ w.kind = k ∧ (l ≠ [] → w.args = l) := by
  unfold State.waitWith
  split
  · split
    · exact ⟨_, rfl, ‹_›, fun h => if_neg h⟩
    · exact ⟨_, rfl, rfl, fun _ => rfl⟩
  · exact ⟨_, rfl, rfl, fun _ => rfl⟩

theorem waitAt_kind (s : State) (k : WaitKind) : ∃ w, (s.waitAt k).th.wait = some w ∧ w.kind = k :=
  let ⟨w, h, hk, _⟩ := waitWith_kind s k []
  ⟨w, h, hk⟩

/-- A wait of the same kind goes on as it began. -/
theorem waitAt_same {s : State} {w : Wait} (h : s.th.wait = some w) : s.waitAt w.kind = s := by
  obtain ⟨th⟩ := s
  cases th
  subst h
  simp [State.waitAt, State.waitWith]

/-! ### Issue (R189) -/

theorem issue_full {s : State} {c : Ctr} {ps : List Part} (h : ctrLimit c ≤ s.th.count c ∨ s.sendRoom ps = false) (kind : AccKind) (p : Policy)
    (d : List Nat) (tx : Bool) : s.issue c kind p ps d tx = .next (s.waitAt .counter) :=
  if_pos (by simpa using h)

theorem issue_free {s : State} {c : Ctr} {ps : List Part} (h : s.th.count c < ctrLimit c) (hr : s.sendRoom ps = true) (kind : AccKind) (p : Policy)
    (d : List Nat) (tx : Bool) :
    s.issue c kind p ps d tx = .next { s with th := { s.th.bump c with
      out := s.th.out ++ [(⟨s.th.seq, c, s.th.issued c, s.th.pc, kind, p, ps, d, tx, s.th.trapMode, (s.ctx s.th.ctx).phase, s.countAt s.th.core⟩ : Access)],
      emulated := none } }.adv :=
  if_neg (by simp [hr, h])

theorem issue_goesOn (s : State) (c : Ctr) (kind : AccKind) (p : Policy) (ps : List Part) (d : List Nat) (tx : Bool) :
    goesOn (s.issue c kind p ps d tx) := by
  unfold State.issue; split <;> exact ⟨_, rfl⟩

/-! ### Translation (R371, R372) -/

/-- Two states that differ at most in what a translation may change: the translations held, the entries a walk asks another package
for, the packets that ask, and what walks have read. -/
def sameButXlat (s t : State) : Prop :=
  t = { s with cores := t.cores, dieTlb := t.dieTlb, free := t.free, flows := t.flows, asks := t.asks, walked := t.walked }

theorem sameButXlat_refl (s : State) : sameButXlat s s := rfl

theorem allow_fst (s : State) (k : AccessKind) (x : Xlat) : (allow s k x).1 = s := by unfold allow; split <;> rfl

theorem translate_same (s : State) (core ctx va : Nat) (k : AccessKind) : sameButXlat s (s.translate core ctx va k).1 := by
  unfold State.translate
  split
  · rw [allow_fst]; rfl
  · split
    · rw [allow_fst]; rfl
    · split
      · dsimp only; rw [allow_fst]; split <;> rfl
      · rfl
      · rfl
      · rfl
      · split <;> rfl

theorem reachIn_same (s : State) (m : Map Xlat) (t : Thread) (k : AccessKind) (l : Option Nat) (va n : Nat) :
    sameButXlat s (s.reachIn m t k l va n).1 := by
  have ht : sameButXlat s (s.translateIn m t.core t.ctx va k).1 := by
    unfold State.translateIn; split
    · rw [allow_fst]; rfl
    · exact translate_same ..
  unfold State.reachIn
  dsimp only
  split
  · split
    · rfl
    · split
      · rfl
      · split <;> (rename_i h; rw [h] at ht; exact ht)
  · repeat' split
    all_goals rfl

theorem reachX_same (s : State) (m : Map Xlat) (t : Thread) (k : AccessKind) (x : Extra) (l : Option Nat) (va n : Nat) :
    sameButXlat s (s.reachX m t k x l va n).1 := by
  have ht := reachIn_same s m t k l va n
  unfold State.reachX
  split
  · rfl
  · split
    · rename_i h; rw [h] at ht; exact ht
    · rename_i h; rw [h] at ht; split <;> exact ht

/-- What a pointer's aperture and reserved bits give before any translation (R65). -/
theorem reach_badBits {s : State} {t : Thread} {k : AccessKind} {l : Option Nat} {va n : Nat} (h : 4 ≤ va / 2 ^ 60) :
    s.reach t k l va n = (s, .error (.trap 5 14)) := by
  unfold State.reach State.reachIn
  dsimp only
  rw [if_neg (by omega), if_neg (by omega), if_neg (by omega), if_neg (by omega)]

/-! ### Traps (R267, R375) -/

@[simp] theorem enterTrapMode_pc (t : Thread) (x : Trap) : (t.enterTrapMode x).pc = t.tvec := rfl
@[simp] theorem enterTrapMode_trapMode (t : Thread) (x : Trap) : (t.enterTrapMode x).trapMode = true := rfl
@[simp] theorem enterTrapMode_treg (t : Thread) (x : Trap) : (t.enterTrapMode x).treg = [] := rfl
@[simp] theorem enterTrapMode_trappc (t : Thread) (x : Trap) : (t.enterTrapMode x).trappc = x.pc := rfl
@[simp] theorem enterTrapMode_trapaddr (t : Thread) (x : Trap) : (t.enterTrapMode x).trapaddr = x.addr := rfl
@[simp] theorem enterTrapMode_trapinfo (t : Thread) (x : Trap) : (t.enterTrapMode x).trapinfo = x.info := rfl
@[simp] theorem enterTrapMode_trapcause (t : Thread) (x : Trap) :
    (t.enterTrapMode x).trapcause = BitVec.ofNat 64 (x.cause + (if x.deferred then 256 else 0)) := rfl

/-- The trap of a wave with a handler enters trap mode. -/
theorem deliver_handled {s : State} {u : Nat} {x : Trap} (hf : (s.thread u).frailor = false) (hu : x.cause ≠ cUeConsumed) (hs : x.cause ≠ cSdc)
    (hn : (s.thread u).noHandler = false) : s.deliver u x = s.trapIn u x := by
  simp [State.deliver, hf, hu, hs, hn]

/-- The trap of a wave without a handler, or in its handler, ends its context. -/
theorem deliver_unhandled {s : State} {u : Nat} {x : Trap} (hf : (s.thread u).frailor = false) (hu : x.cause ≠ cUeConsumed) (hs : x.cause ≠ cSdc)
    (hn : (s.thread u).noHandler = true) : s.deliver u x = s.terminate (s.thread u).ctx x.cause false := by
  simp [State.deliver, hf, hu, hs, hn]

/-- A thread outside a dual pair takes its trap alone. -/
theorem takeTrap_single {s : State} {u : Nat} (h : (s.thread u).partner = none) (x : Trap) : s.takeTrap u x = s.deliver u x := by
  simp [State.takeTrap, h]

/-- A precise trap without a DIE_LOST waiting is taken as it is (R126). -/
theorem takePrecise_plain {s : State} (h : ∀ a ∈ s.th.async, a.cause ≠ cDieLost) (x : Trap) : s.takePrecise x = s.takeTrap s.th.uid x := by
  have hn : (if s.th.trapMode then none else s.th.async.find? fun a => a.cause = cDieLost) = none := by
    split
    · rfl
    · exact List.find?_eq_none.mpr fun a ha => by simpa using h a ha
  unfold State.takePrecise
  rw [hn]

theorem raise_goesOn (s : State) (c : Nat) (a i : Word) : goesOn (s.raise c a i) := ⟨_, rfl⟩

theorem faulted_goesOn (s : State) (x : Trap) (k : Nat) (v : Bool) (l : List Nat) : goesOn (s.faulted x k v l) := by
  unfold State.faulted; split <;> exact ⟨_, rfl⟩

theorem flawed_goesOn (s : State) (k : AccessKind) (l va : Nat) (f : Flaw) (v : Bool) (ls : List Nat) : goesOn (s.flawed k l va f v ls) := by
  unfold State.flawed
  split
  · exact ⟨_, rfl⟩
  · exact faulted_goesOn ..

/-! ### Trap points (R88, R191) -/

theorem trapPoint_none {s : State} {c : Pending → Bool} (h : ∀ p ∈ s.th.pending, ¬(p.inTrap = s.th.trapMode ∧ c p = true)) (k : State → Res) :
    s.trapPoint c k = k s := by
  have : s.th.pending.filter (fun q => q.inTrap == s.th.trapMode && c q) = [] := by
    rw [List.filter_eq_nil_iff]
    intro p hp; have := h p hp; simpa using this
  simp only [State.trapPoint, this, oldest]

theorem trapPoint_goesOn {s : State} (c : Pending → Bool) {k : State → Res} (h : goesOn (k s)) : goesOn (s.trapPoint c k) := by
  unfold State.trapPoint
  dsimp only
  split
  · exact ⟨_, rfl⟩
  · exact h

/-! ### Accesses and records -/

theorem scalarAccess_goesOn {s : State} {k : AccessKind} {e : Extra} {va : Word} {n x y : Nat} {k' : State → List Part → Res}
    (h : ∀ s ps, goesOn (k' s ps)) : goesOn (s.scalarAccess k e va n x y k') := by
  unfold State.scalarAccess
  split
  · exact h ..
  · split
    · exact flawed_goesOn ..
    · exact h ..

theorem vectorAccess_goesOn {s : State} {k : AccessKind} {e : Extra} {n : Nat} {l : List (Nat × Nat)} {x y : Nat → Nat}
    {k' : State → List Part → Res} (h : ∀ s ps, goesOn (k' s ps)) : goesOn (s.vectorAccess k e n l x y k') := by
  unfold State.vectorAccess
  dsimp only
  split
  · exact flawed_goesOn ..
  · exact h ..

theorem withRecord_goesOn {s : State} {va n : Nat} {l : List Word} {k : State → List Byte → Res} (h : ∀ s b, goesOn (k s b)) :
    goesOn (s.withRecord va n l k) := by
  unfold State.withRecord
  split
  · exact h ..
  · exact faulted_goesOn ..
  · exact ⟨_, rfl⟩

theorem checked_goesOn {s : State} {w : W32} {k : State → Res} (h : ∀ s, goesOn (k s)) : goesOn (s.checked w k) := by
  unfold State.checked
  split
  · exact raise_goesOn ..
  · split
    · exact raise_goesOn ..
    · exact h _

theorem pairRun_goesOn {s : State} {w : W32} {v : Nat} {k : State → Res} (h : ∀ s, goesOn (k s)) : goesOn (s.pairRun w v k) := by
  unfold State.pairRun
  dsimp only
  repeat' split
  all_goals first
    | exact ⟨_, rfl⟩
    | exact raise_goesOn ..
    | exact h _

theorem pairGate_goesOn {s : State} {w : W32} {v : Nat} {k : State → Res} (h : ∀ s, goesOn (k s)) : goesOn (s.pairGate w v k) := by
  unfold State.pairGate
  dsimp only
  split
  · split
    · exact ⟨_, rfl⟩
    · split
      · exact raise_goesOn ..
      · exact ⟨_, rfl⟩
  · split
    · exact ⟨_, rfl⟩
    · split
      · exact raise_goesOn ..
      · generalize (if (s.th.wait.any fun x => decide (x.kind = .pair)) = true then
          { s with th := { s.th with wait := none } } else s : State) = z
        obtain ⟨t, ht⟩ := h z
        rw [ht]
        dsimp only
        split <;> exact ⟨_, rfl⟩

/-- The gate stops no word: it goes on whenever the word's own effect does. -/
theorem guarded_goesOn {s : State} {w : W32} {k : State → Res} (h : ∀ s, goesOn (k s)) : goesOn (s.guarded w k) := by
  unfold State.guarded
  split
  · exact checked_goesOn h
  · split
    · exact pairRun_goesOn fun s => checked_goesOn h
    · exact pairGate_goesOn fun s => checked_goesOn h

end Sys2Proof.Machine
end

