-- ==== Sys2Proof/Laws/Invariant.lean ====
section
/-! SUPPORT. The updates keep the canonical form of the byte memories, and the units listed once each under their own numbers. -/

set_option Elab.async false

namespace Sys2Proof.Machine

open Sys2Proof

/-- Equal memories and equal windows keep the form. -/
theorem memWf_of {s t : State} (h : s.memWf) (ht : t.tier = s.tier) (hs : t.seed = s.seed) (hm : t.host.mem = s.host.mem) (hb : t.blocks = s.blocks) :
    t.memWf := by
  unfold State.memWf at *; rw [ht, hs, hm, hb]; exact h

theorem unitsOk_of {s t : State} (h : s.unitsOk) (h1 : t.threads = s.threads) (h2 : t.blocks = s.blocks) (h3 : t.tasks = s.tasks) (h4 : t.ctxs = s.ctxs) :
    t.unitsOk := by
  unfold State.unitsOk at *; rw [h1, h2, h3, h4]; exact h

theorem memWf_reset : State.reset.memWf := by
  refine ⟨rfl, rfl, rfl, ?_⟩
  intro p hp; cases hp

theorem unitsOk_reset : State.reset.unitsOk := by
  refine ⟨rfl, rfl, rfl, rfl, ?_, ?_, ?_⟩ <;> (intro p hp; cases hp)

/-! ### Threads -/

theorem thread_uid {s : State} (h : s.unitsOk) (u : Nat) : (s.thread u).uid = u := by
  obtain ⟨-, -, -, -, ht, -, -⟩ := h
  unfold State.thread
  split
  · exact (‹u = s.th.uid›).symm
  · unfold Map.getD
    cases hg : Map.get? s.threads u with
    | none => rfl
    | some t => exact ht _ (Map.mem_of_get? hg)

theorem block_uid {s : State} (h : s.unitsOk) (b : Nat) : (s.block b).uid = b := by
  obtain ⟨-, -, -, -, -, hb, -⟩ := h
  unfold State.block Map.getD
  cases hg : Map.get? s.blocks b with
  | none => rfl
  | some x => exact hb _ (Map.mem_of_get? hg)

theorem unitsOk_setThread {s : State} (h : s.unitsOk) (t : Thread) : (s.setThread t).unitsOk := by
  obtain ⟨h1, h2, h3, h4, h5, h6, h7⟩ := h
  unfold State.setThread
  split
  · exact ⟨h1, h2, h3, h4, h5, h6, h7⟩
  · refine ⟨Map.sorted_set h1 _ _, h2, h3, h4, fun p hp => ?_, h6, h7⟩
    rcases Map.mem_set hp with rfl | hp
    · rfl
    · exact h5 p hp

theorem memWf_setThread {s : State} (h : s.memWf) (t : Thread) : (s.setThread t).memWf := by
  rw [setThread_eq]; exact h

theorem unitsOk_modThread {s : State} (h : s.unitsOk) (u : Nat) (f : Thread → Thread) : (s.modThread u f).unitsOk := unitsOk_setThread h _

theorem memWf_modThread {s : State} (h : s.memWf) (u : Nat) (f : Thread → Thread) : (s.modThread u f).memWf := memWf_setThread h _

/-- The thread that was set is the one its number names; every other stays. -/
theorem thread_setThread (s : State) (t : Thread) (u : Nat) : (s.setThread t).thread u = if u = t.uid then t else s.thread u := by
  unfold State.setThread
  split
  · rename_i hc
    by_cases hu : u = t.uid
    · simp [State.thread, hu]
    · have h2 : u ≠ s.th.uid := fun e => hu (e.trans hc.symm)
      simp only [State.thread, hu, h2, if_false]
  · rename_i hc
    unfold State.thread Map.getD
    dsimp only
    rw [Map.get?_set]
    by_cases h1 : u = s.th.uid
    · have h2 : u ≠ t.uid := fun e => hc (e.symm.trans h1)
      rw [if_pos h1, if_neg h2, if_pos h1]
    · by_cases h2 : u = t.uid
      · rw [if_neg h1, if_pos h2, if_pos h2]; rfl
      · rw [if_neg h1, if_neg h2, if_neg h2, if_neg h1]

theorem unitsOk_switchTo {s : State} (h : s.unitsOk) (u : Nat) : (s.switchTo u).unitsOk := by
  unfold State.switchTo
  split
  · exact h
  · obtain ⟨h1, h2, h3, h4, h5, h6, h7⟩ := h
    refine ⟨Map.sorted_erase (Map.sorted_set h1 _ _) _, h2, h3, h4, fun p hp => ?_, h6, h7⟩
    rcases Map.mem_set (List.mem_filter.mp hp).1 with rfl | hp
    · rfl
    · exact h5 p hp

/-! ### Blocks, tasks and contexts -/

theorem unitsOk_modBlock {s : State} (h : s.unitsOk) (b : Nat) {f : Block → Block} (hf : (f (s.block b)).uid = (s.block b).uid) :
    (s.modBlock b f).unitsOk := by
  have hu := block_uid h b
  obtain ⟨h1, h2, h3, h4, h5, h6, h7⟩ := h
  refine ⟨h1, Map.sorted_set h2 _ _, h3, h4, h5, fun p hp => ?_, h7⟩
  rcases Map.mem_set hp with rfl | hp
  · exact hf.trans hu
  · exact h6 p hp

theorem block_ls_wf {s : State} (h : s.memWf) (b : Nat) : (s.block b).ls.wf = true := by
  obtain ⟨-, -, -, hb⟩ := h
  unfold State.block Map.getD
  cases hg : Map.get? s.blocks b with
  | none => rfl
  | some x => exact hb _ (Map.mem_of_get? hg)

theorem memWf_modBlock {s : State} (h : s.memWf) (b : Nat) {f : Block → Block} (hf : (f (s.block b)).ls.wf = true) : (s.modBlock b f).memWf := by
  obtain ⟨h1, h2, h3, h4⟩ := h
  refine ⟨h1, h2, h3, fun p hp => ?_⟩
  rcases Map.mem_set hp with rfl | hp
  · exact hf
  · exact h4 p hp

theorem lsWrite_wf {b : Block} (h : b.ls.wf = true) (o n x : Nat) : (b.lsWrite o n x).ls.wf = true := Memory.wf_writeN h o n x

theorem unitsOk_modCtx {s : State} (h : s.unitsOk) (c : Nat) (f : Ctx → Ctx) : (s.modCtx c f).unitsOk := by
  obtain ⟨h1, h2, h3, h4, h5, h6, h7⟩ := h
  exact ⟨h1, h2, h3, Map.sorted_set h4 _ _, h5, h6, h7⟩

theorem memWf_modCtx {s : State} (h : s.memWf) (c : Nat) (f : Ctx → Ctx) : (s.modCtx c f).memWf := h

theorem unitsOk_modCore {s : State} (h : s.unitsOk) (c : Nat) (f : Core → Core) : (s.modCore c f).unitsOk := h

theorem memWf_modCore {s : State} (h : s.memWf) (c : Nat) (f : Core → Core) : (s.modCore c f).memWf := h

theorem unitsOk_modTask {s : State} (h : s.unitsOk) (u : Nat) {f : Task → Task} (hf : ∀ t, (f t).uid = t.uid) : (s.modTask u f).unitsOk := by
  obtain ⟨h1, h2, h3, h4, h5, h6, h7⟩ := h
  refine ⟨h1, h2, Map.sorted_adjust h3 _ _, h4, h5, h6, fun p hp => ?_⟩
  have hp' : p ∈ s.tasks.adjust u f := hp
  unfold Map.adjust at hp'
  split at hp'
  · rename_i v hv
    rcases Map.mem_set hp' with rfl | hp'
    · exact (hf v).trans (h7 _ (Map.mem_of_get? hv))
    · exact h7 p hp'
  · exact h7 p hp'

theorem memWf_modTask {s : State} (h : s.memWf) (u : Nat) (f : Task → Task) : (s.modTask u f).memWf := h

/-! ### The running thread's registers, waits, issue -/

theorem memWf_sset {s : State} (h : s.memWf) (r : Reg) (v : Word) : (s.sset r v).memWf := by rw [sset_eq]; exact h
theorem unitsOk_sset {s : State} (h : s.unitsOk) (r : Reg) (v : Word) : (s.sset r v).unitsOk := by rw [sset_eq]; exact h
theorem memWf_tset {s : State} (h : s.memWf) (r : Reg) (f : Nat → Bool) : (s.tset r f).memWf := by rw [tset_eq]; exact h
theorem unitsOk_tset {s : State} (h : s.unitsOk) (r : Reg) (f : Nat → Bool) : (s.tset r f).unitsOk := by rw [tset_eq]; exact h
theorem memWf_vset {s : State} (h : s.memWf) (v : Reg) (f : Nat → W32) : (s.vset v f).memWf := by rw [vset_eq]; exact h
theorem unitsOk_vset {s : State} (h : s.unitsOk) (v : Reg) (f : Nat → W32) : (s.vset v f).unitsOk := by rw [vset_eq]; exact h
theorem memWf_adv {s : State} (h : s.memWf) : s.adv.memWf := h
theorem unitsOk_adv {s : State} (h : s.unitsOk) : s.adv.unitsOk := h
theorem memWf_waitAt {s : State} (h : s.memWf) (k : WaitKind) : (s.waitAt k).memWf := by rw [waitAt_eq]; exact h
theorem unitsOk_waitAt {s : State} (h : s.unitsOk) (k : WaitKind) : (s.waitAt k).unitsOk := by rw [waitAt_eq]; exact h

/-! ### Homes and lines -/

theorem foldl_keeps {α : Type} {P : State → Prop} {f : State → α → State} (hf : ∀ s a, P s → P (f s a)) (l : List α) :
    ∀ s, P s → P (l.foldl f s) := by
  induction l with
  | nil => exact fun s h => h
  | cons a l ih => exact fun s h => ih _ (hf s a h)

theorem dropCopy_host (s : State) (o : BitVec 32) (w : Nat) : (s.dropCopy o w).host.mem = s.host.mem := by
  unfold State.dropCopy; split <;> rfl

theorem dropCopy_eq (s : State) (o : BitVec 32) (w : Nat) :
    s.dropCopy o w = { s with cores := (s.dropCopy o w).cores, host := (s.dropCopy o w).host } := by
  unfold State.dropCopy; split <;> rfl

theorem memWf_dropCopy {s : State} (h : s.memWf) (o : BitVec 32) (w : Nat) : (s.dropCopy o w).memWf := by
  refine memWf_of h ?_ ?_ (dropCopy_host s o w) ?_ <;> rw [dropCopy_eq]

theorem unitsOk_dropCopy {s : State} (h : s.unitsOk) (o : BitVec 32) (w : Nat) : (s.dropCopy o w).unitsOk := by
  rw [dropCopy_eq]; exact h

theorem memWf_writeHome {s : State} (h : s.memWf) (w : Nat) (v : W32) (tag : Nat) : (s.writeHome w v tag).memWf := h
theorem unitsOk_writeHome {s : State} (h : s.unitsOk) (w : Nat) (v : W32) (tag : Nat) : (s.writeHome w v tag).unitsOk := h

theorem foundPlant_eq (s : State) (line : Nat) : s.foundPlant line = { s with err := (s.foundPlant line).err } := by
  unfold State.foundPlant
  repeat' split
  all_goals rfl

/-- A read of a line for a write-back changes the line, the error unit and what is marked poisoned, nothing else. -/
theorem lineRead_eq (s : State) (line : Nat) : s.lineRead line = { s with
    lines := (s.lineRead line).lines, err := (s.lineRead line).err, memPoison := (s.lineRead line).memPoison, tierPoison := (s.lineRead line).tierPoison } := by
  unfold State.lineRead
  split
  · split
    · dsimp only; rw [foundPlant_eq]; repeat' split
      all_goals rfl
    · rfl
  · rfl

theorem memWf_lineRead {s : State} (h : s.memWf) (line : Nat) : (s.lineRead line).memWf := by rw [lineRead_eq]; exact h
theorem unitsOk_lineRead {s : State} (h : s.unitsOk) (line : Nat) : (s.lineRead line).unitsOk := by rw [lineRead_eq]; exact h

theorem memWf_writeBack {s : State} (h : s.memWf) (w : Nat) (keep : Bool) : (s.writeBack w keep).memWf := by
  unfold State.writeBack
  split
  · replace h := memWf_lineRead h (lineOf w)
    have hk : ∀ o : BitVec 32, (if keep = true then (s.lineRead (lineOf w)).keepCopy o w else (s.lineRead (lineOf w)).dropCopy o w).memWf := by
      intro o; split
      · exact h
      · exact memWf_dropCopy h o w
    dsimp only
    split <;> exact hk _
  · exact h

theorem unitsOk_writeBack {s : State} (h : s.unitsOk) (w : Nat) (keep : Bool) : (s.writeBack w keep).unitsOk := by
  unfold State.writeBack
  split
  · replace h := unitsOk_lineRead h (lineOf w)
    have hk : ∀ o : BitVec 32, (if keep = true then (s.lineRead (lineOf w)).keepCopy o w else (s.lineRead (lineOf w)).dropCopy o w).unitsOk := by
      intro o; split
      · exact h
      · exact unitsOk_dropCopy h o w
    dsimp only
    split <;> exact hk _
  · exact h

theorem memWf_evictGood {s : State} (h : s.memWf) (line : Nat) : (s.evictGood line).memWf := by
  unfold State.evictGood
  dsimp only
  rw [foundPlant_eq]
  refine memWf_of (foldl_keeps (P := State.memWf) (fun t w ht => ?_) _ _ (foldl_keeps (P := State.memWf) (fun t w ht => memWf_writeBack ht w false) _ _ h)) rfl rfl rfl rfl
  split
  · obtain ⟨h1, h2, h3, h4⟩ := ht
    exact ⟨Memory.wf_writeN h1 _ _ _, h2, h3, h4⟩
  · exact ht

theorem unitsOk_evictGood {s : State} (h : s.unitsOk) (line : Nat) : (s.evictGood line).unitsOk := by
  unfold State.evictGood
  dsimp only
  rw [foundPlant_eq]
  refine unitsOk_of (foldl_keeps (P := State.unitsOk) (fun t w ht => ?_) _ _ (foldl_keeps (P := State.unitsOk) (fun t w ht => unitsOk_writeBack ht w false) _ _ h)) rfl rfl rfl rfl
  split
  · exact ht
  · exact ht

theorem memWf_evictBad {s : State} (h : s.memWf) (line : Nat) (l : Line) : (s.evictBad line l).memWf := by
  unfold State.evictBad; rw [foundPlant_eq]; exact h

theorem unitsOk_evictBad {s : State} (h : s.unitsOk) (line : Nat) (l : Line) : (s.evictBad line l).unitsOk := by
  unfold State.evictBad; rw [foundPlant_eq]; exact h

theorem memWf_evictLine {s : State} (h : s.memWf) (line : Nat) : (s.evictLine line).memWf := by
  unfold State.evictLine
  split
  · split
    · exact memWf_evictBad h _ _
    · exact memWf_evictGood h _
  · exact memWf_evictGood h _

theorem unitsOk_evictLine {s : State} (h : s.unitsOk) (line : Nat) : (s.evictLine line).unitsOk := by
  unfold State.evictLine
  split
  · split
    · exact unitsOk_evictBad h _ _
    · exact unitsOk_evictGood h _
  · exact unitsOk_evictGood h _

theorem memWf_displace {s : State} (h : s.memWf) (line n : Nat) : (s.displace line n).memWf := by
  induction n generalizing s with
  | zero => exact h
  | succ n ih =>
    unfold State.displace
    split
    · dsimp only
      split
      · exact ih (memWf_evictLine h _)
      · exact memWf_of (memWf_evictLine h _) rfl rfl rfl rfl
    · exact h

theorem unitsOk_displace {s : State} (h : s.unitsOk) (line n : Nat) : (s.displace line n).unitsOk := by
  induction n generalizing s with
  | zero => exact h
  | succ n ih =>
    unfold State.displace
    split
    · dsimp only
      split
      · exact ih (unitsOk_evictLine h _)
      · exact unitsOk_of (unitsOk_evictLine h _) rfl rfl rfl rfl
    · exact h

theorem memWf_touchLine {s : State} (h : s.memWf) (w : Nat) : (s.touchLine w).memWf := by
  unfold State.touchLine
  dsimp only
  split
  · exact h
  · split
    · exact h
    · exact memWf_displace (s := { s with tick := s.tick + 1 }) h _ _

theorem unitsOk_touchLine {s : State} (h : s.unitsOk) (w : Nat) : (s.touchLine w).unitsOk := by
  unfold State.touchLine
  dsimp only
  split
  · exact h
  · split
    · exact h
    · exact unitsOk_displace (s := { s with tick := s.tick + 1 }) h _ _

theorem memWf_forceWord {s : State} (h : s.memWf) (w : Nat) (v : W32) (tag : Nat) : (s.forceWord w v tag).memWf :=
  memWf_writeHome (memWf_writeBack (memWf_touchLine h w) w false) w v tag

theorem unitsOk_forceWord {s : State} (h : s.unitsOk) (w : Nat) (v : W32) (tag : Nat) : (s.forceWord w v tag).unitsOk :=
  unitsOk_writeHome (unitsOk_writeBack (unitsOk_touchLine h w) w false) w v tag

end Sys2Proof.Machine
end

