-- ==== Sys2Proof/Laws/PerInstr.lean ====
section
/-! SUPPORT. Per instruction: the decoder gives back an encoded well-formed instruction (R110, R111, R116). -/

set_option Elab.async false
set_option linter.unusedSimpArgs false

namespace Sys2Proof

theorem decodeWord_01 (w : W32) (h : fOp w = 0x01) : decodeWord w = dec01 w := by
  rw [decodeWord, h]
  rfl
theorem decodeWord_02 (w : W32) (h : fOp w = 0x02) : decodeWord w = dec02 w := by
  rw [decodeWord, h]
  rfl
theorem decodeWord_03 (w : W32) (h : fOp w = 0x03) : decodeWord w = dec03 w := by
  rw [decodeWord, h]
  rfl
theorem decodeWord_04 (w : W32) (h : fOp w = 0x04) : decodeWord w = dec04 w := by
  rw [decodeWord, h]
  rfl
theorem decodeWord_05 (w : W32) (h : fOp w = 0x05) : decodeWord w = dec05 w := by
  rw [decodeWord, h]
  rfl
theorem decodeWord_06 (w : W32) (h : fOp w = 0x06) : decodeWord w = dec06 w := by
  rw [decodeWord, h]
  rfl
theorem decodeWord_10 (w : W32) (h : fOp w = 0x10) : decodeWord w = dec10 w := by
  rw [decodeWord, h]
  rfl
theorem decodeWord_11 (w : W32) (h : fOp w = 0x11) : decodeWord w = dec11 w := by
  rw [decodeWord, h]
  rfl
theorem decodeWord_12 (w : W32) (h : fOp w = 0x12) : decodeWord w = dec12 w := by
  rw [decodeWord, h]
  rfl
theorem decodeWord_13 (w : W32) (h : fOp w = 0x13) : decodeWord w = dec13 w := by
  rw [decodeWord, h]
  rfl
theorem decodeWord_14 (w : W32) (h : fOp w = 0x14) : decodeWord w = dec14 w := by
  rw [decodeWord, h]
  rfl
theorem decodeWord_15 (w : W32) (h : fOp w = 0x15) : decodeWord w = dec15 w := by
  rw [decodeWord, h]
  rfl
theorem decodeWord_16 (w : W32) (h : fOp w = 0x16) : decodeWord w = dec16 w := by
  rw [decodeWord, h]
  rfl
theorem decodeWord_17 (w : W32) (h : fOp w = 0x17) : decodeWord w = dec17 w := by
  rw [decodeWord, h]
  rfl
theorem decodeWord_18 (w : W32) (h : fOp w = 0x18) : decodeWord w = dec18 w := by
  rw [decodeWord, h]
  rfl
theorem decodeWord_19 (w : W32) (h : fOp w = 0x19) : decodeWord w = dec19 w := by
  rw [decodeWord, h]
  rfl
theorem decodeWord_1A (w : W32) (h : fOp w = 0x1A) : decodeWord w = dec1A w := by
  rw [decodeWord, h]
  rfl
theorem decodeWord_1B (w : W32) (h : fOp w = 0x1B) : decodeWord w = dec1B w := by
  rw [decodeWord, h]
  rfl
theorem decodeWord_1C (w : W32) (h : fOp w = 0x1C) : decodeWord w = dec1C w := by
  rw [decodeWord, h]
  rfl
theorem decodeWord_20 (w : W32) (h : fOp w = 0x20) : decodeWord w = dec20 w := by
  rw [decodeWord, h]
  rfl
theorem decodeWord_21 (w : W32) (h : fOp w = 0x21) : decodeWord w = dec21 w := by
  rw [decodeWord, h]
  rfl
theorem decodeWord_22 (w : W32) (h : fOp w = 0x22) : decodeWord w = dec22 w := by
  rw [decodeWord, h]
  rfl
theorem decodeWord_23 (w : W32) (h : fOp w = 0x23) : decodeWord w = dec23 w := by
  rw [decodeWord, h]
  rfl
theorem decodeWord_24 (w : W32) (h : fOp w = 0x24) : decodeWord w = dec24 w := by
  rw [decodeWord, h]
  rfl
theorem decodeWord_25 (w : W32) (h : fOp w = 0x25) : decodeWord w = dec25 w := by
  rw [decodeWord, h]
  rfl
theorem decodeWord_26 (w : W32) (h : fOp w = 0x26) : decodeWord w = dec26 w := by
  rw [decodeWord, h]
  rfl
theorem decodeWord_27 (w : W32) (h : fOp w = 0x27) : decodeWord w = dec27 w := by
  rw [decodeWord, h]
  rfl
theorem decodeWord_28 (w : W32) (h : fOp w = 0x28) : decodeWord w = dec28 w := by
  rw [decodeWord, h]
  rfl
theorem decodeWord_29 (w : W32) (h : fOp w = 0x29) : decodeWord w = dec29 w := by
  rw [decodeWord, h]
  rfl
theorem decodeWord_2A (w : W32) (h : fOp w = 0x2A) : decodeWord w = dec2A w := by
  rw [decodeWord, h]
  rfl
theorem decodeWord_2B (w : W32) (h : fOp w = 0x2B) : decodeWord w = dec2B w := by
  rw [decodeWord, h]
  rfl
theorem decodeWord_2C (w : W32) (h : fOp w = 0x2C) : decodeWord w = dec2C w := by
  rw [decodeWord, h]
  rfl
theorem decodeWord_2D (w : W32) (h : fOp w = 0x2D) : decodeWord w = dec2D w := by
  rw [decodeWord, h]
  rfl
theorem decodeWord_2E (w : W32) (h : fOp w = 0x2E) : decodeWord w = dec2E w := by
  rw [decodeWord, h]
  rfl
theorem decodeWord_2F (w : W32) (h : fOp w = 0x2F) : decodeWord w = dec2F w := by
  rw [decodeWord, h]
  rfl
theorem decodeWord_30 (w : W32) (h : fOp w = 0x30) : decodeWord w = dec30 w := by
  rw [decodeWord, h]
  rfl
theorem decodeWord_31 (w : W32) (h : fOp w = 0x31) : decodeWord w = dec31 w := by
  rw [decodeWord, h]
  rfl
theorem decodeWord_32 (w : W32) (h : fOp w = 0x32) : decodeWord w = dec32 w := by
  rw [decodeWord, h]
  rfl
theorem decodeWord_33 (w : W32) (h : fOp w = 0x33) : decodeWord w = dec33 w := by
  rw [decodeWord, h]
  rfl
theorem decodeWord_34 (w : W32) (h : fOp w = 0x34) : decodeWord w = dec34 w := by
  rw [decodeWord, h]
  rfl
theorem decodeWord_35 (w : W32) (h : fOp w = 0x35) : decodeWord w = dec35 w := by
  rw [decodeWord, h]
  rfl
theorem decodeWord_36 (w : W32) (h : fOp w = 0x36) : decodeWord w = dec36 w := by
  rw [decodeWord, h]
  rfl
theorem decodeWord_37 (w : W32) (h : fOp w = 0x37) : decodeWord w = dec37 w := by
  rw [decodeWord, h]
  rfl
theorem decodeWord_38 (w : W32) (h : fOp w = 0x38) : decodeWord w = dec38 w := by
  rw [decodeWord, h]
  rfl
theorem decodeWord_39 (w : W32) (h : fOp w = 0x39) : decodeWord w = dec39 w := by
  rw [decodeWord, h]
  rfl
theorem decodeWord_3A (w : W32) (h : fOp w = 0x3A) : decodeWord w = dec3A w := by
  rw [decodeWord, h]
  rfl
theorem decodeWord_3B (w : W32) (h : fOp w = 0x3B) : decodeWord w = dec3B w := by
  rw [decodeWord, h]
  rfl
theorem decodeWord_3C (w : W32) (h : fOp w = 0x3C) : decodeWord w = dec3C w := by
  rw [decodeWord, h]
  rfl
theorem decodeWord_3D (w : W32) (h : fOp w = 0x3D) : decodeWord w = dec3D w := by
  rw [decodeWord, h]
  rfl
theorem decodeWord_3E (w : W32) (h : fOp w = 0x3E) : decodeWord w = dec3E w := by
  rw [decodeWord, h]
  rfl
theorem decodeWord_40 (w : W32) (h : fOp w = 0x40) : decodeWord w = dec40 w := by
  rw [decodeWord, h]
  rfl
theorem decodeWord_41 (w : W32) (h : fOp w = 0x41) : decodeWord w = dec41 w := by
  rw [decodeWord, h]
  rfl
theorem decodeWord_42 (w : W32) (h : fOp w = 0x42) : decodeWord w = dec42 w := by
  rw [decodeWord, h]
  rfl
theorem decodeWord_43 (w : W32) (h : fOp w = 0x43) : decodeWord w = dec43 w := by
  rw [decodeWord, h]
  rfl
theorem decodeWord_44 (w : W32) (h : fOp w = 0x44) : decodeWord w = dec44 w := by
  rw [decodeWord, h]
  rfl
theorem decodeWord_45 (w : W32) (h : fOp w = 0x45) : decodeWord w = dec45 w := by
  rw [decodeWord, h]
  rfl
theorem decodeWord_46 (w : W32) (h : fOp w = 0x46) : decodeWord w = dec46 w := by
  rw [decodeWord, h]
  rfl
theorem decodeWord_47 (w : W32) (h : fOp w = 0x47) : decodeWord w = dec47 w := by
  rw [decodeWord, h]
  rfl
theorem decodeWord_48 (w : W32) (h : fOp w = 0x48) : decodeWord w = dec48 w := by
  rw [decodeWord, h]
  rfl
theorem decodeWord_49 (w : W32) (h : fOp w = 0x49) : decodeWord w = dec49 w := by
  rw [decodeWord, h]
  rfl
theorem decodeWord_4A (w : W32) (h : fOp w = 0x4A) : decodeWord w = dec4A w := by
  rw [decodeWord, h]
  rfl
theorem decodeWord_4B (w : W32) (h : fOp w = 0x4B) : decodeWord w = dec4B w := by
  rw [decodeWord, h]
  rfl
theorem decodeWord_4C (w : W32) (h : fOp w = 0x4C) : decodeWord w = dec4C w := by
  rw [decodeWord, h]
  rfl
theorem decodeWord_4D (w : W32) (h : fOp w = 0x4D) : decodeWord w = dec4D w := by
  rw [decodeWord, h]
  rfl
theorem decodeWord_4E (w : W32) (h : fOp w = 0x4E) : decodeWord w = dec4E w := by
  rw [decodeWord, h]
  rfl
theorem decodeWord_4F (w : W32) (h : fOp w = 0x4F) : decodeWord w = dec4F w := by
  rw [decodeWord, h]
  rfl
theorem decodeWord_50 (w : W32) (h : fOp w = 0x50) : decodeWord w = dec50 w := by
  rw [decodeWord, h]
  rfl
theorem decodeWord_51 (w : W32) (h : fOp w = 0x51) : decodeWord w = dec51 w := by
  rw [decodeWord, h]
  rfl
theorem decodeWord_54 (w : W32) (h : fOp w = 0x54) : decodeWord w = dec54 w := by
  rw [decodeWord, h]
  rfl
theorem decodeWord_55 (w : W32) (h : fOp w = 0x55) : decodeWord w = dec55 w := by
  rw [decodeWord, h]
  rfl
theorem decodeWord_56 (w : W32) (h : fOp w = 0x56) : decodeWord w = dec56 w := by
  rw [decodeWord, h]
  rfl
theorem decodeWord_57 (w : W32) (h : fOp w = 0x57) : decodeWord w = dec57 w := by
  rw [decodeWord, h]
  rfl
theorem decodeWord_58 (w : W32) (h : fOp w = 0x58) : decodeWord w = dec58 w := by
  rw [decodeWord, h]
  rfl
theorem decodeWord_59 (w : W32) (h : fOp w = 0x59) : decodeWord w = dec59 w := by
  rw [decodeWord, h]
  rfl
theorem decodeWord_5A (w : W32) (h : fOp w = 0x5A) : decodeWord w = dec5A w := by
  rw [decodeWord, h]
  rfl
theorem decodeWord_5B (w : W32) (h : fOp w = 0x5B) : decodeWord w = dec5B w := by
  rw [decodeWord, h]
  rfl
theorem decodeWord_5C (w : W32) (h : fOp w = 0x5C) : decodeWord w = dec5C w := by
  rw [decodeWord, h]
  rfl
theorem decodeWord_5D (w : W32) (h : fOp w = 0x5D) : decodeWord w = dec5D w := by
  rw [decodeWord, h]
  rfl
theorem decodeWord_5E (w : W32) (h : fOp w = 0x5E) : decodeWord w = dec5E w := by
  rw [decodeWord, h]
  rfl
theorem decodeWord_60 (w : W32) (h : fOp w = 0x60) : decodeWord w = dec60 w := by
  rw [decodeWord, h]
  rfl
theorem decodeWord_61 (w : W32) (h : fOp w = 0x61) : decodeWord w = dec61 w := by
  rw [decodeWord, h]
  rfl
theorem decodeWord_62 (w : W32) (h : fOp w = 0x62) : decodeWord w = dec62 w := by
  rw [decodeWord, h]
  rfl
theorem decodeWord_63 (w : W32) (h : fOp w = 0x63) : decodeWord w = dec63 w := by
  rw [decodeWord, h]
  rfl
theorem decodeWord_64 (w : W32) (h : fOp w = 0x64) : decodeWord w = dec64 w := by
  rw [decodeWord, h]
  rfl
theorem decodeWord_65 (w : W32) (h : fOp w = 0x65) : decodeWord w = dec65 w := by
  rw [decodeWord, h]
  rfl
theorem decodeWord_66 (w : W32) (h : fOp w = 0x66) : decodeWord w = dec66 w := by
  rw [decodeWord, h]
  rfl
theorem decodeWord_67 (w : W32) (h : fOp w = 0x67) : decodeWord w = dec67 w := by
  rw [decodeWord, h]
  rfl
theorem decodeWord_68 (w : W32) (h : fOp w = 0x68) : decodeWord w = dec68 w := by
  rw [decodeWord, h]
  rfl
theorem decodeWord_69 (w : W32) (h : fOp w = 0x69) : decodeWord w = dec69 w := by
  rw [decodeWord, h]
  rfl
theorem decodeWord_6A (w : W32) (h : fOp w = 0x6A) : decodeWord w = dec6A w := by
  rw [decodeWord, h]
  rfl
theorem decodeWord_6B (w : W32) (h : fOp w = 0x6B) : decodeWord w = dec6B w := by
  rw [decodeWord, h]
  rfl
theorem decodeWord_6C (w : W32) (h : fOp w = 0x6C) : decodeWord w = dec6C w := by
  rw [decodeWord, h]
  rfl
theorem decodeWord_6D (w : W32) (h : fOp w = 0x6D) : decodeWord w = dec6D w := by
  rw [decodeWord, h]
  rfl
theorem decodeWord_6E (w : W32) (h : fOp w = 0x6E) : decodeWord w = dec6E w := by
  rw [decodeWord, h]
  rfl
theorem decodeWord_6F (w : W32) (h : fOp w = 0x6F) : decodeWord w = dec6F w := by
  rw [decodeWord, h]
  rfl
theorem decodeWord_70 (w : W32) (h : fOp w = 0x70) : decodeWord w = dec70 w := by
  rw [decodeWord, h]
  rfl
theorem decodeWord_71 (w : W32) (h : fOp w = 0x71) : decodeWord w = dec71 w := by
  rw [decodeWord, h]
  rfl
theorem decodeWord_72 (w : W32) (h : fOp w = 0x72) : decodeWord w = dec72 w := by
  rw [decodeWord, h]
  rfl
theorem decodeWord_73 (w : W32) (h : fOp w = 0x73) : decodeWord w = dec73 w := by
  rw [decodeWord, h]
  rfl
theorem decodeWord_74 (w : W32) (h : fOp w = 0x74) : decodeWord w = dec74 w := by
  rw [decodeWord, h]
  rfl
theorem decodeWord_75 (w : W32) (h : fOp w = 0x75) : decodeWord w = dec75 w := by
  rw [decodeWord, h]
  rfl
theorem decodeWord_76 (w : W32) (h : fOp w = 0x76) : decodeWord w = dec76 w := by
  rw [decodeWord, h]
  rfl
theorem decodeWord_77 (w : W32) (h : fOp w = 0x77) : decodeWord w = dec77 w := by
  rw [decodeWord, h]
  rfl
theorem decodeWord_78 (w : W32) (h : fOp w = 0x78) : decodeWord w = dec78 w := by
  rw [decodeWord, h]
  rfl
theorem decodeWord_79 (w : W32) (h : fOp w = 0x79) : decodeWord w = dec79 w := by
  rw [decodeWord, h]
  rfl
theorem decodeWord_7A (w : W32) (h : fOp w = 0x7A) : decodeWord w = dec7A w := by
  rw [decodeWord, h]
  rfl
theorem decodeWord_7B (w : W32) (h : fOp w = 0x7B) : decodeWord w = dec7B w := by
  rw [decodeWord, h]
  rfl
theorem decodeWord_7C (w : W32) (h : fOp w = 0x7C) : decodeWord w = dec7C w := by
  rw [decodeWord, h]
  rfl
theorem decodeWord_7D (w : W32) (h : fOp w = 0x7D) : decodeWord w = dec7D w := by
  rw [decodeWord, h]
  rfl

namespace Laws.RoundTrip

/-- The word of a well-formed instruction decodes to it; an event has no word. -/
def Statement (i : Instr) : Prop := i.wf = true → encode i ≠ 0 → decodeWord (encode i) = .ok i

theorem add (d : Reg) (a : Reg) (b : Reg) : Statement (.add d a b) := by
  intro _ _
  refine (decodeWord_01 _ (fOp_encRr _ _ _ _ _ (by decide) (by decide))).trans ?_
  unfold dec01
  rw [fF_encRr _ _ _ _ _ (by decide) (by decide), fD_encRr _ _ _ _ _ (by decide) (by decide), fA_encRr _ _ _ _ _ (by decide) (by decide), fB_encRr _ _ _ _ _ (by decide) (by decide)]
  rfl
theorem sub (d : Reg) (a : Reg) (b : Reg) : Statement (.sub d a b) := by
  intro _ _
  refine (decodeWord_01 _ (fOp_encRr _ _ _ _ _ (by decide) (by decide))).trans ?_
  unfold dec01
  rw [fF_encRr _ _ _ _ _ (by decide) (by decide), fD_encRr _ _ _ _ _ (by decide) (by decide), fA_encRr _ _ _ _ _ (by decide) (by decide), fB_encRr _ _ _ _ _ (by decide) (by decide)]
  rfl
theorem and (d : Reg) (a : Reg) (b : Reg) : Statement (.and d a b) := by
  intro _ _
  refine (decodeWord_01 _ (fOp_encRr _ _ _ _ _ (by decide) (by decide))).trans ?_
  unfold dec01
  rw [fF_encRr _ _ _ _ _ (by decide) (by decide), fD_encRr _ _ _ _ _ (by decide) (by decide), fA_encRr _ _ _ _ _ (by decide) (by decide), fB_encRr _ _ _ _ _ (by decide) (by decide)]
  rfl
theorem or (d : Reg) (a : Reg) (b : Reg) : Statement (.or d a b) := by
  intro _ _
  refine (decodeWord_01 _ (fOp_encRr _ _ _ _ _ (by decide) (by decide))).trans ?_
  unfold dec01
  rw [fF_encRr _ _ _ _ _ (by decide) (by decide), fD_encRr _ _ _ _ _ (by decide) (by decide), fA_encRr _ _ _ _ _ (by decide) (by decide), fB_encRr _ _ _ _ _ (by decide) (by decide)]
  rfl
theorem xor (d : Reg) (a : Reg) (b : Reg) : Statement (.xor d a b) := by
  intro _ _
  refine (decodeWord_01 _ (fOp_encRr _ _ _ _ _ (by decide) (by decide))).trans ?_
  unfold dec01
  rw [fF_encRr _ _ _ _ _ (by decide) (by decide), fD_encRr _ _ _ _ _ (by decide) (by decide), fA_encRr _ _ _ _ _ (by decide) (by decide), fB_encRr _ _ _ _ _ (by decide) (by decide)]
  rfl
theorem andn (d : Reg) (a : Reg) (b : Reg) : Statement (.andn d a b) := by
  intro _ _
  refine (decodeWord_01 _ (fOp_encRr _ _ _ _ _ (by decide) (by decide))).trans ?_
  unfold dec01
  rw [fF_encRr _ _ _ _ _ (by decide) (by decide), fD_encRr _ _ _ _ _ (by decide) (by decide), fA_encRr _ _ _ _ _ (by decide) (by decide), fB_encRr _ _ _ _ _ (by decide) (by decide)]
  rfl
theorem sll (d : Reg) (a : Reg) (b : Reg) : Statement (.sll d a b) := by
  intro _ _
  refine (decodeWord_01 _ (fOp_encRr _ _ _ _ _ (by decide) (by decide))).trans ?_
  unfold dec01
  rw [fF_encRr _ _ _ _ _ (by decide) (by decide), fD_encRr _ _ _ _ _ (by decide) (by decide), fA_encRr _ _ _ _ _ (by decide) (by decide), fB_encRr _ _ _ _ _ (by decide) (by decide)]
  rfl
theorem srl (d : Reg) (a : Reg) (b : Reg) : Statement (.srl d a b) := by
  intro _ _
  refine (decodeWord_01 _ (fOp_encRr _ _ _ _ _ (by decide) (by decide))).trans ?_
  unfold dec01
  rw [fF_encRr _ _ _ _ _ (by decide) (by decide), fD_encRr _ _ _ _ _ (by decide) (by decide), fA_encRr _ _ _ _ _ (by decide) (by decide), fB_encRr _ _ _ _ _ (by decide) (by decide)]
  rfl
theorem sra (d : Reg) (a : Reg) (b : Reg) : Statement (.sra d a b) := by
  intro _ _
  refine (decodeWord_01 _ (fOp_encRr _ _ _ _ _ (by decide) (by decide))).trans ?_
  unfold dec01
  rw [fF_encRr _ _ _ _ _ (by decide) (by decide), fD_encRr _ _ _ _ _ (by decide) (by decide), fA_encRr _ _ _ _ _ (by decide) (by decide), fB_encRr _ _ _ _ _ (by decide) (by decide)]
  rfl
theorem min (d : Reg) (a : Reg) (b : Reg) : Statement (.min d a b) := by
  intro _ _
  refine (decodeWord_01 _ (fOp_encRr _ _ _ _ _ (by decide) (by decide))).trans ?_
  unfold dec01
  rw [fF_encRr _ _ _ _ _ (by decide) (by decide), fD_encRr _ _ _ _ _ (by decide) (by decide), fA_encRr _ _ _ _ _ (by decide) (by decide), fB_encRr _ _ _ _ _ (by decide) (by decide)]
  rfl
theorem max (d : Reg) (a : Reg) (b : Reg) : Statement (.max d a b) := by
  intro _ _
  refine (decodeWord_01 _ (fOp_encRr _ _ _ _ _ (by decide) (by decide))).trans ?_
  unfold dec01
  rw [fF_encRr _ _ _ _ _ (by decide) (by decide), fD_encRr _ _ _ _ _ (by decide) (by decide), fA_encRr _ _ _ _ _ (by decide) (by decide), fB_encRr _ _ _ _ _ (by decide) (by decide)]
  rfl
theorem minu (d : Reg) (a : Reg) (b : Reg) : Statement (.minu d a b) := by
  intro _ _
  refine (decodeWord_01 _ (fOp_encRr _ _ _ _ _ (by decide) (by decide))).trans ?_
  unfold dec01
  rw [fF_encRr _ _ _ _ _ (by decide) (by decide), fD_encRr _ _ _ _ _ (by decide) (by decide), fA_encRr _ _ _ _ _ (by decide) (by decide), fB_encRr _ _ _ _ _ (by decide) (by decide)]
  rfl
theorem maxu (d : Reg) (a : Reg) (b : Reg) : Statement (.maxu d a b) := by
  intro _ _
  refine (decodeWord_01 _ (fOp_encRr _ _ _ _ _ (by decide) (by decide))).trans ?_
  unfold dec01
  rw [fF_encRr _ _ _ _ _ (by decide) (by decide), fD_encRr _ _ _ _ _ (by decide) (by decide), fA_encRr _ _ _ _ _ (by decide) (by decide), fB_encRr _ _ _ _ _ (by decide) (by decide)]
  rfl
theorem slt (d : Reg) (a : Reg) (b : Reg) : Statement (.slt d a b) := by
  intro _ _
  refine (decodeWord_01 _ (fOp_encRr _ _ _ _ _ (by decide) (by decide))).trans ?_
  unfold dec01
  rw [fF_encRr _ _ _ _ _ (by decide) (by decide), fD_encRr _ _ _ _ _ (by decide) (by decide), fA_encRr _ _ _ _ _ (by decide) (by decide), fB_encRr _ _ _ _ _ (by decide) (by decide)]
  rfl
theorem sltu (d : Reg) (a : Reg) (b : Reg) : Statement (.sltu d a b) := by
  intro _ _
  refine (decodeWord_01 _ (fOp_encRr _ _ _ _ _ (by decide) (by decide))).trans ?_
  unfold dec01
  rw [fF_encRr _ _ _ _ _ (by decide) (by decide), fD_encRr _ _ _ _ _ (by decide) (by decide), fA_encRr _ _ _ _ _ (by decide) (by decide), fB_encRr _ _ _ _ _ (by decide) (by decide)]
  rfl
theorem seq (d : Reg) (a : Reg) (b : Reg) : Statement (.seq d a b) := by
  intro _ _
  refine (decodeWord_01 _ (fOp_encRr _ _ _ _ _ (by decide) (by decide))).trans ?_
  unfold dec01
  rw [fF_encRr _ _ _ _ _ (by decide) (by decide), fD_encRr _ _ _ _ _ (by decide) (by decide), fA_encRr _ _ _ _ _ (by decide) (by decide), fB_encRr _ _ _ _ _ (by decide) (by decide)]
  rfl
theorem addW (d : Reg) (a : Reg) (b : Reg) : Statement (.addW d a b) := by
  intro _ _
  refine (decodeWord_02 _ (fOp_encRr _ _ _ _ _ (by decide) (by decide))).trans ?_
  unfold dec02
  rw [fF_encRr _ _ _ _ _ (by decide) (by decide), fD_encRr _ _ _ _ _ (by decide) (by decide), fA_encRr _ _ _ _ _ (by decide) (by decide), fB_encRr _ _ _ _ _ (by decide) (by decide)]
  rfl
theorem subW (d : Reg) (a : Reg) (b : Reg) : Statement (.subW d a b) := by
  intro _ _
  refine (decodeWord_02 _ (fOp_encRr _ _ _ _ _ (by decide) (by decide))).trans ?_
  unfold dec02
  rw [fF_encRr _ _ _ _ _ (by decide) (by decide), fD_encRr _ _ _ _ _ (by decide) (by decide), fA_encRr _ _ _ _ _ (by decide) (by decide), fB_encRr _ _ _ _ _ (by decide) (by decide)]
  rfl
theorem andW (d : Reg) (a : Reg) (b : Reg) : Statement (.andW d a b) := by
  intro _ _
  refine (decodeWord_02 _ (fOp_encRr _ _ _ _ _ (by decide) (by decide))).trans ?_
  unfold dec02
  rw [fF_encRr _ _ _ _ _ (by decide) (by decide), fD_encRr _ _ _ _ _ (by decide) (by decide), fA_encRr _ _ _ _ _ (by decide) (by decide), fB_encRr _ _ _ _ _ (by decide) (by decide)]
  rfl
theorem orW (d : Reg) (a : Reg) (b : Reg) : Statement (.orW d a b) := by
  intro _ _
  refine (decodeWord_02 _ (fOp_encRr _ _ _ _ _ (by decide) (by decide))).trans ?_
  unfold dec02
  rw [fF_encRr _ _ _ _ _ (by decide) (by decide), fD_encRr _ _ _ _ _ (by decide) (by decide), fA_encRr _ _ _ _ _ (by decide) (by decide), fB_encRr _ _ _ _ _ (by decide) (by decide)]
  rfl
theorem xorW (d : Reg) (a : Reg) (b : Reg) : Statement (.xorW d a b) := by
  intro _ _
  refine (decodeWord_02 _ (fOp_encRr _ _ _ _ _ (by decide) (by decide))).trans ?_
  unfold dec02
  rw [fF_encRr _ _ _ _ _ (by decide) (by decide), fD_encRr _ _ _ _ _ (by decide) (by decide), fA_encRr _ _ _ _ _ (by decide) (by decide), fB_encRr _ _ _ _ _ (by decide) (by decide)]
  rfl
theorem andnW (d : Reg) (a : Reg) (b : Reg) : Statement (.andnW d a b) := by
  intro _ _
  refine (decodeWord_02 _ (fOp_encRr _ _ _ _ _ (by decide) (by decide))).trans ?_
  unfold dec02
  rw [fF_encRr _ _ _ _ _ (by decide) (by decide), fD_encRr _ _ _ _ _ (by decide) (by decide), fA_encRr _ _ _ _ _ (by decide) (by decide), fB_encRr _ _ _ _ _ (by decide) (by decide)]
  rfl
theorem sllW (d : Reg) (a : Reg) (b : Reg) : Statement (.sllW d a b) := by
  intro _ _
  refine (decodeWord_02 _ (fOp_encRr _ _ _ _ _ (by decide) (by decide))).trans ?_
  unfold dec02
  rw [fF_encRr _ _ _ _ _ (by decide) (by decide), fD_encRr _ _ _ _ _ (by decide) (by decide), fA_encRr _ _ _ _ _ (by decide) (by decide), fB_encRr _ _ _ _ _ (by decide) (by decide)]
  rfl
theorem srlW (d : Reg) (a : Reg) (b : Reg) : Statement (.srlW d a b) := by
  intro _ _
  refine (decodeWord_02 _ (fOp_encRr _ _ _ _ _ (by decide) (by decide))).trans ?_
  unfold dec02
  rw [fF_encRr _ _ _ _ _ (by decide) (by decide), fD_encRr _ _ _ _ _ (by decide) (by decide), fA_encRr _ _ _ _ _ (by decide) (by decide), fB_encRr _ _ _ _ _ (by decide) (by decide)]
  rfl
theorem sraW (d : Reg) (a : Reg) (b : Reg) : Statement (.sraW d a b) := by
  intro _ _
  refine (decodeWord_02 _ (fOp_encRr _ _ _ _ _ (by decide) (by decide))).trans ?_
  unfold dec02
  rw [fF_encRr _ _ _ _ _ (by decide) (by decide), fD_encRr _ _ _ _ _ (by decide) (by decide), fA_encRr _ _ _ _ _ (by decide) (by decide), fB_encRr _ _ _ _ _ (by decide) (by decide)]
  rfl
theorem minW (d : Reg) (a : Reg) (b : Reg) : Statement (.minW d a b) := by
  intro _ _
  refine (decodeWord_02 _ (fOp_encRr _ _ _ _ _ (by decide) (by decide))).trans ?_
  unfold dec02
  rw [fF_encRr _ _ _ _ _ (by decide) (by decide), fD_encRr _ _ _ _ _ (by decide) (by decide), fA_encRr _ _ _ _ _ (by decide) (by decide), fB_encRr _ _ _ _ _ (by decide) (by decide)]
  rfl
theorem maxW (d : Reg) (a : Reg) (b : Reg) : Statement (.maxW d a b) := by
  intro _ _
  refine (decodeWord_02 _ (fOp_encRr _ _ _ _ _ (by decide) (by decide))).trans ?_
  unfold dec02
  rw [fF_encRr _ _ _ _ _ (by decide) (by decide), fD_encRr _ _ _ _ _ (by decide) (by decide), fA_encRr _ _ _ _ _ (by decide) (by decide), fB_encRr _ _ _ _ _ (by decide) (by decide)]
  rfl
theorem minuW (d : Reg) (a : Reg) (b : Reg) : Statement (.minuW d a b) := by
  intro _ _
  refine (decodeWord_02 _ (fOp_encRr _ _ _ _ _ (by decide) (by decide))).trans ?_
  unfold dec02
  rw [fF_encRr _ _ _ _ _ (by decide) (by decide), fD_encRr _ _ _ _ _ (by decide) (by decide), fA_encRr _ _ _ _ _ (by decide) (by decide), fB_encRr _ _ _ _ _ (by decide) (by decide)]
  rfl
theorem maxuW (d : Reg) (a : Reg) (b : Reg) : Statement (.maxuW d a b) := by
  intro _ _
  refine (decodeWord_02 _ (fOp_encRr _ _ _ _ _ (by decide) (by decide))).trans ?_
  unfold dec02
  rw [fF_encRr _ _ _ _ _ (by decide) (by decide), fD_encRr _ _ _ _ _ (by decide) (by decide), fA_encRr _ _ _ _ _ (by decide) (by decide), fB_encRr _ _ _ _ _ (by decide) (by decide)]
  rfl
theorem sltW (d : Reg) (a : Reg) (b : Reg) : Statement (.sltW d a b) := by
  intro _ _
  refine (decodeWord_02 _ (fOp_encRr _ _ _ _ _ (by decide) (by decide))).trans ?_
  unfold dec02
  rw [fF_encRr _ _ _ _ _ (by decide) (by decide), fD_encRr _ _ _ _ _ (by decide) (by decide), fA_encRr _ _ _ _ _ (by decide) (by decide), fB_encRr _ _ _ _ _ (by decide) (by decide)]
  rfl
theorem sltuW (d : Reg) (a : Reg) (b : Reg) : Statement (.sltuW d a b) := by
  intro _ _
  refine (decodeWord_02 _ (fOp_encRr _ _ _ _ _ (by decide) (by decide))).trans ?_
  unfold dec02
  rw [fF_encRr _ _ _ _ _ (by decide) (by decide), fD_encRr _ _ _ _ _ (by decide) (by decide), fA_encRr _ _ _ _ _ (by decide) (by decide), fB_encRr _ _ _ _ _ (by decide) (by decide)]
  rfl
theorem seqW (d : Reg) (a : Reg) (b : Reg) : Statement (.seqW d a b) := by
  intro _ _
  refine (decodeWord_02 _ (fOp_encRr _ _ _ _ _ (by decide) (by decide))).trans ?_
  unfold dec02
  rw [fF_encRr _ _ _ _ _ (by decide) (by decide), fD_encRr _ _ _ _ _ (by decide) (by decide), fA_encRr _ _ _ _ _ (by decide) (by decide), fB_encRr _ _ _ _ _ (by decide) (by decide)]
  rfl
theorem mul (d : Reg) (a : Reg) (b : Reg) : Statement (.mul d a b) := by
  intro _ _
  refine (decodeWord_03 _ (fOp_encRr _ _ _ _ _ (by decide) (by decide))).trans ?_
  unfold dec03
  rw [fF_encRr _ _ _ _ _ (by decide) (by decide), fD_encRr _ _ _ _ _ (by decide) (by decide), fA_encRr _ _ _ _ _ (by decide) (by decide), fB_encRr _ _ _ _ _ (by decide) (by decide)]
  rfl
theorem mulh (d : Reg) (a : Reg) (b : Reg) : Statement (.mulh d a b) := by
  intro _ _
  refine (decodeWord_03 _ (fOp_encRr _ _ _ _ _ (by decide) (by decide))).trans ?_
  unfold dec03
  rw [fF_encRr _ _ _ _ _ (by decide) (by decide), fD_encRr _ _ _ _ _ (by decide) (by decide), fA_encRr _ _ _ _ _ (by decide) (by decide), fB_encRr _ _ _ _ _ (by decide) (by decide)]
  rfl
theorem mulhu (d : Reg) (a : Reg) (b : Reg) : Statement (.mulhu d a b) := by
  intro _ _
  refine (decodeWord_03 _ (fOp_encRr _ _ _ _ _ (by decide) (by decide))).trans ?_
  unfold dec03
  rw [fF_encRr _ _ _ _ _ (by decide) (by decide), fD_encRr _ _ _ _ _ (by decide) (by decide), fA_encRr _ _ _ _ _ (by decide) (by decide), fB_encRr _ _ _ _ _ (by decide) (by decide)]
  rfl
theorem mulhm (d : Reg) (a : Reg) (b : Reg) : Statement (.mulhm d a b) := by
  intro _ _
  refine (decodeWord_03 _ (fOp_encRr _ _ _ _ _ (by decide) (by decide))).trans ?_
  unfold dec03
  rw [fF_encRr _ _ _ _ _ (by decide) (by decide), fD_encRr _ _ _ _ _ (by decide) (by decide), fA_encRr _ _ _ _ _ (by decide) (by decide), fB_encRr _ _ _ _ _ (by decide) (by decide)]
  rfl
theorem div (d : Reg) (a : Reg) (b : Reg) : Statement (.div d a b) := by
  intro _ _
  refine (decodeWord_03 _ (fOp_encRr _ _ _ _ _ (by decide) (by decide))).trans ?_
  unfold dec03
  rw [fF_encRr _ _ _ _ _ (by decide) (by decide), fD_encRr _ _ _ _ _ (by decide) (by decide), fA_encRr _ _ _ _ _ (by decide) (by decide), fB_encRr _ _ _ _ _ (by decide) (by decide)]
  rfl
theorem divu (d : Reg) (a : Reg) (b : Reg) : Statement (.divu d a b) := by
  intro _ _
  refine (decodeWord_03 _ (fOp_encRr _ _ _ _ _ (by decide) (by decide))).trans ?_
  unfold dec03
  rw [fF_encRr _ _ _ _ _ (by decide) (by decide), fD_encRr _ _ _ _ _ (by decide) (by decide), fA_encRr _ _ _ _ _ (by decide) (by decide), fB_encRr _ _ _ _ _ (by decide) (by decide)]
  rfl
theorem rem (d : Reg) (a : Reg) (b : Reg) : Statement (.rem d a b) := by
  intro _ _
  refine (decodeWord_03 _ (fOp_encRr _ _ _ _ _ (by decide) (by decide))).trans ?_
  unfold dec03
  rw [fF_encRr _ _ _ _ _ (by decide) (by decide), fD_encRr _ _ _ _ _ (by decide) (by decide), fA_encRr _ _ _ _ _ (by decide) (by decide), fB_encRr _ _ _ _ _ (by decide) (by decide)]
  rfl
theorem remu (d : Reg) (a : Reg) (b : Reg) : Statement (.remu d a b) := by
  intro _ _
  refine (decodeWord_03 _ (fOp_encRr _ _ _ _ _ (by decide) (by decide))).trans ?_
  unfold dec03
  rw [fF_encRr _ _ _ _ _ (by decide) (by decide), fD_encRr _ _ _ _ _ (by decide) (by decide), fA_encRr _ _ _ _ _ (by decide) (by decide), fB_encRr _ _ _ _ _ (by decide) (by decide)]
  rfl
theorem mulW (d : Reg) (a : Reg) (b : Reg) : Statement (.mulW d a b) := by
  intro _ _
  refine (decodeWord_03 _ (fOp_encRr _ _ _ _ _ (by decide) (by decide))).trans ?_
  unfold dec03
  rw [fF_encRr _ _ _ _ _ (by decide) (by decide), fD_encRr _ _ _ _ _ (by decide) (by decide), fA_encRr _ _ _ _ _ (by decide) (by decide), fB_encRr _ _ _ _ _ (by decide) (by decide)]
  rfl
theorem divW (d : Reg) (a : Reg) (b : Reg) : Statement (.divW d a b) := by
  intro _ _
  refine (decodeWord_03 _ (fOp_encRr _ _ _ _ _ (by decide) (by decide))).trans ?_
  unfold dec03
  rw [fF_encRr _ _ _ _ _ (by decide) (by decide), fD_encRr _ _ _ _ _ (by decide) (by decide), fA_encRr _ _ _ _ _ (by decide) (by decide), fB_encRr _ _ _ _ _ (by decide) (by decide)]
  rfl
theorem divuW (d : Reg) (a : Reg) (b : Reg) : Statement (.divuW d a b) := by
  intro _ _
  refine (decodeWord_03 _ (fOp_encRr _ _ _ _ _ (by decide) (by decide))).trans ?_
  unfold dec03
  rw [fF_encRr _ _ _ _ _ (by decide) (by decide), fD_encRr _ _ _ _ _ (by decide) (by decide), fA_encRr _ _ _ _ _ (by decide) (by decide), fB_encRr _ _ _ _ _ (by decide) (by decide)]
  rfl
theorem remW (d : Reg) (a : Reg) (b : Reg) : Statement (.remW d a b) := by
  intro _ _
  refine (decodeWord_03 _ (fOp_encRr _ _ _ _ _ (by decide) (by decide))).trans ?_
  unfold dec03
  rw [fF_encRr _ _ _ _ _ (by decide) (by decide), fD_encRr _ _ _ _ _ (by decide) (by decide), fA_encRr _ _ _ _ _ (by decide) (by decide), fB_encRr _ _ _ _ _ (by decide) (by decide)]
  rfl
theorem remuW (d : Reg) (a : Reg) (b : Reg) : Statement (.remuW d a b) := by
  intro _ _
  refine (decodeWord_03 _ (fOp_encRr _ _ _ _ _ (by decide) (by decide))).trans ?_
  unfold dec03
  rw [fF_encRr _ _ _ _ _ (by decide) (by decide), fD_encRr _ _ _ _ _ (by decide) (by decide), fA_encRr _ _ _ _ _ (by decide) (by decide), fB_encRr _ _ _ _ _ (by decide) (by decide)]
  rfl
theorem clz (d : Reg) (a : Reg) : Statement (.clz d a) := by
  intro _ _
  refine (decodeWord_04 _ (fOp_encRr _ _ _ _ _ (by decide) (by decide))).trans ?_
  unfold dec04
  rw [fF_encRr _ _ _ _ _ (by decide) (by decide), fD_encRr _ _ _ _ _ (by decide) (by decide), fA_encRr _ _ _ _ _ (by decide) (by decide), fB_encRr _ _ _ _ _ (by decide) (by decide)]
  rfl
theorem ctz (d : Reg) (a : Reg) : Statement (.ctz d a) := by
  intro _ _
  refine (decodeWord_04 _ (fOp_encRr _ _ _ _ _ (by decide) (by decide))).trans ?_
  unfold dec04
  rw [fF_encRr _ _ _ _ _ (by decide) (by decide), fD_encRr _ _ _ _ _ (by decide) (by decide), fA_encRr _ _ _ _ _ (by decide) (by decide), fB_encRr _ _ _ _ _ (by decide) (by decide)]
  rfl
theorem popc (d : Reg) (a : Reg) : Statement (.popc d a) := by
  intro _ _
  refine (decodeWord_04 _ (fOp_encRr _ _ _ _ _ (by decide) (by decide))).trans ?_
  unfold dec04
  rw [fF_encRr _ _ _ _ _ (by decide) (by decide), fD_encRr _ _ _ _ _ (by decide) (by decide), fA_encRr _ _ _ _ _ (by decide) (by decide), fB_encRr _ _ _ _ _ (by decide) (by decide)]
  rfl
theorem bswap (d : Reg) (a : Reg) : Statement (.bswap d a) := by
  intro _ _
  refine (decodeWord_04 _ (fOp_encRr _ _ _ _ _ (by decide) (by decide))).trans ?_
  unfold dec04
  rw [fF_encRr _ _ _ _ _ (by decide) (by decide), fD_encRr _ _ _ _ _ (by decide) (by decide), fA_encRr _ _ _ _ _ (by decide) (by decide), fB_encRr _ _ _ _ _ (by decide) (by decide)]
  rfl
theorem brev (d : Reg) (a : Reg) : Statement (.brev d a) := by
  intro _ _
  refine (decodeWord_04 _ (fOp_encRr _ _ _ _ _ (by decide) (by decide))).trans ?_
  unfold dec04
  rw [fF_encRr _ _ _ _ _ (by decide) (by decide), fD_encRr _ _ _ _ _ (by decide) (by decide), fA_encRr _ _ _ _ _ (by decide) (by decide), fB_encRr _ _ _ _ _ (by decide) (by decide)]
  rfl
theorem sextb (d : Reg) (a : Reg) : Statement (.sextb d a) := by
  intro _ _
  refine (decodeWord_04 _ (fOp_encRr _ _ _ _ _ (by decide) (by decide))).trans ?_
  unfold dec04
  rw [fF_encRr _ _ _ _ _ (by decide) (by decide), fD_encRr _ _ _ _ _ (by decide) (by decide), fA_encRr _ _ _ _ _ (by decide) (by decide), fB_encRr _ _ _ _ _ (by decide) (by decide)]
  rfl
theorem sexth (d : Reg) (a : Reg) : Statement (.sexth d a) := by
  intro _ _
  refine (decodeWord_04 _ (fOp_encRr _ _ _ _ _ (by decide) (by decide))).trans ?_
  unfold dec04
  rw [fF_encRr _ _ _ _ _ (by decide) (by decide), fD_encRr _ _ _ _ _ (by decide) (by decide), fA_encRr _ _ _ _ _ (by decide) (by decide), fB_encRr _ _ _ _ _ (by decide) (by decide)]
  rfl
theorem sextw (d : Reg) (a : Reg) : Statement (.sextw d a) := by
  intro _ _
  refine (decodeWord_04 _ (fOp_encRr _ _ _ _ _ (by decide) (by decide))).trans ?_
  unfold dec04
  rw [fF_encRr _ _ _ _ _ (by decide) (by decide), fD_encRr _ _ _ _ _ (by decide) (by decide), fA_encRr _ _ _ _ _ (by decide) (by decide), fB_encRr _ _ _ _ _ (by decide) (by decide)]
  rfl
theorem zextb (d : Reg) (a : Reg) : Statement (.zextb d a) := by
  intro _ _
  refine (decodeWord_04 _ (fOp_encRr _ _ _ _ _ (by decide) (by decide))).trans ?_
  unfold dec04
  rw [fF_encRr _ _ _ _ _ (by decide) (by decide), fD_encRr _ _ _ _ _ (by decide) (by decide), fA_encRr _ _ _ _ _ (by decide) (by decide), fB_encRr _ _ _ _ _ (by decide) (by decide)]
  rfl
theorem zexth (d : Reg) (a : Reg) : Statement (.zexth d a) := by
  intro _ _
  refine (decodeWord_04 _ (fOp_encRr _ _ _ _ _ (by decide) (by decide))).trans ?_
  unfold dec04
  rw [fF_encRr _ _ _ _ _ (by decide) (by decide), fD_encRr _ _ _ _ _ (by decide) (by decide), fA_encRr _ _ _ _ _ (by decide) (by decide), fB_encRr _ _ _ _ _ (by decide) (by decide)]
  rfl
theorem zextw (d : Reg) (a : Reg) : Statement (.zextw d a) := by
  intro _ _
  refine (decodeWord_04 _ (fOp_encRr _ _ _ _ _ (by decide) (by decide))).trans ?_
  unfold dec04
  rw [fF_encRr _ _ _ _ _ (by decide) (by decide), fD_encRr _ _ _ _ _ (by decide) (by decide), fA_encRr _ _ _ _ _ (by decide) (by decide), fB_encRr _ _ _ _ _ (by decide) (by decide)]
  rfl
theorem csel (d : Reg) (a : Reg) (b : Reg) : Statement (.csel d a b) := by
  intro _ _
  refine (decodeWord_05 _ (fOp_encRr _ _ _ _ _ (by decide) (by decide))).trans ?_
  unfold dec05
  rw [fF_encRr _ _ _ _ _ (by decide) (by decide), fD_encRr _ _ _ _ _ (by decide) (by decide), fA_encRr _ _ _ _ _ (by decide) (by decide), fB_encRr _ _ _ _ _ (by decide) (by decide)]
  rfl
theorem mand3 (d : Reg) (a : Reg) (b : Reg) : Statement (.mand3 d a b) := by
  intro h _
  simp only [Instr.wf, tripleOk, pairOk, Bool.and_eq_true, decide_eq_true_eq] at h
  (refine (decodeWord_06 _ (fOp_encRr _ _ _ _ _ (by decide) (by decide))).trans ?_; simp [h, dec06, zero, triple, casPair, scopeOf, Scope.code, PfLevel.code, fF_encRr, fD_encRr, fA_encRr, fB_encRr])
theorem mor3 (d : Reg) (a : Reg) (b : Reg) : Statement (.mor3 d a b) := by
  intro h _
  simp only [Instr.wf, tripleOk, pairOk, Bool.and_eq_true, decide_eq_true_eq] at h
  (refine (decodeWord_06 _ (fOp_encRr _ _ _ _ _ (by decide) (by decide))).trans ?_; simp [h, dec06, zero, triple, casPair, scopeOf, Scope.code, PfLevel.code, fF_encRr, fD_encRr, fA_encRr, fB_encRr])
theorem mandn3 (d : Reg) (a : Reg) (b : Reg) : Statement (.mandn3 d a b) := by
  intro h _
  simp only [Instr.wf, tripleOk, pairOk, Bool.and_eq_true, decide_eq_true_eq] at h
  (refine (decodeWord_06 _ (fOp_encRr _ _ _ _ _ (by decide) (by decide))).trans ?_; simp [h, dec06, zero, triple, casPair, scopeOf, Scope.code, PfLevel.code, fF_encRr, fD_encRr, fA_encRr, fB_encRr])
theorem mxor3 (d : Reg) (a : Reg) (b : Reg) : Statement (.mxor3 d a b) := by
  intro h _
  simp only [Instr.wf, tripleOk, pairOk, Bool.and_eq_true, decide_eq_true_eq] at h
  (refine (decodeWord_06 _ (fOp_encRr _ _ _ _ _ (by decide) (by decide))).trans ?_; simp [h, dec06, zero, triple, casPair, scopeOf, Scope.code, PfLevel.code, fF_encRr, fD_encRr, fA_encRr, fB_encRr])
theorem mnot3 (d : Reg) (a : Reg) : Statement (.mnot3 d a) := by
  intro h _
  simp only [Instr.wf, tripleOk, pairOk, Bool.and_eq_true, decide_eq_true_eq] at h
  (refine (decodeWord_06 _ (fOp_encRr _ _ _ _ _ (by decide) (by decide))).trans ?_; simp [h, dec06, zero, triple, casPair, scopeOf, Scope.code, PfLevel.code, fF_encRr, fD_encRr, fA_encRr, fB_encRr])
theorem mcnt3 (d : Reg) (a : Reg) : Statement (.mcnt3 d a) := by
  intro h _
  simp only [Instr.wf, tripleOk, pairOk, Bool.and_eq_true, decide_eq_true_eq] at h
  (refine (decodeWord_06 _ (fOp_encRr _ _ _ _ _ (by decide) (by decide))).trans ?_; simp [h, dec06, zero, triple, casPair, scopeOf, Scope.code, PfLevel.code, fF_encRr, fD_encRr, fA_encRr, fB_encRr])
theorem mfirst3 (d : Reg) (a : Reg) : Statement (.mfirst3 d a) := by
  intro h _
  simp only [Instr.wf, tripleOk, pairOk, Bool.and_eq_true, decide_eq_true_eq] at h
  (refine (decodeWord_06 _ (fOp_encRr _ _ _ _ _ (by decide) (by decide))).trans ?_; simp [h, dec06, zero, triple, casPair, scopeOf, Scope.code, PfLevel.code, fF_encRr, fD_encRr, fA_encRr, fB_encRr])
theorem addi (d : Reg) (a : Reg) (i : BitVec 11) : Statement (.addi d a i) := by
  intro _ _
  refine (decodeWord_10 _ (fOp_encRi _ _ _ _ (by decide))).trans ?_
  unfold dec10
  rw [fD_encRi _ _ _ _ (by decide), fA_encRi _ _ _ _ (by decide), fI_encRi _ _ _ _ (by decide)]
theorem andi (d : Reg) (a : Reg) (i : BitVec 11) : Statement (.andi d a i) := by
  intro _ _
  refine (decodeWord_11 _ (fOp_encRi _ _ _ _ (by decide))).trans ?_
  unfold dec11
  rw [fD_encRi _ _ _ _ (by decide), fA_encRi _ _ _ _ (by decide), fI_encRi _ _ _ _ (by decide)]
theorem ori (d : Reg) (a : Reg) (i : BitVec 11) : Statement (.ori d a i) := by
  intro _ _
  refine (decodeWord_12 _ (fOp_encRi _ _ _ _ (by decide))).trans ?_
  unfold dec12
  rw [fD_encRi _ _ _ _ (by decide), fA_encRi _ _ _ _ (by decide), fI_encRi _ _ _ _ (by decide)]
theorem xori (d : Reg) (a : Reg) (i : BitVec 11) : Statement (.xori d a i) := by
  intro _ _
  refine (decodeWord_13 _ (fOp_encRi _ _ _ _ (by decide))).trans ?_
  unfold dec13
  rw [fD_encRi _ _ _ _ (by decide), fA_encRi _ _ _ _ (by decide), fI_encRi _ _ _ _ (by decide)]
theorem slti (d : Reg) (a : Reg) (i : BitVec 11) : Statement (.slti d a i) := by
  intro _ _
  refine (decodeWord_14 _ (fOp_encRi _ _ _ _ (by decide))).trans ?_
  unfold dec14
  rw [fD_encRi _ _ _ _ (by decide), fA_encRi _ _ _ _ (by decide), fI_encRi _ _ _ _ (by decide)]
theorem sltiu (d : Reg) (a : Reg) (i : BitVec 11) : Statement (.sltiu d a i) := by
  intro _ _
  refine (decodeWord_15 _ (fOp_encRi _ _ _ _ (by decide))).trans ?_
  unfold dec15
  rw [fD_encRi _ _ _ _ (by decide), fA_encRi _ _ _ _ (by decide), fI_encRi _ _ _ _ (by decide)]
theorem slli (d : Reg) (a : Reg) (i : BitVec 6) : Statement (.slli d a i) := by
  intro h _
  (refine (decodeWord_16 _ (fOp_encRi _ _ _ _ (by decide))).trans ?_; simp [h, dec16, zero, triple, casPair, scopeOf, Scope.code, PfLevel.code, fD_encRi, fA_encRi, fI_encRi]; have := i.isLt; omega)
theorem srli (d : Reg) (a : Reg) (i : BitVec 6) : Statement (.srli d a i) := by
  intro h _
  (refine (decodeWord_17 _ (fOp_encRi _ _ _ _ (by decide))).trans ?_; simp [h, dec17, zero, triple, casPair, scopeOf, Scope.code, PfLevel.code, fD_encRi, fA_encRi, fI_encRi]; have := i.isLt; omega)
theorem srai (d : Reg) (a : Reg) (i : BitVec 6) : Statement (.srai d a i) := by
  intro h _
  (refine (decodeWord_18 _ (fOp_encRi _ _ _ _ (by decide))).trans ?_; simp [h, dec18, zero, triple, casPair, scopeOf, Scope.code, PfLevel.code, fD_encRi, fA_encRi, fI_encRi]; have := i.isLt; omega)
theorem addiW (d : Reg) (a : Reg) (i : BitVec 11) : Statement (.addiW d a i) := by
  intro _ _
  refine (decodeWord_19 _ (fOp_encRi _ _ _ _ (by decide))).trans ?_
  unfold dec19
  rw [fD_encRi _ _ _ _ (by decide), fA_encRi _ _ _ _ (by decide), fI_encRi _ _ _ _ (by decide)]
theorem ldi (d : Reg) (i : BitVec 18) : Statement (.ldi d i) := by
  intro _ _
  refine (decodeWord_1A _ (fOp_encRu _ _ _ (by decide))).trans ?_
  unfold dec1A
  rw [fD_encRu _ _ _ (by decide), fU_encRu _ _ _ (by decide)]
theorem lsh (d : Reg) (i : BitVec 18) : Statement (.lsh d i) := by
  intro _ _
  refine (decodeWord_1B _ (fOp_encRu _ _ _ (by decide))).trans ?_
  unfold dec1B
  rw [fD_encRu _ _ _ (by decide), fU_encRu _ _ _ (by decide)]
theorem pcadd (d : Reg) (i : BitVec 18) : Statement (.pcadd d i) := by
  intro _ _
  refine (decodeWord_1C _ (fOp_encRu _ _ _ (by decide))).trans ?_
  unfold dec1C
  rw [fD_encRu _ _ _ (by decide), fU_encRu _ _ _ (by decide)]
theorem beq (a : Reg) (b : Reg) (x : BitVec 11) : Statement (.beq a b x) := by
  intro _ _
  refine (decodeWord_20 _ (fOp_encRi _ _ _ _ (by decide))).trans ?_
  unfold dec20
  rw [fD_encRi _ _ _ _ (by decide), fA_encRi _ _ _ _ (by decide), fO_encRi _ _ _ _ (by decide)]
theorem bne (a : Reg) (b : Reg) (x : BitVec 11) : Statement (.bne a b x) := by
  intro _ _
  refine (decodeWord_21 _ (fOp_encRi _ _ _ _ (by decide))).trans ?_
  unfold dec21
  rw [fD_encRi _ _ _ _ (by decide), fA_encRi _ _ _ _ (by decide), fO_encRi _ _ _ _ (by decide)]
theorem blt (a : Reg) (b : Reg) (x : BitVec 11) : Statement (.blt a b x) := by
  intro _ _
  refine (decodeWord_22 _ (fOp_encRi _ _ _ _ (by decide))).trans ?_
  unfold dec22
  rw [fD_encRi _ _ _ _ (by decide), fA_encRi _ _ _ _ (by decide), fO_encRi _ _ _ _ (by decide)]
theorem bge (a : Reg) (b : Reg) (x : BitVec 11) : Statement (.bge a b x) := by
  intro _ _
  refine (decodeWord_23 _ (fOp_encRi _ _ _ _ (by decide))).trans ?_
  unfold dec23
  rw [fD_encRi _ _ _ _ (by decide), fA_encRi _ _ _ _ (by decide), fO_encRi _ _ _ _ (by decide)]
theorem bltu (a : Reg) (b : Reg) (x : BitVec 11) : Statement (.bltu a b x) := by
  intro _ _
  refine (decodeWord_24 _ (fOp_encRi _ _ _ _ (by decide))).trans ?_
  unfold dec24
  rw [fD_encRi _ _ _ _ (by decide), fA_encRi _ _ _ _ (by decide), fO_encRi _ _ _ _ (by decide)]
theorem bgeu (a : Reg) (b : Reg) (x : BitVec 11) : Statement (.bgeu a b x) := by
  intro _ _
  refine (decodeWord_25 _ (fOp_encRi _ _ _ _ (by decide))).trans ?_
  unfold dec25
  rw [fD_encRi _ _ _ _ (by decide), fA_encRi _ _ _ _ (by decide), fO_encRi _ _ _ _ (by decide)]
theorem bnone (t : Reg) (x : BitVec 11) : Statement (.bnone t x) := by
  intro h _
  simp only [Instr.wf, tripleOk, pairOk, Bool.and_eq_true, decide_eq_true_eq] at h
  (refine (decodeWord_26 _ (fOp_encRi _ _ _ _ (by decide))).trans ?_; simp [h, dec26, zero, triple, casPair, scopeOf, Scope.code, PfLevel.code, encBr, fD_encRi, fA_encRi, fO_encRi])
theorem bany (t : Reg) (x : BitVec 11) : Statement (.bany t x) := by
  intro h _
  simp only [Instr.wf, tripleOk, pairOk, Bool.and_eq_true, decide_eq_true_eq] at h
  (refine (decodeWord_27 _ (fOp_encRi _ _ _ _ (by decide))).trans ?_; simp [h, dec27, zero, triple, casPair, scopeOf, Scope.code, PfLevel.code, encBr, fD_encRi, fA_encRi, fO_encRi])
theorem ball (t : Reg) (x : BitVec 11) : Statement (.ball t x) := by
  intro h _
  simp only [Instr.wf, tripleOk, pairOk, Bool.and_eq_true, decide_eq_true_eq] at h
  (refine (decodeWord_28 _ (fOp_encRi _ _ _ _ (by decide))).trans ?_; simp [h, dec28, zero, triple, casPair, scopeOf, Scope.code, PfLevel.code, encBr, fD_encRi, fA_encRi, fO_encRi])
theorem jmp (x : BitVec 25) : Statement (.jmp x) := by
  intro _ _
  refine (decodeWord_29 _ (fOp_encJx _ _ (by decide))).trans ?_
  unfold dec29
  rw [fX_encJx _ _ (by decide)]
theorem jal (x : BitVec 25) : Statement (.jal x) := by
  intro _ _
  refine (decodeWord_2A _ (fOp_encJx _ _ (by decide))).trans ?_
  unfold dec2A
  rw [fX_encJx _ _ (by decide)]
theorem jalr (d : Reg) (a : Reg) : Statement (.jalr d a) := by
  intro _ _
  refine (decodeWord_2B _ (fOp_encRr _ _ _ _ _ (by decide) (by decide))).trans ?_
  unfold dec2B
  rw [fF_encRr _ _ _ _ _ (by decide) (by decide), fD_encRr _ _ _ _ _ (by decide) (by decide), fA_encRr _ _ _ _ _ (by decide) (by decide), fB_encRr _ _ _ _ _ (by decide) (by decide)]
  rfl
theorem waitc (l : Reg) (s : Reg) (m : Reg) : Statement (.waitc l s m) := by
  intro _ _
  refine (decodeWord_2C _ (fOp_encRr _ _ _ _ _ (by decide) (by decide))).trans ?_
  unfold dec2C
  rw [fF_encRr _ _ _ _ _ (by decide) (by decide), fD_encRr _ _ _ _ _ (by decide) (by decide), fA_encRr _ _ _ _ _ (by decide) (by decide), fB_encRr _ _ _ _ _ (by decide) (by decide)]
  rfl
theorem csrr (d : Reg) (n : BitVec 11) : Statement (.csrr d n) := by
  intro _ _
  refine (decodeWord_2D _ (fOp_encRi _ _ _ _ (by decide))).trans ?_
  unfold dec2D
  rw [fD_encRi _ _ _ _ (by decide), fA_encRi _ _ _ _ (by decide), fI_encRi _ _ _ _ (by decide)]
  rfl
theorem csrw (a : Reg) (n : BitVec 11) : Statement (.csrw a n) := by
  intro _ _
  refine (decodeWord_2E _ (fOp_encRi _ _ _ _ (by decide))).trans ?_
  unfold dec2E
  rw [fD_encRi _ _ _ _ (by decide), fA_encRi _ _ _ _ (by decide), fI_encRi _ _ _ _ (by decide)]
  rfl
theorem vwin (k : BitVec 11) : Statement (.vwin k) := by
  intro h _
  simp only [Instr.wf, tripleOk, pairOk, Bool.and_eq_true, decide_eq_true_eq] at h
  (refine (decodeWord_2F _ (fOp_encRi _ _ _ _ (by decide))).trans ?_; simp [h, dec2F, zero, triple, casPair, scopeOf, Scope.code, PfLevel.code, fD_encRi, fA_encRi, fI_encRi])
theorem lb (d : Reg) (a : Reg) (i : BitVec 11) : Statement (.lb d a i) := by
  intro _ _
  refine (decodeWord_30 _ (fOp_encRi _ _ _ _ (by decide))).trans ?_
  unfold dec30
  rw [fD_encRi _ _ _ _ (by decide), fA_encRi _ _ _ _ (by decide), fI_encRi _ _ _ _ (by decide)]
theorem lbu (d : Reg) (a : Reg) (i : BitVec 11) : Statement (.lbu d a i) := by
  intro _ _
  refine (decodeWord_31 _ (fOp_encRi _ _ _ _ (by decide))).trans ?_
  unfold dec31
  rw [fD_encRi _ _ _ _ (by decide), fA_encRi _ _ _ _ (by decide), fI_encRi _ _ _ _ (by decide)]
theorem lh (d : Reg) (a : Reg) (i : BitVec 11) : Statement (.lh d a i) := by
  intro _ _
  refine (decodeWord_32 _ (fOp_encRi _ _ _ _ (by decide))).trans ?_
  unfold dec32
  rw [fD_encRi _ _ _ _ (by decide), fA_encRi _ _ _ _ (by decide), fI_encRi _ _ _ _ (by decide)]
theorem lhu (d : Reg) (a : Reg) (i : BitVec 11) : Statement (.lhu d a i) := by
  intro _ _
  refine (decodeWord_33 _ (fOp_encRi _ _ _ _ (by decide))).trans ?_
  unfold dec33
  rw [fD_encRi _ _ _ _ (by decide), fA_encRi _ _ _ _ (by decide), fI_encRi _ _ _ _ (by decide)]
theorem lw (d : Reg) (a : Reg) (i : BitVec 11) : Statement (.lw d a i) := by
  intro _ _
  refine (decodeWord_34 _ (fOp_encRi _ _ _ _ (by decide))).trans ?_
  unfold dec34
  rw [fD_encRi _ _ _ _ (by decide), fA_encRi _ _ _ _ (by decide), fI_encRi _ _ _ _ (by decide)]
theorem lwu (d : Reg) (a : Reg) (i : BitVec 11) : Statement (.lwu d a i) := by
  intro _ _
  refine (decodeWord_35 _ (fOp_encRi _ _ _ _ (by decide))).trans ?_
  unfold dec35
  rw [fD_encRi _ _ _ _ (by decide), fA_encRi _ _ _ _ (by decide), fI_encRi _ _ _ _ (by decide)]
theorem ld (d : Reg) (a : Reg) (i : BitVec 11) : Statement (.ld d a i) := by
  intro _ _
  refine (decodeWord_36 _ (fOp_encRi _ _ _ _ (by decide))).trans ?_
  unfold dec36
  rw [fD_encRi _ _ _ _ (by decide), fA_encRi _ _ _ _ (by decide), fI_encRi _ _ _ _ (by decide)]
theorem sb (d : Reg) (a : Reg) (i : BitVec 11) : Statement (.sb d a i) := by
  intro _ _
  refine (decodeWord_37 _ (fOp_encRi _ _ _ _ (by decide))).trans ?_
  unfold dec37
  rw [fD_encRi _ _ _ _ (by decide), fA_encRi _ _ _ _ (by decide), fI_encRi _ _ _ _ (by decide)]
theorem sh (d : Reg) (a : Reg) (i : BitVec 11) : Statement (.sh d a i) := by
  intro _ _
  refine (decodeWord_38 _ (fOp_encRi _ _ _ _ (by decide))).trans ?_
  unfold dec38
  rw [fD_encRi _ _ _ _ (by decide), fA_encRi _ _ _ _ (by decide), fI_encRi _ _ _ _ (by decide)]
theorem sw (d : Reg) (a : Reg) (i : BitVec 11) : Statement (.sw d a i) := by
  intro _ _
  refine (decodeWord_39 _ (fOp_encRi _ _ _ _ (by decide))).trans ?_
  unfold dec39
  rw [fD_encRi _ _ _ _ (by decide), fA_encRi _ _ _ _ (by decide), fI_encRi _ _ _ _ (by decide)]
theorem sd (d : Reg) (a : Reg) (i : BitVec 11) : Statement (.sd d a i) := by
  intro _ _
  refine (decodeWord_3A _ (fOp_encRi _ _ _ _ (by decide))).trans ?_
  unfold dec3A
  rw [fD_encRi _ _ _ _ (by decide), fA_encRi _ _ _ _ (by decide), fI_encRi _ _ _ _ (by decide)]
theorem lp (d : Reg) (a : Reg) (b : Reg) (z : Size4) (p : Policy) : Statement (.lp d a b z p) := by
  intro _ _
  have hf : z.code + 4 * p.code < 16 := by cases z <;> cases p <;> decide
  refine (decodeWord_3B _ (fOp_encRr _ _ _ _ _ (by decide) hf)).trans ?_
  rw [dec3B, fF_encRr _ _ _ _ _ (by decide) hf, fD_encRr _ _ _ _ _ (by decide) hf, fA_encRr _ _ _ _ _ (by decide) hf, fB_encRr _ _ _ _ _ (by decide) hf]
  cases z <;> cases p <;> rfl
theorem sp (d : Reg) (a : Reg) (b : Reg) (z : Size4) (p : Policy) : Statement (.sp d a b z p) := by
  intro _ _
  have hf : z.code + 4 * p.code < 16 := by cases z <;> cases p <;> decide
  refine (decodeWord_3C _ (fOp_encRr _ _ _ _ _ (by decide) hf)).trans ?_
  rw [dec3C, fF_encRr _ _ _ _ _ (by decide) hf, fD_encRr _ _ _ _ _ (by decide) hf, fA_encRr _ _ _ _ _ (by decide) hf, fB_encRr _ _ _ _ _ (by decide) hf]
  cases z <;> cases p <;> rfl
theorem pf (l : PfLevel) (a : Reg) (i : BitVec 11) : Statement (.pf l a i) := by
  intro h _
  cases l <;> (refine (decodeWord_3D _ (fOp_encRi _ _ _ _ (by decide))).trans ?_; simp [h, dec3D, zero, triple, casPair, scopeOf, Scope.code, PfLevel.code, fD_encRi, fA_encRi, fI_encRi])
theorem hint (h : BitVec 25) : Statement (.hint h) := by
  intro _ _
  refine (decodeWord_3E _ (fOp_encJx _ _ (by decide))).trans ?_
  unfold dec3E
  rw [fX_encJx _ _ (by decide)]
theorem vadd (d : Reg) (a : Reg) (b : Reg) : Statement (.vadd d a b) := by
  intro _ _
  refine (decodeWord_40 _ (fOp_encRr _ _ _ _ _ (by decide) (by decide))).trans ?_
  unfold dec40
  rw [fF_encRr _ _ _ _ _ (by decide) (by decide), fD_encRr _ _ _ _ _ (by decide) (by decide), fA_encRr _ _ _ _ _ (by decide) (by decide), fB_encRr _ _ _ _ _ (by decide) (by decide)]
  rfl
theorem vsub (d : Reg) (a : Reg) (b : Reg) : Statement (.vsub d a b) := by
  intro _ _
  refine (decodeWord_40 _ (fOp_encRr _ _ _ _ _ (by decide) (by decide))).trans ?_
  unfold dec40
  rw [fF_encRr _ _ _ _ _ (by decide) (by decide), fD_encRr _ _ _ _ _ (by decide) (by decide), fA_encRr _ _ _ _ _ (by decide) (by decide), fB_encRr _ _ _ _ _ (by decide) (by decide)]
  rfl
theorem vmul (d : Reg) (a : Reg) (b : Reg) : Statement (.vmul d a b) := by
  intro _ _
  refine (decodeWord_40 _ (fOp_encRr _ _ _ _ _ (by decide) (by decide))).trans ?_
  unfold dec40
  rw [fF_encRr _ _ _ _ _ (by decide) (by decide), fD_encRr _ _ _ _ _ (by decide) (by decide), fA_encRr _ _ _ _ _ (by decide) (by decide), fB_encRr _ _ _ _ _ (by decide) (by decide)]
  rfl
theorem vmulh (d : Reg) (a : Reg) (b : Reg) : Statement (.vmulh d a b) := by
  intro _ _
  refine (decodeWord_40 _ (fOp_encRr _ _ _ _ _ (by decide) (by decide))).trans ?_
  unfold dec40
  rw [fF_encRr _ _ _ _ _ (by decide) (by decide), fD_encRr _ _ _ _ _ (by decide) (by decide), fA_encRr _ _ _ _ _ (by decide) (by decide), fB_encRr _ _ _ _ _ (by decide) (by decide)]
  rfl
theorem vmulhu (d : Reg) (a : Reg) (b : Reg) : Statement (.vmulhu d a b) := by
  intro _ _
  refine (decodeWord_40 _ (fOp_encRr _ _ _ _ _ (by decide) (by decide))).trans ?_
  unfold dec40
  rw [fF_encRr _ _ _ _ _ (by decide) (by decide), fD_encRr _ _ _ _ _ (by decide) (by decide), fA_encRr _ _ _ _ _ (by decide) (by decide), fB_encRr _ _ _ _ _ (by decide) (by decide)]
  rfl
theorem vand (d : Reg) (a : Reg) (b : Reg) : Statement (.vand d a b) := by
  intro _ _
  refine (decodeWord_40 _ (fOp_encRr _ _ _ _ _ (by decide) (by decide))).trans ?_
  unfold dec40
  rw [fF_encRr _ _ _ _ _ (by decide) (by decide), fD_encRr _ _ _ _ _ (by decide) (by decide), fA_encRr _ _ _ _ _ (by decide) (by decide), fB_encRr _ _ _ _ _ (by decide) (by decide)]
  rfl
theorem vor (d : Reg) (a : Reg) (b : Reg) : Statement (.vor d a b) := by
  intro _ _
  refine (decodeWord_40 _ (fOp_encRr _ _ _ _ _ (by decide) (by decide))).trans ?_
  unfold dec40
  rw [fF_encRr _ _ _ _ _ (by decide) (by decide), fD_encRr _ _ _ _ _ (by decide) (by decide), fA_encRr _ _ _ _ _ (by decide) (by decide), fB_encRr _ _ _ _ _ (by decide) (by decide)]
  rfl
theorem vxor (d : Reg) (a : Reg) (b : Reg) : Statement (.vxor d a b) := by
  intro _ _
  refine (decodeWord_40 _ (fOp_encRr _ _ _ _ _ (by decide) (by decide))).trans ?_
  unfold dec40
  rw [fF_encRr _ _ _ _ _ (by decide) (by decide), fD_encRr _ _ _ _ _ (by decide) (by decide), fA_encRr _ _ _ _ _ (by decide) (by decide), fB_encRr _ _ _ _ _ (by decide) (by decide)]
  rfl
theorem vsll (d : Reg) (a : Reg) (b : Reg) : Statement (.vsll d a b) := by
  intro _ _
  refine (decodeWord_40 _ (fOp_encRr _ _ _ _ _ (by decide) (by decide))).trans ?_
  unfold dec40
  rw [fF_encRr _ _ _ _ _ (by decide) (by decide), fD_encRr _ _ _ _ _ (by decide) (by decide), fA_encRr _ _ _ _ _ (by decide) (by decide), fB_encRr _ _ _ _ _ (by decide) (by decide)]
  rfl
theorem vsrl (d : Reg) (a : Reg) (b : Reg) : Statement (.vsrl d a b) := by
  intro _ _
  refine (decodeWord_40 _ (fOp_encRr _ _ _ _ _ (by decide) (by decide))).trans ?_
  unfold dec40
  rw [fF_encRr _ _ _ _ _ (by decide) (by decide), fD_encRr _ _ _ _ _ (by decide) (by decide), fA_encRr _ _ _ _ _ (by decide) (by decide), fB_encRr _ _ _ _ _ (by decide) (by decide)]
  rfl
theorem vsra (d : Reg) (a : Reg) (b : Reg) : Statement (.vsra d a b) := by
  intro _ _
  refine (decodeWord_40 _ (fOp_encRr _ _ _ _ _ (by decide) (by decide))).trans ?_
  unfold dec40
  rw [fF_encRr _ _ _ _ _ (by decide) (by decide), fD_encRr _ _ _ _ _ (by decide) (by decide), fA_encRr _ _ _ _ _ (by decide) (by decide), fB_encRr _ _ _ _ _ (by decide) (by decide)]
  rfl
theorem vmin (d : Reg) (a : Reg) (b : Reg) : Statement (.vmin d a b) := by
  intro _ _
  refine (decodeWord_40 _ (fOp_encRr _ _ _ _ _ (by decide) (by decide))).trans ?_
  unfold dec40
  rw [fF_encRr _ _ _ _ _ (by decide) (by decide), fD_encRr _ _ _ _ _ (by decide) (by decide), fA_encRr _ _ _ _ _ (by decide) (by decide), fB_encRr _ _ _ _ _ (by decide) (by decide)]
  rfl
theorem vmax (d : Reg) (a : Reg) (b : Reg) : Statement (.vmax d a b) := by
  intro _ _
  refine (decodeWord_40 _ (fOp_encRr _ _ _ _ _ (by decide) (by decide))).trans ?_
  unfold dec40
  rw [fF_encRr _ _ _ _ _ (by decide) (by decide), fD_encRr _ _ _ _ _ (by decide) (by decide), fA_encRr _ _ _ _ _ (by decide) (by decide), fB_encRr _ _ _ _ _ (by decide) (by decide)]
  rfl
theorem vminu (d : Reg) (a : Reg) (b : Reg) : Statement (.vminu d a b) := by
  intro _ _
  refine (decodeWord_40 _ (fOp_encRr _ _ _ _ _ (by decide) (by decide))).trans ?_
  unfold dec40
  rw [fF_encRr _ _ _ _ _ (by decide) (by decide), fD_encRr _ _ _ _ _ (by decide) (by decide), fA_encRr _ _ _ _ _ (by decide) (by decide), fB_encRr _ _ _ _ _ (by decide) (by decide)]
  rfl
theorem vmaxu (d : Reg) (a : Reg) (b : Reg) : Statement (.vmaxu d a b) := by
  intro _ _
  refine (decodeWord_40 _ (fOp_encRr _ _ _ _ _ (by decide) (by decide))).trans ?_
  unfold dec40
  rw [fF_encRr _ _ _ _ _ (by decide) (by decide), fD_encRr _ _ _ _ _ (by decide) (by decide), fA_encRr _ _ _ _ _ (by decide) (by decide), fB_encRr _ _ _ _ _ (by decide) (by decide)]
  rfl
theorem vandn (d : Reg) (a : Reg) (b : Reg) : Statement (.vandn d a b) := by
  intro _ _
  refine (decodeWord_40 _ (fOp_encRr _ _ _ _ _ (by decide) (by decide))).trans ?_
  unfold dec40
  rw [fF_encRr _ _ _ _ _ (by decide) (by decide), fD_encRr _ _ _ _ _ (by decide) (by decide), fA_encRr _ _ _ _ _ (by decide) (by decide), fB_encRr _ _ _ _ _ (by decide) (by decide)]
  rfl
theorem vaddS (d : Reg) (a : Reg) (b : Reg) : Statement (.vaddS d a b) := by
  intro _ _
  refine (decodeWord_41 _ (fOp_encRr _ _ _ _ _ (by decide) (by decide))).trans ?_
  unfold dec41
  rw [fF_encRr _ _ _ _ _ (by decide) (by decide), fD_encRr _ _ _ _ _ (by decide) (by decide), fA_encRr _ _ _ _ _ (by decide) (by decide), fB_encRr _ _ _ _ _ (by decide) (by decide)]
  rfl
theorem vsubS (d : Reg) (a : Reg) (b : Reg) : Statement (.vsubS d a b) := by
  intro _ _
  refine (decodeWord_41 _ (fOp_encRr _ _ _ _ _ (by decide) (by decide))).trans ?_
  unfold dec41
  rw [fF_encRr _ _ _ _ _ (by decide) (by decide), fD_encRr _ _ _ _ _ (by decide) (by decide), fA_encRr _ _ _ _ _ (by decide) (by decide), fB_encRr _ _ _ _ _ (by decide) (by decide)]
  rfl
theorem vmulS (d : Reg) (a : Reg) (b : Reg) : Statement (.vmulS d a b) := by
  intro _ _
  refine (decodeWord_41 _ (fOp_encRr _ _ _ _ _ (by decide) (by decide))).trans ?_
  unfold dec41
  rw [fF_encRr _ _ _ _ _ (by decide) (by decide), fD_encRr _ _ _ _ _ (by decide) (by decide), fA_encRr _ _ _ _ _ (by decide) (by decide), fB_encRr _ _ _ _ _ (by decide) (by decide)]
  rfl
theorem vmulhS (d : Reg) (a : Reg) (b : Reg) : Statement (.vmulhS d a b) := by
  intro _ _
  refine (decodeWord_41 _ (fOp_encRr _ _ _ _ _ (by decide) (by decide))).trans ?_
  unfold dec41
  rw [fF_encRr _ _ _ _ _ (by decide) (by decide), fD_encRr _ _ _ _ _ (by decide) (by decide), fA_encRr _ _ _ _ _ (by decide) (by decide), fB_encRr _ _ _ _ _ (by decide) (by decide)]
  rfl
theorem vmulhuS (d : Reg) (a : Reg) (b : Reg) : Statement (.vmulhuS d a b) := by
  intro _ _
  refine (decodeWord_41 _ (fOp_encRr _ _ _ _ _ (by decide) (by decide))).trans ?_
  unfold dec41
  rw [fF_encRr _ _ _ _ _ (by decide) (by decide), fD_encRr _ _ _ _ _ (by decide) (by decide), fA_encRr _ _ _ _ _ (by decide) (by decide), fB_encRr _ _ _ _ _ (by decide) (by decide)]
  rfl
theorem vandS (d : Reg) (a : Reg) (b : Reg) : Statement (.vandS d a b) := by
  intro _ _
  refine (decodeWord_41 _ (fOp_encRr _ _ _ _ _ (by decide) (by decide))).trans ?_
  unfold dec41
  rw [fF_encRr _ _ _ _ _ (by decide) (by decide), fD_encRr _ _ _ _ _ (by decide) (by decide), fA_encRr _ _ _ _ _ (by decide) (by decide), fB_encRr _ _ _ _ _ (by decide) (by decide)]
  rfl
theorem vorS (d : Reg) (a : Reg) (b : Reg) : Statement (.vorS d a b) := by
  intro _ _
  refine (decodeWord_41 _ (fOp_encRr _ _ _ _ _ (by decide) (by decide))).trans ?_
  unfold dec41
  rw [fF_encRr _ _ _ _ _ (by decide) (by decide), fD_encRr _ _ _ _ _ (by decide) (by decide), fA_encRr _ _ _ _ _ (by decide) (by decide), fB_encRr _ _ _ _ _ (by decide) (by decide)]
  rfl
theorem vxorS (d : Reg) (a : Reg) (b : Reg) : Statement (.vxorS d a b) := by
  intro _ _
  refine (decodeWord_41 _ (fOp_encRr _ _ _ _ _ (by decide) (by decide))).trans ?_
  unfold dec41
  rw [fF_encRr _ _ _ _ _ (by decide) (by decide), fD_encRr _ _ _ _ _ (by decide) (by decide), fA_encRr _ _ _ _ _ (by decide) (by decide), fB_encRr _ _ _ _ _ (by decide) (by decide)]
  rfl
theorem vsllS (d : Reg) (a : Reg) (b : Reg) : Statement (.vsllS d a b) := by
  intro _ _
  refine (decodeWord_41 _ (fOp_encRr _ _ _ _ _ (by decide) (by decide))).trans ?_
  unfold dec41
  rw [fF_encRr _ _ _ _ _ (by decide) (by decide), fD_encRr _ _ _ _ _ (by decide) (by decide), fA_encRr _ _ _ _ _ (by decide) (by decide), fB_encRr _ _ _ _ _ (by decide) (by decide)]
  rfl
theorem vsrlS (d : Reg) (a : Reg) (b : Reg) : Statement (.vsrlS d a b) := by
  intro _ _
  refine (decodeWord_41 _ (fOp_encRr _ _ _ _ _ (by decide) (by decide))).trans ?_
  unfold dec41
  rw [fF_encRr _ _ _ _ _ (by decide) (by decide), fD_encRr _ _ _ _ _ (by decide) (by decide), fA_encRr _ _ _ _ _ (by decide) (by decide), fB_encRr _ _ _ _ _ (by decide) (by decide)]
  rfl
theorem vsraS (d : Reg) (a : Reg) (b : Reg) : Statement (.vsraS d a b) := by
  intro _ _
  refine (decodeWord_41 _ (fOp_encRr _ _ _ _ _ (by decide) (by decide))).trans ?_
  unfold dec41
  rw [fF_encRr _ _ _ _ _ (by decide) (by decide), fD_encRr _ _ _ _ _ (by decide) (by decide), fA_encRr _ _ _ _ _ (by decide) (by decide), fB_encRr _ _ _ _ _ (by decide) (by decide)]
  rfl
theorem vminS (d : Reg) (a : Reg) (b : Reg) : Statement (.vminS d a b) := by
  intro _ _
  refine (decodeWord_41 _ (fOp_encRr _ _ _ _ _ (by decide) (by decide))).trans ?_
  unfold dec41
  rw [fF_encRr _ _ _ _ _ (by decide) (by decide), fD_encRr _ _ _ _ _ (by decide) (by decide), fA_encRr _ _ _ _ _ (by decide) (by decide), fB_encRr _ _ _ _ _ (by decide) (by decide)]
  rfl
theorem vmaxS (d : Reg) (a : Reg) (b : Reg) : Statement (.vmaxS d a b) := by
  intro _ _
  refine (decodeWord_41 _ (fOp_encRr _ _ _ _ _ (by decide) (by decide))).trans ?_
  unfold dec41
  rw [fF_encRr _ _ _ _ _ (by decide) (by decide), fD_encRr _ _ _ _ _ (by decide) (by decide), fA_encRr _ _ _ _ _ (by decide) (by decide), fB_encRr _ _ _ _ _ (by decide) (by decide)]
  rfl
theorem vminuS (d : Reg) (a : Reg) (b : Reg) : Statement (.vminuS d a b) := by
  intro _ _
  refine (decodeWord_41 _ (fOp_encRr _ _ _ _ _ (by decide) (by decide))).trans ?_
  unfold dec41
  rw [fF_encRr _ _ _ _ _ (by decide) (by decide), fD_encRr _ _ _ _ _ (by decide) (by decide), fA_encRr _ _ _ _ _ (by decide) (by decide), fB_encRr _ _ _ _ _ (by decide) (by decide)]
  rfl
theorem vmaxuS (d : Reg) (a : Reg) (b : Reg) : Statement (.vmaxuS d a b) := by
  intro _ _
  refine (decodeWord_41 _ (fOp_encRr _ _ _ _ _ (by decide) (by decide))).trans ?_
  unfold dec41
  rw [fF_encRr _ _ _ _ _ (by decide) (by decide), fD_encRr _ _ _ _ _ (by decide) (by decide), fA_encRr _ _ _ _ _ (by decide) (by decide), fB_encRr _ _ _ _ _ (by decide) (by decide)]
  rfl
theorem vandnS (d : Reg) (a : Reg) (b : Reg) : Statement (.vandnS d a b) := by
  intro _ _
  refine (decodeWord_41 _ (fOp_encRr _ _ _ _ _ (by decide) (by decide))).trans ?_
  unfold dec41
  rw [fF_encRr _ _ _ _ _ (by decide) (by decide), fD_encRr _ _ _ _ _ (by decide) (by decide), fA_encRr _ _ _ _ _ (by decide) (by decide), fB_encRr _ _ _ _ _ (by decide) (by decide)]
  rfl
theorem vabs (d : Reg) (a : Reg) : Statement (.vabs d a) := by
  intro _ _
  refine (decodeWord_42 _ (fOp_encRr _ _ _ _ _ (by decide) (by decide))).trans ?_
  unfold dec42
  rw [fF_encRr _ _ _ _ _ (by decide) (by decide), fD_encRr _ _ _ _ _ (by decide) (by decide), fA_encRr _ _ _ _ _ (by decide) (by decide), fB_encRr _ _ _ _ _ (by decide) (by decide)]
  rfl
theorem vneg (d : Reg) (a : Reg) : Statement (.vneg d a) := by
  intro _ _
  refine (decodeWord_42 _ (fOp_encRr _ _ _ _ _ (by decide) (by decide))).trans ?_
  unfold dec42
  rw [fF_encRr _ _ _ _ _ (by decide) (by decide), fD_encRr _ _ _ _ _ (by decide) (by decide), fA_encRr _ _ _ _ _ (by decide) (by decide), fB_encRr _ _ _ _ _ (by decide) (by decide)]
  rfl
theorem vclz (d : Reg) (a : Reg) : Statement (.vclz d a) := by
  intro _ _
  refine (decodeWord_42 _ (fOp_encRr _ _ _ _ _ (by decide) (by decide))).trans ?_
  unfold dec42
  rw [fF_encRr _ _ _ _ _ (by decide) (by decide), fD_encRr _ _ _ _ _ (by decide) (by decide), fA_encRr _ _ _ _ _ (by decide) (by decide), fB_encRr _ _ _ _ _ (by decide) (by decide)]
  rfl
theorem vpopc (d : Reg) (a : Reg) : Statement (.vpopc d a) := by
  intro _ _
  refine (decodeWord_42 _ (fOp_encRr _ _ _ _ _ (by decide) (by decide))).trans ?_
  unfold dec42
  rw [fF_encRr _ _ _ _ _ (by decide) (by decide), fD_encRr _ _ _ _ _ (by decide) (by decide), fA_encRr _ _ _ _ _ (by decide) (by decide), fB_encRr _ _ _ _ _ (by decide) (by decide)]
  rfl
theorem vbrev (d : Reg) (a : Reg) : Statement (.vbrev d a) := by
  intro _ _
  refine (decodeWord_42 _ (fOp_encRr _ _ _ _ _ (by decide) (by decide))).trans ?_
  unfold dec42
  rw [fF_encRr _ _ _ _ _ (by decide) (by decide), fD_encRr _ _ _ _ _ (by decide) (by decide), fA_encRr _ _ _ _ _ (by decide) (by decide), fB_encRr _ _ _ _ _ (by decide) (by decide)]
  rfl
theorem vbswap (d : Reg) (a : Reg) : Statement (.vbswap d a) := by
  intro _ _
  refine (decodeWord_42 _ (fOp_encRr _ _ _ _ _ (by decide) (by decide))).trans ?_
  unfold dec42
  rw [fF_encRr _ _ _ _ _ (by decide) (by decide), fD_encRr _ _ _ _ _ (by decide) (by decide), fA_encRr _ _ _ _ _ (by decide) (by decide), fB_encRr _ _ _ _ _ (by decide) (by decide)]
  rfl
theorem vsextb (d : Reg) (a : Reg) : Statement (.vsextb d a) := by
  intro _ _
  refine (decodeWord_42 _ (fOp_encRr _ _ _ _ _ (by decide) (by decide))).trans ?_
  unfold dec42
  rw [fF_encRr _ _ _ _ _ (by decide) (by decide), fD_encRr _ _ _ _ _ (by decide) (by decide), fA_encRr _ _ _ _ _ (by decide) (by decide), fB_encRr _ _ _ _ _ (by decide) (by decide)]
  rfl
theorem vsexth (d : Reg) (a : Reg) : Statement (.vsexth d a) := by
  intro _ _
  refine (decodeWord_42 _ (fOp_encRr _ _ _ _ _ (by decide) (by decide))).trans ?_
  unfold dec42
  rw [fF_encRr _ _ _ _ _ (by decide) (by decide), fD_encRr _ _ _ _ _ (by decide) (by decide), fA_encRr _ _ _ _ _ (by decide) (by decide), fB_encRr _ _ _ _ _ (by decide) (by decide)]
  rfl
theorem vzextb (d : Reg) (a : Reg) : Statement (.vzextb d a) := by
  intro _ _
  refine (decodeWord_42 _ (fOp_encRr _ _ _ _ _ (by decide) (by decide))).trans ?_
  unfold dec42
  rw [fF_encRr _ _ _ _ _ (by decide) (by decide), fD_encRr _ _ _ _ _ (by decide) (by decide), fA_encRr _ _ _ _ _ (by decide) (by decide), fB_encRr _ _ _ _ _ (by decide) (by decide)]
  rfl
theorem vzexth (d : Reg) (a : Reg) : Statement (.vzexth d a) := by
  intro _ _
  refine (decodeWord_42 _ (fOp_encRr _ _ _ _ _ (by decide) (by decide))).trans ?_
  unfold dec42
  rw [fF_encRr _ _ _ _ _ (by decide) (by decide), fD_encRr _ _ _ _ _ (by decide) (by decide), fA_encRr _ _ _ _ _ (by decide) (by decide), fB_encRr _ _ _ _ _ (by decide) (by decide)]
  rfl
theorem vnot (d : Reg) (a : Reg) : Statement (.vnot d a) := by
  intro _ _
  refine (decodeWord_42 _ (fOp_encRr _ _ _ _ _ (by decide) (by decide))).trans ?_
  unfold dec42
  rw [fF_encRr _ _ _ _ _ (by decide) (by decide), fD_encRr _ _ _ _ _ (by decide) (by decide), fA_encRr _ _ _ _ _ (by decide) (by decide), fB_encRr _ _ _ _ _ (by decide) (by decide)]
  rfl
theorem vmad (d : Reg) (a : Reg) (b : Reg) : Statement (.vmad d a b) := by
  intro _ _
  refine (decodeWord_43 _ (fOp_encRr _ _ _ _ _ (by decide) (by decide))).trans ?_
  unfold dec43
  rw [fF_encRr _ _ _ _ _ (by decide) (by decide), fD_encRr _ _ _ _ _ (by decide) (by decide), fA_encRr _ _ _ _ _ (by decide) (by decide), fB_encRr _ _ _ _ _ (by decide) (by decide)]
  rfl
theorem vmsb (d : Reg) (a : Reg) (b : Reg) : Statement (.vmsb d a b) := by
  intro _ _
  refine (decodeWord_43 _ (fOp_encRr _ _ _ _ _ (by decide) (by decide))).trans ?_
  unfold dec43
  rw [fF_encRr _ _ _ _ _ (by decide) (by decide), fD_encRr _ _ _ _ _ (by decide) (by decide), fA_encRr _ _ _ _ _ (by decide) (by decide), fB_encRr _ _ _ _ _ (by decide) (by decide)]
  rfl
theorem vmadS (d : Reg) (a : Reg) (b : Reg) : Statement (.vmadS d a b) := by
  intro _ _
  refine (decodeWord_43 _ (fOp_encRr _ _ _ _ _ (by decide) (by decide))).trans ?_
  unfold dec43
  rw [fF_encRr _ _ _ _ _ (by decide) (by decide), fD_encRr _ _ _ _ _ (by decide) (by decide), fA_encRr _ _ _ _ _ (by decide) (by decide), fB_encRr _ _ _ _ _ (by decide) (by decide)]
  rfl
theorem vmsbS (d : Reg) (a : Reg) (b : Reg) : Statement (.vmsbS d a b) := by
  intro _ _
  refine (decodeWord_43 _ (fOp_encRr _ _ _ _ _ (by decide) (by decide))).trans ?_
  unfold dec43
  rw [fF_encRr _ _ _ _ _ (by decide) (by decide), fD_encRr _ _ _ _ _ (by decide) (by decide), fA_encRr _ _ _ _ _ (by decide) (by decide), fB_encRr _ _ _ _ _ (by decide) (by decide)]
  rfl
theorem vcmpEq (d : Reg) (a : Reg) (b : Reg) : Statement (.vcmpEq d a b) := by
  intro h _
  simp only [Instr.wf, tripleOk, pairOk, Bool.and_eq_true, decide_eq_true_eq] at h
  (refine (decodeWord_44 _ (fOp_encRr _ _ _ _ _ (by decide) (by decide))).trans ?_; simp [h, dec44, zero, triple, casPair, scopeOf, Scope.code, PfLevel.code, fF_encRr, fD_encRr, fA_encRr, fB_encRr])
theorem vcmpNe (d : Reg) (a : Reg) (b : Reg) : Statement (.vcmpNe d a b) := by
  intro h _
  simp only [Instr.wf, tripleOk, pairOk, Bool.and_eq_true, decide_eq_true_eq] at h
  (refine (decodeWord_44 _ (fOp_encRr _ _ _ _ _ (by decide) (by decide))).trans ?_; simp [h, dec44, zero, triple, casPair, scopeOf, Scope.code, PfLevel.code, fF_encRr, fD_encRr, fA_encRr, fB_encRr])
theorem vcmpLt (d : Reg) (a : Reg) (b : Reg) : Statement (.vcmpLt d a b) := by
  intro h _
  simp only [Instr.wf, tripleOk, pairOk, Bool.and_eq_true, decide_eq_true_eq] at h
  (refine (decodeWord_44 _ (fOp_encRr _ _ _ _ _ (by decide) (by decide))).trans ?_; simp [h, dec44, zero, triple, casPair, scopeOf, Scope.code, PfLevel.code, fF_encRr, fD_encRr, fA_encRr, fB_encRr])
theorem vcmpLe (d : Reg) (a : Reg) (b : Reg) : Statement (.vcmpLe d a b) := by
  intro h _
  simp only [Instr.wf, tripleOk, pairOk, Bool.and_eq_true, decide_eq_true_eq] at h
  (refine (decodeWord_44 _ (fOp_encRr _ _ _ _ _ (by decide) (by decide))).trans ?_; simp [h, dec44, zero, triple, casPair, scopeOf, Scope.code, PfLevel.code, fF_encRr, fD_encRr, fA_encRr, fB_encRr])
theorem vcmpLtu (d : Reg) (a : Reg) (b : Reg) : Statement (.vcmpLtu d a b) := by
  intro h _
  simp only [Instr.wf, tripleOk, pairOk, Bool.and_eq_true, decide_eq_true_eq] at h
  (refine (decodeWord_44 _ (fOp_encRr _ _ _ _ _ (by decide) (by decide))).trans ?_; simp [h, dec44, zero, triple, casPair, scopeOf, Scope.code, PfLevel.code, fF_encRr, fD_encRr, fA_encRr, fB_encRr])
theorem vcmpLeu (d : Reg) (a : Reg) (b : Reg) : Statement (.vcmpLeu d a b) := by
  intro h _
  simp only [Instr.wf, tripleOk, pairOk, Bool.and_eq_true, decide_eq_true_eq] at h
  (refine (decodeWord_44 _ (fOp_encRr _ _ _ _ _ (by decide) (by decide))).trans ?_; simp [h, dec44, zero, triple, casPair, scopeOf, Scope.code, PfLevel.code, fF_encRr, fD_encRr, fA_encRr, fB_encRr])
theorem vcmpEqS (d : Reg) (a : Reg) (b : Reg) : Statement (.vcmpEqS d a b) := by
  intro h _
  simp only [Instr.wf, tripleOk, pairOk, Bool.and_eq_true, decide_eq_true_eq] at h
  (refine (decodeWord_45 _ (fOp_encRr _ _ _ _ _ (by decide) (by decide))).trans ?_; simp [h, dec45, zero, triple, casPair, scopeOf, Scope.code, PfLevel.code, fF_encRr, fD_encRr, fA_encRr, fB_encRr])
theorem vcmpNeS (d : Reg) (a : Reg) (b : Reg) : Statement (.vcmpNeS d a b) := by
  intro h _
  simp only [Instr.wf, tripleOk, pairOk, Bool.and_eq_true, decide_eq_true_eq] at h
  (refine (decodeWord_45 _ (fOp_encRr _ _ _ _ _ (by decide) (by decide))).trans ?_; simp [h, dec45, zero, triple, casPair, scopeOf, Scope.code, PfLevel.code, fF_encRr, fD_encRr, fA_encRr, fB_encRr])
theorem vcmpLtS (d : Reg) (a : Reg) (b : Reg) : Statement (.vcmpLtS d a b) := by
  intro h _
  simp only [Instr.wf, tripleOk, pairOk, Bool.and_eq_true, decide_eq_true_eq] at h
  (refine (decodeWord_45 _ (fOp_encRr _ _ _ _ _ (by decide) (by decide))).trans ?_; simp [h, dec45, zero, triple, casPair, scopeOf, Scope.code, PfLevel.code, fF_encRr, fD_encRr, fA_encRr, fB_encRr])
theorem vcmpLeS (d : Reg) (a : Reg) (b : Reg) : Statement (.vcmpLeS d a b) := by
  intro h _
  simp only [Instr.wf, tripleOk, pairOk, Bool.and_eq_true, decide_eq_true_eq] at h
  (refine (decodeWord_45 _ (fOp_encRr _ _ _ _ _ (by decide) (by decide))).trans ?_; simp [h, dec45, zero, triple, casPair, scopeOf, Scope.code, PfLevel.code, fF_encRr, fD_encRr, fA_encRr, fB_encRr])
theorem vcmpLtuS (d : Reg) (a : Reg) (b : Reg) : Statement (.vcmpLtuS d a b) := by
  intro h _
  simp only [Instr.wf, tripleOk, pairOk, Bool.and_eq_true, decide_eq_true_eq] at h
  (refine (decodeWord_45 _ (fOp_encRr _ _ _ _ _ (by decide) (by decide))).trans ?_; simp [h, dec45, zero, triple, casPair, scopeOf, Scope.code, PfLevel.code, fF_encRr, fD_encRr, fA_encRr, fB_encRr])
theorem vcmpLeuS (d : Reg) (a : Reg) (b : Reg) : Statement (.vcmpLeuS d a b) := by
  intro h _
  simp only [Instr.wf, tripleOk, pairOk, Bool.and_eq_true, decide_eq_true_eq] at h
  (refine (decodeWord_45 _ (fOp_encRr _ _ _ _ _ (by decide) (by decide))).trans ?_; simp [h, dec45, zero, triple, casPair, scopeOf, Scope.code, PfLevel.code, fF_encRr, fD_encRr, fA_encRr, fB_encRr])
theorem vfadd (d : Reg) (a : Reg) (b : Reg) : Statement (.vfadd d a b) := by
  intro _ _
  refine (decodeWord_46 _ (fOp_encRr _ _ _ _ _ (by decide) (by decide))).trans ?_
  unfold dec46
  rw [fF_encRr _ _ _ _ _ (by decide) (by decide), fD_encRr _ _ _ _ _ (by decide) (by decide), fA_encRr _ _ _ _ _ (by decide) (by decide), fB_encRr _ _ _ _ _ (by decide) (by decide)]
  rfl
theorem vfsub (d : Reg) (a : Reg) (b : Reg) : Statement (.vfsub d a b) := by
  intro _ _
  refine (decodeWord_46 _ (fOp_encRr _ _ _ _ _ (by decide) (by decide))).trans ?_
  unfold dec46
  rw [fF_encRr _ _ _ _ _ (by decide) (by decide), fD_encRr _ _ _ _ _ (by decide) (by decide), fA_encRr _ _ _ _ _ (by decide) (by decide), fB_encRr _ _ _ _ _ (by decide) (by decide)]
  rfl
theorem vfmul (d : Reg) (a : Reg) (b : Reg) : Statement (.vfmul d a b) := by
  intro _ _
  refine (decodeWord_46 _ (fOp_encRr _ _ _ _ _ (by decide) (by decide))).trans ?_
  unfold dec46
  rw [fF_encRr _ _ _ _ _ (by decide) (by decide), fD_encRr _ _ _ _ _ (by decide) (by decide), fA_encRr _ _ _ _ _ (by decide) (by decide), fB_encRr _ _ _ _ _ (by decide) (by decide)]
  rfl
theorem vfdiv (d : Reg) (a : Reg) (b : Reg) : Statement (.vfdiv d a b) := by
  intro _ _
  refine (decodeWord_46 _ (fOp_encRr _ _ _ _ _ (by decide) (by decide))).trans ?_
  unfold dec46
  rw [fF_encRr _ _ _ _ _ (by decide) (by decide), fD_encRr _ _ _ _ _ (by decide) (by decide), fA_encRr _ _ _ _ _ (by decide) (by decide), fB_encRr _ _ _ _ _ (by decide) (by decide)]
  rfl
theorem vfmin (d : Reg) (a : Reg) (b : Reg) : Statement (.vfmin d a b) := by
  intro _ _
  refine (decodeWord_46 _ (fOp_encRr _ _ _ _ _ (by decide) (by decide))).trans ?_
  unfold dec46
  rw [fF_encRr _ _ _ _ _ (by decide) (by decide), fD_encRr _ _ _ _ _ (by decide) (by decide), fA_encRr _ _ _ _ _ (by decide) (by decide), fB_encRr _ _ _ _ _ (by decide) (by decide)]
  rfl
theorem vfmax (d : Reg) (a : Reg) (b : Reg) : Statement (.vfmax d a b) := by
  intro _ _
  refine (decodeWord_46 _ (fOp_encRr _ _ _ _ _ (by decide) (by decide))).trans ?_
  unfold dec46
  rw [fF_encRr _ _ _ _ _ (by decide) (by decide), fD_encRr _ _ _ _ _ (by decide) (by decide), fA_encRr _ _ _ _ _ (by decide) (by decide), fB_encRr _ _ _ _ _ (by decide) (by decide)]
  rfl
theorem vfcsign (d : Reg) (a : Reg) (b : Reg) : Statement (.vfcsign d a b) := by
  intro _ _
  refine (decodeWord_46 _ (fOp_encRr _ _ _ _ _ (by decide) (by decide))).trans ?_
  unfold dec46
  rw [fF_encRr _ _ _ _ _ (by decide) (by decide), fD_encRr _ _ _ _ _ (by decide) (by decide), fA_encRr _ _ _ _ _ (by decide) (by decide), fB_encRr _ _ _ _ _ (by decide) (by decide)]
  rfl
theorem vfnsign (d : Reg) (a : Reg) (b : Reg) : Statement (.vfnsign d a b) := by
  intro _ _
  refine (decodeWord_46 _ (fOp_encRr _ _ _ _ _ (by decide) (by decide))).trans ?_
  unfold dec46
  rw [fF_encRr _ _ _ _ _ (by decide) (by decide), fD_encRr _ _ _ _ _ (by decide) (by decide), fA_encRr _ _ _ _ _ (by decide) (by decide), fB_encRr _ _ _ _ _ (by decide) (by decide)]
  rfl
theorem vfaddS (d : Reg) (a : Reg) (b : Reg) : Statement (.vfaddS d a b) := by
  intro _ _
  refine (decodeWord_47 _ (fOp_encRr _ _ _ _ _ (by decide) (by decide))).trans ?_
  unfold dec47
  rw [fF_encRr _ _ _ _ _ (by decide) (by decide), fD_encRr _ _ _ _ _ (by decide) (by decide), fA_encRr _ _ _ _ _ (by decide) (by decide), fB_encRr _ _ _ _ _ (by decide) (by decide)]
  rfl
theorem vfsubS (d : Reg) (a : Reg) (b : Reg) : Statement (.vfsubS d a b) := by
  intro _ _
  refine (decodeWord_47 _ (fOp_encRr _ _ _ _ _ (by decide) (by decide))).trans ?_
  unfold dec47
  rw [fF_encRr _ _ _ _ _ (by decide) (by decide), fD_encRr _ _ _ _ _ (by decide) (by decide), fA_encRr _ _ _ _ _ (by decide) (by decide), fB_encRr _ _ _ _ _ (by decide) (by decide)]
  rfl
theorem vfmulS (d : Reg) (a : Reg) (b : Reg) : Statement (.vfmulS d a b) := by
  intro _ _
  refine (decodeWord_47 _ (fOp_encRr _ _ _ _ _ (by decide) (by decide))).trans ?_
  unfold dec47
  rw [fF_encRr _ _ _ _ _ (by decide) (by decide), fD_encRr _ _ _ _ _ (by decide) (by decide), fA_encRr _ _ _ _ _ (by decide) (by decide), fB_encRr _ _ _ _ _ (by decide) (by decide)]
  rfl
theorem vfdivS (d : Reg) (a : Reg) (b : Reg) : Statement (.vfdivS d a b) := by
  intro _ _
  refine (decodeWord_47 _ (fOp_encRr _ _ _ _ _ (by decide) (by decide))).trans ?_
  unfold dec47
  rw [fF_encRr _ _ _ _ _ (by decide) (by decide), fD_encRr _ _ _ _ _ (by decide) (by decide), fA_encRr _ _ _ _ _ (by decide) (by decide), fB_encRr _ _ _ _ _ (by decide) (by decide)]
  rfl
theorem vfminS (d : Reg) (a : Reg) (b : Reg) : Statement (.vfminS d a b) := by
  intro _ _
  refine (decodeWord_47 _ (fOp_encRr _ _ _ _ _ (by decide) (by decide))).trans ?_
  unfold dec47
  rw [fF_encRr _ _ _ _ _ (by decide) (by decide), fD_encRr _ _ _ _ _ (by decide) (by decide), fA_encRr _ _ _ _ _ (by decide) (by decide), fB_encRr _ _ _ _ _ (by decide) (by decide)]
  rfl
theorem vfmaxS (d : Reg) (a : Reg) (b : Reg) : Statement (.vfmaxS d a b) := by
  intro _ _
  refine (decodeWord_47 _ (fOp_encRr _ _ _ _ _ (by decide) (by decide))).trans ?_
  unfold dec47
  rw [fF_encRr _ _ _ _ _ (by decide) (by decide), fD_encRr _ _ _ _ _ (by decide) (by decide), fA_encRr _ _ _ _ _ (by decide) (by decide), fB_encRr _ _ _ _ _ (by decide) (by decide)]
  rfl
theorem vfcsignS (d : Reg) (a : Reg) (b : Reg) : Statement (.vfcsignS d a b) := by
  intro _ _
  refine (decodeWord_47 _ (fOp_encRr _ _ _ _ _ (by decide) (by decide))).trans ?_
  unfold dec47
  rw [fF_encRr _ _ _ _ _ (by decide) (by decide), fD_encRr _ _ _ _ _ (by decide) (by decide), fA_encRr _ _ _ _ _ (by decide) (by decide), fB_encRr _ _ _ _ _ (by decide) (by decide)]
  rfl
theorem vfnsignS (d : Reg) (a : Reg) (b : Reg) : Statement (.vfnsignS d a b) := by
  intro _ _
  refine (decodeWord_47 _ (fOp_encRr _ _ _ _ _ (by decide) (by decide))).trans ?_
  unfold dec47
  rw [fF_encRr _ _ _ _ _ (by decide) (by decide), fD_encRr _ _ _ _ _ (by decide) (by decide), fA_encRr _ _ _ _ _ (by decide) (by decide), fB_encRr _ _ _ _ _ (by decide) (by decide)]
  rfl
theorem vfma (d : Reg) (a : Reg) (b : Reg) : Statement (.vfma d a b) := by
  intro _ _
  refine (decodeWord_48 _ (fOp_encRr _ _ _ _ _ (by decide) (by decide))).trans ?_
  unfold dec48
  rw [fF_encRr _ _ _ _ _ (by decide) (by decide), fD_encRr _ _ _ _ _ (by decide) (by decide), fA_encRr _ _ _ _ _ (by decide) (by decide), fB_encRr _ _ _ _ _ (by decide) (by decide)]
  rfl
theorem vfms (d : Reg) (a : Reg) (b : Reg) : Statement (.vfms d a b) := by
  intro _ _
  refine (decodeWord_48 _ (fOp_encRr _ _ _ _ _ (by decide) (by decide))).trans ?_
  unfold dec48
  rw [fF_encRr _ _ _ _ _ (by decide) (by decide), fD_encRr _ _ _ _ _ (by decide) (by decide), fA_encRr _ _ _ _ _ (by decide) (by decide), fB_encRr _ _ _ _ _ (by decide) (by decide)]
  rfl
theorem vfnma (d : Reg) (a : Reg) (b : Reg) : Statement (.vfnma d a b) := by
  intro _ _
  refine (decodeWord_48 _ (fOp_encRr _ _ _ _ _ (by decide) (by decide))).trans ?_
  unfold dec48
  rw [fF_encRr _ _ _ _ _ (by decide) (by decide), fD_encRr _ _ _ _ _ (by decide) (by decide), fA_encRr _ _ _ _ _ (by decide) (by decide), fB_encRr _ _ _ _ _ (by decide) (by decide)]
  rfl
theorem vfnms (d : Reg) (a : Reg) (b : Reg) : Statement (.vfnms d a b) := by
  intro _ _
  refine (decodeWord_48 _ (fOp_encRr _ _ _ _ _ (by decide) (by decide))).trans ?_
  unfold dec48
  rw [fF_encRr _ _ _ _ _ (by decide) (by decide), fD_encRr _ _ _ _ _ (by decide) (by decide), fA_encRr _ _ _ _ _ (by decide) (by decide), fB_encRr _ _ _ _ _ (by decide) (by decide)]
  rfl
theorem vfmaS (d : Reg) (a : Reg) (b : Reg) : Statement (.vfmaS d a b) := by
  intro _ _
  refine (decodeWord_48 _ (fOp_encRr _ _ _ _ _ (by decide) (by decide))).trans ?_
  unfold dec48
  rw [fF_encRr _ _ _ _ _ (by decide) (by decide), fD_encRr _ _ _ _ _ (by decide) (by decide), fA_encRr _ _ _ _ _ (by decide) (by decide), fB_encRr _ _ _ _ _ (by decide) (by decide)]
  rfl
theorem vfmsS (d : Reg) (a : Reg) (b : Reg) : Statement (.vfmsS d a b) := by
  intro _ _
  refine (decodeWord_48 _ (fOp_encRr _ _ _ _ _ (by decide) (by decide))).trans ?_
  unfold dec48
  rw [fF_encRr _ _ _ _ _ (by decide) (by decide), fD_encRr _ _ _ _ _ (by decide) (by decide), fA_encRr _ _ _ _ _ (by decide) (by decide), fB_encRr _ _ _ _ _ (by decide) (by decide)]
  rfl
theorem vfnmaS (d : Reg) (a : Reg) (b : Reg) : Statement (.vfnmaS d a b) := by
  intro _ _
  refine (decodeWord_48 _ (fOp_encRr _ _ _ _ _ (by decide) (by decide))).trans ?_
  unfold dec48
  rw [fF_encRr _ _ _ _ _ (by decide) (by decide), fD_encRr _ _ _ _ _ (by decide) (by decide), fA_encRr _ _ _ _ _ (by decide) (by decide), fB_encRr _ _ _ _ _ (by decide) (by decide)]
  rfl
theorem vfnmsS (d : Reg) (a : Reg) (b : Reg) : Statement (.vfnmsS d a b) := by
  intro _ _
  refine (decodeWord_48 _ (fOp_encRr _ _ _ _ _ (by decide) (by decide))).trans ?_
  unfold dec48
  rw [fF_encRr _ _ _ _ _ (by decide) (by decide), fD_encRr _ _ _ _ _ (by decide) (by decide), fA_encRr _ _ _ _ _ (by decide) (by decide), fB_encRr _ _ _ _ _ (by decide) (by decide)]
  rfl
theorem vfabs (d : Reg) (a : Reg) : Statement (.vfabs d a) := by
  intro _ _
  refine (decodeWord_49 _ (fOp_encRr _ _ _ _ _ (by decide) (by decide))).trans ?_
  unfold dec49
  rw [fF_encRr _ _ _ _ _ (by decide) (by decide), fD_encRr _ _ _ _ _ (by decide) (by decide), fA_encRr _ _ _ _ _ (by decide) (by decide), fB_encRr _ _ _ _ _ (by decide) (by decide)]
  rfl
theorem vfneg (d : Reg) (a : Reg) : Statement (.vfneg d a) := by
  intro _ _
  refine (decodeWord_49 _ (fOp_encRr _ _ _ _ _ (by decide) (by decide))).trans ?_
  unfold dec49
  rw [fF_encRr _ _ _ _ _ (by decide) (by decide), fD_encRr _ _ _ _ _ (by decide) (by decide), fA_encRr _ _ _ _ _ (by decide) (by decide), fB_encRr _ _ _ _ _ (by decide) (by decide)]
  rfl
theorem vfsqrt (d : Reg) (a : Reg) : Statement (.vfsqrt d a) := by
  intro _ _
  refine (decodeWord_49 _ (fOp_encRr _ _ _ _ _ (by decide) (by decide))).trans ?_
  unfold dec49
  rw [fF_encRr _ _ _ _ _ (by decide) (by decide), fD_encRr _ _ _ _ _ (by decide) (by decide), fA_encRr _ _ _ _ _ (by decide) (by decide), fB_encRr _ _ _ _ _ (by decide) (by decide)]
  rfl
theorem vexp2 (d : Reg) (a : Reg) : Statement (.vexp2 d a) := by
  intro _ _
  refine (decodeWord_49 _ (fOp_encRr _ _ _ _ _ (by decide) (by decide))).trans ?_
  unfold dec49
  rw [fF_encRr _ _ _ _ _ (by decide) (by decide), fD_encRr _ _ _ _ _ (by decide) (by decide), fA_encRr _ _ _ _ _ (by decide) (by decide), fB_encRr _ _ _ _ _ (by decide) (by decide)]
  rfl
theorem vlog2 (d : Reg) (a : Reg) : Statement (.vlog2 d a) := by
  intro _ _
  refine (decodeWord_49 _ (fOp_encRr _ _ _ _ _ (by decide) (by decide))).trans ?_
  unfold dec49
  rw [fF_encRr _ _ _ _ _ (by decide) (by decide), fD_encRr _ _ _ _ _ (by decide) (by decide), fA_encRr _ _ _ _ _ (by decide) (by decide), fB_encRr _ _ _ _ _ (by decide) (by decide)]
  rfl
theorem vrcp (d : Reg) (a : Reg) : Statement (.vrcp d a) := by
  intro _ _
  refine (decodeWord_49 _ (fOp_encRr _ _ _ _ _ (by decide) (by decide))).trans ?_
  unfold dec49
  rw [fF_encRr _ _ _ _ _ (by decide) (by decide), fD_encRr _ _ _ _ _ (by decide) (by decide), fA_encRr _ _ _ _ _ (by decide) (by decide), fB_encRr _ _ _ _ _ (by decide) (by decide)]
  rfl
theorem vrsq (d : Reg) (a : Reg) : Statement (.vrsq d a) := by
  intro _ _
  refine (decodeWord_49 _ (fOp_encRr _ _ _ _ _ (by decide) (by decide))).trans ?_
  unfold dec49
  rw [fF_encRr _ _ _ _ _ (by decide) (by decide), fD_encRr _ _ _ _ _ (by decide) (by decide), fA_encRr _ _ _ _ _ (by decide) (by decide), fB_encRr _ _ _ _ _ (by decide) (by decide)]
  rfl
theorem vfrint (d : Reg) (a : Reg) : Statement (.vfrint d a) := by
  intro _ _
  refine (decodeWord_49 _ (fOp_encRr _ _ _ _ _ (by decide) (by decide))).trans ?_
  unfold dec49
  rw [fF_encRr _ _ _ _ _ (by decide) (by decide), fD_encRr _ _ _ _ _ (by decide) (by decide), fA_encRr _ _ _ _ _ (by decide) (by decide), fB_encRr _ _ _ _ _ (by decide) (by decide)]
  rfl
theorem vfclass (d : Reg) (a : Reg) : Statement (.vfclass d a) := by
  intro _ _
  refine (decodeWord_49 _ (fOp_encRr _ _ _ _ _ (by decide) (by decide))).trans ?_
  unfold dec49
  rw [fF_encRr _ _ _ _ _ (by decide) (by decide), fD_encRr _ _ _ _ _ (by decide) (by decide), fA_encRr _ _ _ _ _ (by decide) (by decide), fB_encRr _ _ _ _ _ (by decide) (by decide)]
  rfl
theorem vfcmpFeq (d : Reg) (a : Reg) (b : Reg) : Statement (.vfcmpFeq d a b) := by
  intro h _
  simp only [Instr.wf, tripleOk, pairOk, Bool.and_eq_true, decide_eq_true_eq] at h
  (refine (decodeWord_4A _ (fOp_encRr _ _ _ _ _ (by decide) (by decide))).trans ?_; simp [h, dec4A, zero, triple, casPair, scopeOf, Scope.code, PfLevel.code, fF_encRr, fD_encRr, fA_encRr, fB_encRr])
theorem vfcmpFlt (d : Reg) (a : Reg) (b : Reg) : Statement (.vfcmpFlt d a b) := by
  intro h _
  simp only [Instr.wf, tripleOk, pairOk, Bool.and_eq_true, decide_eq_true_eq] at h
  (refine (decodeWord_4A _ (fOp_encRr _ _ _ _ _ (by decide) (by decide))).trans ?_; simp [h, dec4A, zero, triple, casPair, scopeOf, Scope.code, PfLevel.code, fF_encRr, fD_encRr, fA_encRr, fB_encRr])
theorem vfcmpFle (d : Reg) (a : Reg) (b : Reg) : Statement (.vfcmpFle d a b) := by
  intro h _
  simp only [Instr.wf, tripleOk, pairOk, Bool.and_eq_true, decide_eq_true_eq] at h
  (refine (decodeWord_4A _ (fOp_encRr _ _ _ _ _ (by decide) (by decide))).trans ?_; simp [h, dec4A, zero, triple, casPair, scopeOf, Scope.code, PfLevel.code, fF_encRr, fD_encRr, fA_encRr, fB_encRr])
theorem vfcmpFun (d : Reg) (a : Reg) (b : Reg) : Statement (.vfcmpFun d a b) := by
  intro h _
  simp only [Instr.wf, tripleOk, pairOk, Bool.and_eq_true, decide_eq_true_eq] at h
  (refine (decodeWord_4A _ (fOp_encRr _ _ _ _ _ (by decide) (by decide))).trans ?_; simp [h, dec4A, zero, triple, casPair, scopeOf, Scope.code, PfLevel.code, fF_encRr, fD_encRr, fA_encRr, fB_encRr])
theorem vfcmpFeqS (d : Reg) (a : Reg) (b : Reg) : Statement (.vfcmpFeqS d a b) := by
  intro h _
  simp only [Instr.wf, tripleOk, pairOk, Bool.and_eq_true, decide_eq_true_eq] at h
  (refine (decodeWord_4B _ (fOp_encRr _ _ _ _ _ (by decide) (by decide))).trans ?_; simp [h, dec4B, zero, triple, casPair, scopeOf, Scope.code, PfLevel.code, fF_encRr, fD_encRr, fA_encRr, fB_encRr])
theorem vfcmpFltS (d : Reg) (a : Reg) (b : Reg) : Statement (.vfcmpFltS d a b) := by
  intro h _
  simp only [Instr.wf, tripleOk, pairOk, Bool.and_eq_true, decide_eq_true_eq] at h
  (refine (decodeWord_4B _ (fOp_encRr _ _ _ _ _ (by decide) (by decide))).trans ?_; simp [h, dec4B, zero, triple, casPair, scopeOf, Scope.code, PfLevel.code, fF_encRr, fD_encRr, fA_encRr, fB_encRr])
theorem vfcmpFleS (d : Reg) (a : Reg) (b : Reg) : Statement (.vfcmpFleS d a b) := by
  intro h _
  simp only [Instr.wf, tripleOk, pairOk, Bool.and_eq_true, decide_eq_true_eq] at h
  (refine (decodeWord_4B _ (fOp_encRr _ _ _ _ _ (by decide) (by decide))).trans ?_; simp [h, dec4B, zero, triple, casPair, scopeOf, Scope.code, PfLevel.code, fF_encRr, fD_encRr, fA_encRr, fB_encRr])
theorem vfcmpFunS (d : Reg) (a : Reg) (b : Reg) : Statement (.vfcmpFunS d a b) := by
  intro h _
  simp only [Instr.wf, tripleOk, pairOk, Bool.and_eq_true, decide_eq_true_eq] at h
  (refine (decodeWord_4B _ (fOp_encRr _ _ _ _ _ (by decide) (by decide))).trans ?_; simp [h, dec4B, zero, triple, casPair, scopeOf, Scope.code, PfLevel.code, fF_encRr, fD_encRr, fA_encRr, fB_encRr])
theorem vcvtI32F32 (d : Reg) (a : Reg) : Statement (.vcvtI32F32 d a) := by
  intro _ _
  refine (decodeWord_4C _ (fOp_encRr _ _ _ _ _ (by decide) (by decide))).trans ?_
  unfold dec4C
  rw [fF_encRr _ _ _ _ _ (by decide) (by decide), fD_encRr _ _ _ _ _ (by decide) (by decide), fA_encRr _ _ _ _ _ (by decide) (by decide), fB_encRr _ _ _ _ _ (by decide) (by decide)]
  rfl
theorem vcvtF32I32 (d : Reg) (a : Reg) : Statement (.vcvtF32I32 d a) := by
  intro _ _
  refine (decodeWord_4C _ (fOp_encRr _ _ _ _ _ (by decide) (by decide))).trans ?_
  unfold dec4C
  rw [fF_encRr _ _ _ _ _ (by decide) (by decide), fD_encRr _ _ _ _ _ (by decide) (by decide), fA_encRr _ _ _ _ _ (by decide) (by decide), fB_encRr _ _ _ _ _ (by decide) (by decide)]
  rfl
theorem vcvtN32F32 (d : Reg) (a : Reg) : Statement (.vcvtN32F32 d a) := by
  intro _ _
  refine (decodeWord_4C _ (fOp_encRr _ _ _ _ _ (by decide) (by decide))).trans ?_
  unfold dec4C
  rw [fF_encRr _ _ _ _ _ (by decide) (by decide), fD_encRr _ _ _ _ _ (by decide) (by decide), fA_encRr _ _ _ _ _ (by decide) (by decide), fB_encRr _ _ _ _ _ (by decide) (by decide)]
  rfl
theorem vcvtF32N32 (d : Reg) (a : Reg) : Statement (.vcvtF32N32 d a) := by
  intro _ _
  refine (decodeWord_4C _ (fOp_encRr _ _ _ _ _ (by decide) (by decide))).trans ?_
  unfold dec4C
  rw [fF_encRr _ _ _ _ _ (by decide) (by decide), fD_encRr _ _ _ _ _ (by decide) (by decide), fA_encRr _ _ _ _ _ (by decide) (by decide), fB_encRr _ _ _ _ _ (by decide) (by decide)]
  rfl
theorem vcvtBf16F32 (d : Reg) (a : Reg) : Statement (.vcvtBf16F32 d a) := by
  intro _ _
  refine (decodeWord_4C _ (fOp_encRr _ _ _ _ _ (by decide) (by decide))).trans ?_
  unfold dec4C
  rw [fF_encRr _ _ _ _ _ (by decide) (by decide), fD_encRr _ _ _ _ _ (by decide) (by decide), fA_encRr _ _ _ _ _ (by decide) (by decide), fB_encRr _ _ _ _ _ (by decide) (by decide)]
  rfl
theorem vcvtF32Bf16 (d : Reg) (a : Reg) : Statement (.vcvtF32Bf16 d a) := by
  intro _ _
  refine (decodeWord_4C _ (fOp_encRr _ _ _ _ _ (by decide) (by decide))).trans ?_
  unfold dec4C
  rw [fF_encRr _ _ _ _ _ (by decide) (by decide), fD_encRr _ _ _ _ _ (by decide) (by decide), fA_encRr _ _ _ _ _ (by decide) (by decide), fB_encRr _ _ _ _ _ (by decide) (by decide)]
  rfl
theorem vcvtF16F32 (d : Reg) (a : Reg) : Statement (.vcvtF16F32 d a) := by
  intro _ _
  refine (decodeWord_4C _ (fOp_encRr _ _ _ _ _ (by decide) (by decide))).trans ?_
  unfold dec4C
  rw [fF_encRr _ _ _ _ _ (by decide) (by decide), fD_encRr _ _ _ _ _ (by decide) (by decide), fA_encRr _ _ _ _ _ (by decide) (by decide), fB_encRr _ _ _ _ _ (by decide) (by decide)]
  rfl
theorem vcvtF32F16 (d : Reg) (a : Reg) : Statement (.vcvtF32F16 d a) := by
  intro _ _
  refine (decodeWord_4C _ (fOp_encRr _ _ _ _ _ (by decide) (by decide))).trans ?_
  unfold dec4C
  rw [fF_encRr _ _ _ _ _ (by decide) (by decide), fD_encRr _ _ _ _ _ (by decide) (by decide), fA_encRr _ _ _ _ _ (by decide) (by decide), fB_encRr _ _ _ _ _ (by decide) (by decide)]
  rfl
theorem vcvtE4m3F32 (d : Reg) (a : Reg) : Statement (.vcvtE4m3F32 d a) := by
  intro _ _
  refine (decodeWord_4C _ (fOp_encRr _ _ _ _ _ (by decide) (by decide))).trans ?_
  unfold dec4C
  rw [fF_encRr _ _ _ _ _ (by decide) (by decide), fD_encRr _ _ _ _ _ (by decide) (by decide), fA_encRr _ _ _ _ _ (by decide) (by decide), fB_encRr _ _ _ _ _ (by decide) (by decide)]
  rfl
theorem vcvtF32E4m3 (d : Reg) (a : Reg) : Statement (.vcvtF32E4m3 d a) := by
  intro _ _
  refine (decodeWord_4C _ (fOp_encRr _ _ _ _ _ (by decide) (by decide))).trans ?_
  unfold dec4C
  rw [fF_encRr _ _ _ _ _ (by decide) (by decide), fD_encRr _ _ _ _ _ (by decide) (by decide), fA_encRr _ _ _ _ _ (by decide) (by decide), fB_encRr _ _ _ _ _ (by decide) (by decide)]
  rfl
theorem vcvtE5m2F32 (d : Reg) (a : Reg) : Statement (.vcvtE5m2F32 d a) := by
  intro _ _
  refine (decodeWord_4C _ (fOp_encRr _ _ _ _ _ (by decide) (by decide))).trans ?_
  unfold dec4C
  rw [fF_encRr _ _ _ _ _ (by decide) (by decide), fD_encRr _ _ _ _ _ (by decide) (by decide), fA_encRr _ _ _ _ _ (by decide) (by decide), fB_encRr _ _ _ _ _ (by decide) (by decide)]
  rfl
theorem vcvtF32E5m2 (d : Reg) (a : Reg) : Statement (.vcvtF32E5m2 d a) := by
  intro _ _
  refine (decodeWord_4C _ (fOp_encRr _ _ _ _ _ (by decide) (by decide))).trans ?_
  unfold dec4C
  rw [fF_encRr _ _ _ _ _ (by decide) (by decide), fD_encRr _ _ _ _ _ (by decide) (by decide), fA_encRr _ _ _ _ _ (by decide) (by decide), fB_encRr _ _ _ _ _ (by decide) (by decide)]
  rfl
theorem vcvtBf16x2F32 (d : Reg) (a : Reg) : Statement (.vcvtBf16x2F32 d a) := by
  intro _ _
  refine (decodeWord_4C _ (fOp_encRr _ _ _ _ _ (by decide) (by decide))).trans ?_
  unfold dec4C
  rw [fF_encRr _ _ _ _ _ (by decide) (by decide), fD_encRr _ _ _ _ _ (by decide) (by decide), fA_encRr _ _ _ _ _ (by decide) (by decide), fB_encRr _ _ _ _ _ (by decide) (by decide)]
  rfl
theorem vcvtF16x2F32 (d : Reg) (a : Reg) : Statement (.vcvtF16x2F32 d a) := by
  intro _ _
  refine (decodeWord_4C _ (fOp_encRr _ _ _ _ _ (by decide) (by decide))).trans ?_
  unfold dec4C
  rw [fF_encRr _ _ _ _ _ (by decide) (by decide), fD_encRr _ _ _ _ _ (by decide) (by decide), fA_encRr _ _ _ _ _ (by decide) (by decide), fB_encRr _ _ _ _ _ (by decide) (by decide)]
  rfl
theorem vcvtI8I32 (d : Reg) (a : Reg) : Statement (.vcvtI8I32 d a) := by
  intro _ _
  refine (decodeWord_4C _ (fOp_encRr _ _ _ _ _ (by decide) (by decide))).trans ?_
  unfold dec4C
  rw [fF_encRr _ _ _ _ _ (by decide) (by decide), fD_encRr _ _ _ _ _ (by decide) (by decide), fA_encRr _ _ _ _ _ (by decide) (by decide), fB_encRr _ _ _ _ _ (by decide) (by decide)]
  rfl
theorem vmov (d : Reg) (a : Reg) : Statement (.vmov d a) := by
  intro _ _
  refine (decodeWord_4D _ (fOp_encRr _ _ _ _ _ (by decide) (by decide))).trans ?_
  unfold dec4D
  rw [fF_encRr _ _ _ _ _ (by decide) (by decide), fD_encRr _ _ _ _ _ (by decide) (by decide), fA_encRr _ _ _ _ _ (by decide) (by decide), fB_encRr _ _ _ _ _ (by decide) (by decide)]
  rfl
theorem vbcs (d : Reg) (a : Reg) : Statement (.vbcs d a) := by
  intro _ _
  refine (decodeWord_4D _ (fOp_encRr _ _ _ _ _ (by decide) (by decide))).trans ?_
  unfold dec4D
  rw [fF_encRr _ _ _ _ _ (by decide) (by decide), fD_encRr _ _ _ _ _ (by decide) (by decide), fA_encRr _ _ _ _ _ (by decide) (by decide), fB_encRr _ _ _ _ _ (by decide) (by decide)]
  rfl
theorem vext (d : Reg) (a : Reg) (b : Reg) : Statement (.vext d a b) := by
  intro _ _
  refine (decodeWord_4D _ (fOp_encRr _ _ _ _ _ (by decide) (by decide))).trans ?_
  unfold dec4D
  rw [fF_encRr _ _ _ _ _ (by decide) (by decide), fD_encRr _ _ _ _ _ (by decide) (by decide), fA_encRr _ _ _ _ _ (by decide) (by decide), fB_encRr _ _ _ _ _ (by decide) (by decide)]
  rfl
theorem vins (d : Reg) (a : Reg) (b : Reg) : Statement (.vins d a b) := by
  intro _ _
  refine (decodeWord_4D _ (fOp_encRr _ _ _ _ _ (by decide) (by decide))).trans ?_
  unfold dec4D
  rw [fF_encRr _ _ _ _ _ (by decide) (by decide), fD_encRr _ _ _ _ _ (by decide) (by decide), fA_encRr _ _ _ _ _ (by decide) (by decide), fB_encRr _ _ _ _ _ (by decide) (by decide)]
  rfl
theorem vlid (d : Reg) : Statement (.vlid d) := by
  intro _ _
  refine (decodeWord_4D _ (fOp_encRr _ _ _ _ _ (by decide) (by decide))).trans ?_
  unfold dec4D
  rw [fF_encRr _ _ _ _ _ (by decide) (by decide), fD_encRr _ _ _ _ _ (by decide) (by decide), fA_encRr _ _ _ _ _ (by decide) (by decide), fB_encRr _ _ _ _ _ (by decide) (by decide)]
  rfl
theorem vperm (d : Reg) (a : Reg) (b : Reg) : Statement (.vperm d a b) := by
  intro _ _
  refine (decodeWord_4D _ (fOp_encRr _ _ _ _ _ (by decide) (by decide))).trans ?_
  unfold dec4D
  rw [fF_encRr _ _ _ _ _ (by decide) (by decide), fD_encRr _ _ _ _ _ (by decide) (by decide), fA_encRr _ _ _ _ _ (by decide) (by decide), fB_encRr _ _ _ _ _ (by decide) (by decide)]
  rfl
theorem vslup (d : Reg) (a : Reg) (b : Reg) : Statement (.vslup d a b) := by
  intro _ _
  refine (decodeWord_4D _ (fOp_encRr _ _ _ _ _ (by decide) (by decide))).trans ?_
  unfold dec4D
  rw [fF_encRr _ _ _ _ _ (by decide) (by decide), fD_encRr _ _ _ _ _ (by decide) (by decide), fA_encRr _ _ _ _ _ (by decide) (by decide), fB_encRr _ _ _ _ _ (by decide) (by decide)]
  rfl
theorem vsldn (d : Reg) (a : Reg) (b : Reg) : Statement (.vsldn d a b) := by
  intro _ _
  refine (decodeWord_4D _ (fOp_encRr _ _ _ _ _ (by decide) (by decide))).trans ?_
  unfold dec4D
  rw [fF_encRr _ _ _ _ _ (by decide) (by decide), fD_encRr _ _ _ _ _ (by decide) (by decide), fA_encRr _ _ _ _ _ (by decide) (by decide), fB_encRr _ _ _ _ _ (by decide) (by decide)]
  rfl
theorem vmrg (d : Reg) (a : Reg) (b : Reg) : Statement (.vmrg d a b) := by
  intro _ _
  refine (decodeWord_4D _ (fOp_encRr _ _ _ _ _ (by decide) (by decide))).trans ?_
  unfold dec4D
  rw [fF_encRr _ _ _ _ _ (by decide) (by decide), fD_encRr _ _ _ _ _ (by decide) (by decide), fA_encRr _ _ _ _ _ (by decide) (by decide), fB_encRr _ _ _ _ _ (by decide) (by decide)]
  rfl
theorem vfree (d : Reg) : Statement (.vfree d) := by
  intro _ _
  refine (decodeWord_4D _ (fOp_encRr _ _ _ _ _ (by decide) (by decide))).trans ?_
  unfold dec4D
  rw [fF_encRr _ _ _ _ _ (by decide) (by decide), fD_encRr _ _ _ _ _ (by decide) (by decide), fA_encRr _ _ _ _ _ (by decide) (by decide), fB_encRr _ _ _ _ _ (by decide) (by decide)]
  rfl
theorem vradd (d : Reg) (a : Reg) : Statement (.vradd d a) := by
  intro _ _
  refine (decodeWord_4E _ (fOp_encRr _ _ _ _ _ (by decide) (by decide))).trans ?_
  unfold dec4E
  rw [fF_encRr _ _ _ _ _ (by decide) (by decide), fD_encRr _ _ _ _ _ (by decide) (by decide), fA_encRr _ _ _ _ _ (by decide) (by decide), fB_encRr _ _ _ _ _ (by decide) (by decide)]
  rfl
theorem vrmin (d : Reg) (a : Reg) : Statement (.vrmin d a) := by
  intro _ _
  refine (decodeWord_4E _ (fOp_encRr _ _ _ _ _ (by decide) (by decide))).trans ?_
  unfold dec4E
  rw [fF_encRr _ _ _ _ _ (by decide) (by decide), fD_encRr _ _ _ _ _ (by decide) (by decide), fA_encRr _ _ _ _ _ (by decide) (by decide), fB_encRr _ _ _ _ _ (by decide) (by decide)]
  rfl
theorem vrmax (d : Reg) (a : Reg) : Statement (.vrmax d a) := by
  intro _ _
  refine (decodeWord_4E _ (fOp_encRr _ _ _ _ _ (by decide) (by decide))).trans ?_
  unfold dec4E
  rw [fF_encRr _ _ _ _ _ (by decide) (by decide), fD_encRr _ _ _ _ _ (by decide) (by decide), fA_encRr _ _ _ _ _ (by decide) (by decide), fB_encRr _ _ _ _ _ (by decide) (by decide)]
  rfl
theorem vrminu (d : Reg) (a : Reg) : Statement (.vrminu d a) := by
  intro _ _
  refine (decodeWord_4E _ (fOp_encRr _ _ _ _ _ (by decide) (by decide))).trans ?_
  unfold dec4E
  rw [fF_encRr _ _ _ _ _ (by decide) (by decide), fD_encRr _ _ _ _ _ (by decide) (by decide), fA_encRr _ _ _ _ _ (by decide) (by decide), fB_encRr _ _ _ _ _ (by decide) (by decide)]
  rfl
theorem vrmaxu (d : Reg) (a : Reg) : Statement (.vrmaxu d a) := by
  intro _ _
  refine (decodeWord_4E _ (fOp_encRr _ _ _ _ _ (by decide) (by decide))).trans ?_
  unfold dec4E
  rw [fF_encRr _ _ _ _ _ (by decide) (by decide), fD_encRr _ _ _ _ _ (by decide) (by decide), fA_encRr _ _ _ _ _ (by decide) (by decide), fB_encRr _ _ _ _ _ (by decide) (by decide)]
  rfl
theorem vrand (d : Reg) (a : Reg) : Statement (.vrand d a) := by
  intro _ _
  refine (decodeWord_4E _ (fOp_encRr _ _ _ _ _ (by decide) (by decide))).trans ?_
  unfold dec4E
  rw [fF_encRr _ _ _ _ _ (by decide) (by decide), fD_encRr _ _ _ _ _ (by decide) (by decide), fA_encRr _ _ _ _ _ (by decide) (by decide), fB_encRr _ _ _ _ _ (by decide) (by decide)]
  rfl
theorem vror (d : Reg) (a : Reg) : Statement (.vror d a) := by
  intro _ _
  refine (decodeWord_4E _ (fOp_encRr _ _ _ _ _ (by decide) (by decide))).trans ?_
  unfold dec4E
  rw [fF_encRr _ _ _ _ _ (by decide) (by decide), fD_encRr _ _ _ _ _ (by decide) (by decide), fA_encRr _ _ _ _ _ (by decide) (by decide), fB_encRr _ _ _ _ _ (by decide) (by decide)]
  rfl
theorem vrxor (d : Reg) (a : Reg) : Statement (.vrxor d a) := by
  intro _ _
  refine (decodeWord_4E _ (fOp_encRr _ _ _ _ _ (by decide) (by decide))).trans ?_
  unfold dec4E
  rw [fF_encRr _ _ _ _ _ (by decide) (by decide), fD_encRr _ _ _ _ _ (by decide) (by decide), fA_encRr _ _ _ _ _ (by decide) (by decide), fB_encRr _ _ _ _ _ (by decide) (by decide)]
  rfl
theorem vrfadd (d : Reg) (a : Reg) : Statement (.vrfadd d a) := by
  intro _ _
  refine (decodeWord_4E _ (fOp_encRr _ _ _ _ _ (by decide) (by decide))).trans ?_
  unfold dec4E
  rw [fF_encRr _ _ _ _ _ (by decide) (by decide), fD_encRr _ _ _ _ _ (by decide) (by decide), fA_encRr _ _ _ _ _ (by decide) (by decide), fB_encRr _ _ _ _ _ (by decide) (by decide)]
  rfl
theorem vrfmin (d : Reg) (a : Reg) : Statement (.vrfmin d a) := by
  intro _ _
  refine (decodeWord_4E _ (fOp_encRr _ _ _ _ _ (by decide) (by decide))).trans ?_
  unfold dec4E
  rw [fF_encRr _ _ _ _ _ (by decide) (by decide), fD_encRr _ _ _ _ _ (by decide) (by decide), fA_encRr _ _ _ _ _ (by decide) (by decide), fB_encRr _ _ _ _ _ (by decide) (by decide)]
  rfl
theorem vrfmax (d : Reg) (a : Reg) : Statement (.vrfmax d a) := by
  intro _ _
  refine (decodeWord_4E _ (fOp_encRr _ _ _ _ _ (by decide) (by decide))).trans ?_
  unfold dec4E
  rw [fF_encRr _ _ _ _ _ (by decide) (by decide), fD_encRr _ _ _ _ _ (by decide) (by decide), fA_encRr _ _ _ _ _ (by decide) (by decide), fB_encRr _ _ _ _ _ (by decide) (by decide)]
  rfl
theorem vsadd (d : Reg) (a : Reg) : Statement (.vsadd d a) := by
  intro _ _
  refine (decodeWord_4F _ (fOp_encRr _ _ _ _ _ (by decide) (by decide))).trans ?_
  unfold dec4F
  rw [fF_encRr _ _ _ _ _ (by decide) (by decide), fD_encRr _ _ _ _ _ (by decide) (by decide), fA_encRr _ _ _ _ _ (by decide) (by decide), fB_encRr _ _ _ _ _ (by decide) (by decide)]
  rfl
theorem vsaddx (d : Reg) (a : Reg) : Statement (.vsaddx d a) := by
  intro _ _
  refine (decodeWord_4F _ (fOp_encRr _ _ _ _ _ (by decide) (by decide))).trans ?_
  unfold dec4F
  rw [fF_encRr _ _ _ _ _ (by decide) (by decide), fD_encRr _ _ _ _ _ (by decide) (by decide), fA_encRr _ _ _ _ _ (by decide) (by decide), fB_encRr _ _ _ _ _ (by decide) (by decide)]
  rfl
theorem vsfadd (d : Reg) (a : Reg) : Statement (.vsfadd d a) := by
  intro _ _
  refine (decodeWord_4F _ (fOp_encRr _ _ _ _ _ (by decide) (by decide))).trans ?_
  unfold dec4F
  rw [fF_encRr _ _ _ _ _ (by decide) (by decide), fD_encRr _ _ _ _ _ (by decide) (by decide), fA_encRr _ _ _ _ _ (by decide) (by decide), fB_encRr _ _ _ _ _ (by decide) (by decide)]
  rfl
theorem vsmax (d : Reg) (a : Reg) : Statement (.vsmax d a) := by
  intro _ _
  refine (decodeWord_4F _ (fOp_encRr _ _ _ _ _ (by decide) (by decide))).trans ?_
  unfold dec4F
  rw [fF_encRr _ _ _ _ _ (by decide) (by decide), fD_encRr _ _ _ _ _ (by decide) (by decide), fA_encRr _ _ _ _ _ (by decide) (by decide), fB_encRr _ _ _ _ _ (by decide) (by decide)]
  rfl
theorem vsmin (d : Reg) (a : Reg) : Statement (.vsmin d a) := by
  intro _ _
  refine (decodeWord_4F _ (fOp_encRr _ _ _ _ _ (by decide) (by decide))).trans ?_
  unfold dec4F
  rw [fF_encRr _ _ _ _ _ (by decide) (by decide), fD_encRr _ _ _ _ _ (by decide) (by decide), fA_encRr _ _ _ _ _ (by decide) (by decide), fB_encRr _ _ _ _ _ (by decide) (by decide)]
  rfl
theorem vhcrc (d : Reg) (a : Reg) (b : Reg) : Statement (.vhcrc d a b) := by
  intro _ _
  refine (decodeWord_50 _ (fOp_encRr _ _ _ _ _ (by decide) (by decide))).trans ?_
  unfold dec50
  rw [fF_encRr _ _ _ _ _ (by decide) (by decide), fD_encRr _ _ _ _ _ (by decide) (by decide), fA_encRr _ _ _ _ _ (by decide) (by decide), fB_encRr _ _ _ _ _ (by decide) (by decide)]
  rfl
theorem vhmix (d : Reg) (a : Reg) (b : Reg) : Statement (.vhmix d a b) := by
  intro _ _
  refine (decodeWord_50 _ (fOp_encRr _ _ _ _ _ (by decide) (by decide))).trans ?_
  unfold dec50
  rw [fF_encRr _ _ _ _ _ (by decide) (by decide), fD_encRr _ _ _ _ _ (by decide) (by decide), fA_encRr _ _ _ _ _ (by decide) (by decide), fB_encRr _ _ _ _ _ (by decide) (by decide)]
  rfl
theorem vpart (d : Reg) (a : Reg) (b : Reg) : Statement (.vpart d a b) := by
  intro _ _
  refine (decodeWord_50 _ (fOp_encRr _ _ _ _ _ (by decide) (by decide))).trans ?_
  unfold dec50
  rw [fF_encRr _ _ _ _ _ (by decide) (by decide), fD_encRr _ _ _ _ _ (by decide) (by decide), fA_encRr _ _ _ _ _ (by decide) (by decide), fB_encRr _ _ _ _ _ (by decide) (by decide)]
  rfl
theorem vbeq (d : Reg) (a : Reg) (b : Reg) : Statement (.vbeq d a b) := by
  intro h _
  simp only [Instr.wf, tripleOk, pairOk, Bool.and_eq_true, decide_eq_true_eq] at h
  (refine (decodeWord_50 _ (fOp_encRr _ _ _ _ _ (by decide) (by decide))).trans ?_; simp [h, dec50, zero, triple, casPair, scopeOf, Scope.code, PfLevel.code, fF_encRr, fD_encRr, fA_encRr, fB_encRr])
theorem vbfz (d : Reg) (a : Reg) : Statement (.vbfz d a) := by
  intro _ _
  refine (decodeWord_50 _ (fOp_encRr _ _ _ _ _ (by decide) (by decide))).trans ?_
  unfold dec50
  rw [fF_encRr _ _ _ _ _ (by decide) (by decide), fD_encRr _ _ _ _ _ (by decide) (by decide), fA_encRr _ _ _ _ _ (by decide) (by decide), fB_encRr _ _ _ _ _ (by decide) (by decide)]
  rfl
theorem vbdif (d : Reg) (a : Reg) (b : Reg) : Statement (.vbdif d a b) := by
  intro _ _
  refine (decodeWord_50 _ (fOp_encRr _ _ _ _ _ (by decide) (by decide))).trans ?_
  unfold dec50
  rw [fF_encRr _ _ _ _ _ (by decide) (by decide), fD_encRr _ _ _ _ _ (by decide) (by decide), fA_encRr _ _ _ _ _ (by decide) (by decide), fB_encRr _ _ _ _ _ (by decide) (by decide)]
  rfl
theorem vhist (d : Reg) (a : Reg) : Statement (.vhist d a) := by
  intro _ _
  refine (decodeWord_51 _ (fOp_encRr _ _ _ _ _ (by decide) (by decide))).trans ?_
  unfold dec51
  rw [fF_encRr _ _ _ _ _ (by decide) (by decide), fD_encRr _ _ _ _ _ (by decide) (by decide), fA_encRr _ _ _ _ _ (by decide) (by decide), fB_encRr _ _ _ _ _ (by decide) (by decide)]
  rfl
theorem vld (d : Reg) (a : Reg) (b : Reg) (z : Size3) (p : Policy) : Statement (.vld d a b z p) := by
  intro _ _
  have hf : z.code + 4 * p.code < 16 := by cases z <;> cases p <;> decide
  refine (decodeWord_54 _ (fOp_encRr _ _ _ _ _ (by decide) hf)).trans ?_
  rw [dec54, fF_encRr _ _ _ _ _ (by decide) hf, fD_encRr _ _ _ _ _ (by decide) hf, fA_encRr _ _ _ _ _ (by decide) hf, fB_encRr _ _ _ _ _ (by decide) hf]
  cases z <;> cases p <;> rfl
theorem vst (d : Reg) (a : Reg) (b : Reg) (z : Size3) (p : Policy) : Statement (.vst d a b z p) := by
  intro _ _
  have hf : z.code + 4 * p.code < 16 := by cases z <;> cases p <;> decide
  refine (decodeWord_55 _ (fOp_encRr _ _ _ _ _ (by decide) hf)).trans ?_
  rw [dec55, fF_encRr _ _ _ _ _ (by decide) hf, fD_encRr _ _ _ _ _ (by decide) hf, fA_encRr _ _ _ _ _ (by decide) hf, fB_encRr _ _ _ _ _ (by decide) hf]
  cases z <;> cases p <;> rfl
theorem vgth (d : Reg) (a : Reg) (b : Reg) (z : Size3) (p : Policy) : Statement (.vgth d a b z p) := by
  intro _ _
  have hf : z.code + 4 * p.code < 16 := by cases z <;> cases p <;> decide
  refine (decodeWord_56 _ (fOp_encRr _ _ _ _ _ (by decide) hf)).trans ?_
  rw [dec56, fF_encRr _ _ _ _ _ (by decide) hf, fD_encRr _ _ _ _ _ (by decide) hf, fA_encRr _ _ _ _ _ (by decide) hf, fB_encRr _ _ _ _ _ (by decide) hf]
  cases z <;> cases p <;> rfl
theorem vsct (d : Reg) (a : Reg) (b : Reg) (z : Size3) (p : Policy) : Statement (.vsct d a b z p) := by
  intro _ _
  have hf : z.code + 4 * p.code < 16 := by cases z <;> cases p <;> decide
  refine (decodeWord_57 _ (fOp_encRr _ _ _ _ _ (by decide) hf)).trans ?_
  rw [dec57, fF_encRr _ _ _ _ _ (by decide) hf, fD_encRr _ _ _ _ _ (by decide) hf, fA_encRr _ _ _ _ _ (by decide) hf, fB_encRr _ _ _ _ _ (by decide) hf]
  cases z <;> cases p <;> rfl
theorem vll (d : Reg) (a : Reg) (b : Reg) (z : Size3) : Statement (.vll d a b z) := by
  intro _ _
  have hf : z.code < 16 := by cases z <;> decide
  refine (decodeWord_58 _ (fOp_encRr _ _ _ _ _ (by decide) hf)).trans ?_
  rw [dec58, fF_encRr _ _ _ _ _ (by decide) hf, fD_encRr _ _ _ _ _ (by decide) hf, fA_encRr _ _ _ _ _ (by decide) hf, fB_encRr _ _ _ _ _ (by decide) hf]
  cases z <;> rfl
theorem vsl (d : Reg) (a : Reg) (b : Reg) (z : Size3) : Statement (.vsl d a b z) := by
  intro _ _
  have hf : z.code < 16 := by cases z <;> decide
  refine (decodeWord_59 _ (fOp_encRr _ _ _ _ _ (by decide) hf)).trans ?_
  rw [dec59, fF_encRr _ _ _ _ _ (by decide) hf, fD_encRr _ _ _ _ _ (by decide) hf, fA_encRr _ _ _ _ _ (by decide) hf, fB_encRr _ _ _ _ _ (by decide) hf]
  cases z <;> rfl
theorem vllg (d : Reg) (a : Reg) (z : Size3) : Statement (.vllg d a z) := by
  intro _ _
  have hf : z.code < 16 := by cases z <;> decide
  refine (decodeWord_5A _ (fOp_encRr _ _ _ _ _ (by decide) hf)).trans ?_
  rw [dec5A, fF_encRr _ _ _ _ _ (by decide) hf, fD_encRr _ _ _ _ _ (by decide) hf, fA_encRr _ _ _ _ _ (by decide) hf, fB_encRr _ _ _ _ _ (by decide) hf]
  cases z <;> rfl
theorem vslg (d : Reg) (a : Reg) (z : Size3) : Statement (.vslg d a z) := by
  intro _ _
  have hf : z.code < 16 := by cases z <;> decide
  refine (decodeWord_5B _ (fOp_encRr _ _ _ _ _ (by decide) hf)).trans ?_
  rw [dec5B, fF_encRr _ _ _ _ _ (by decide) hf, fD_encRr _ _ _ _ _ (by decide) hf, fA_encRr _ _ _ _ _ (by decide) hf, fB_encRr _ _ _ _ _ (by decide) hf]
  cases z <;> rfl
theorem amoAdd (d : Reg) (a : Reg) (b : Reg) : Statement (.amoAdd d a b) := by
  intro _ _
  refine (decodeWord_5C _ (fOp_encRr _ _ _ _ _ (by decide) (by decide))).trans ?_
  unfold dec5C
  rw [fF_encRr _ _ _ _ _ (by decide) (by decide), fD_encRr _ _ _ _ _ (by decide) (by decide), fA_encRr _ _ _ _ _ (by decide) (by decide), fB_encRr _ _ _ _ _ (by decide) (by decide)]
  rfl
theorem amoAnd (d : Reg) (a : Reg) (b : Reg) : Statement (.amoAnd d a b) := by
  intro _ _
  refine (decodeWord_5C _ (fOp_encRr _ _ _ _ _ (by decide) (by decide))).trans ?_
  unfold dec5C
  rw [fF_encRr _ _ _ _ _ (by decide) (by decide), fD_encRr _ _ _ _ _ (by decide) (by decide), fA_encRr _ _ _ _ _ (by decide) (by decide), fB_encRr _ _ _ _ _ (by decide) (by decide)]
  rfl
theorem amoOr (d : Reg) (a : Reg) (b : Reg) : Statement (.amoOr d a b) := by
  intro _ _
  refine (decodeWord_5C _ (fOp_encRr _ _ _ _ _ (by decide) (by decide))).trans ?_
  unfold dec5C
  rw [fF_encRr _ _ _ _ _ (by decide) (by decide), fD_encRr _ _ _ _ _ (by decide) (by decide), fA_encRr _ _ _ _ _ (by decide) (by decide), fB_encRr _ _ _ _ _ (by decide) (by decide)]
  rfl
theorem amoXor (d : Reg) (a : Reg) (b : Reg) : Statement (.amoXor d a b) := by
  intro _ _
  refine (decodeWord_5C _ (fOp_encRr _ _ _ _ _ (by decide) (by decide))).trans ?_
  unfold dec5C
  rw [fF_encRr _ _ _ _ _ (by decide) (by decide), fD_encRr _ _ _ _ _ (by decide) (by decide), fA_encRr _ _ _ _ _ (by decide) (by decide), fB_encRr _ _ _ _ _ (by decide) (by decide)]
  rfl
theorem amoMin (d : Reg) (a : Reg) (b : Reg) : Statement (.amoMin d a b) := by
  intro _ _
  refine (decodeWord_5C _ (fOp_encRr _ _ _ _ _ (by decide) (by decide))).trans ?_
  unfold dec5C
  rw [fF_encRr _ _ _ _ _ (by decide) (by decide), fD_encRr _ _ _ _ _ (by decide) (by decide), fA_encRr _ _ _ _ _ (by decide) (by decide), fB_encRr _ _ _ _ _ (by decide) (by decide)]
  rfl
theorem amoMax (d : Reg) (a : Reg) (b : Reg) : Statement (.amoMax d a b) := by
  intro _ _
  refine (decodeWord_5C _ (fOp_encRr _ _ _ _ _ (by decide) (by decide))).trans ?_
  unfold dec5C
  rw [fF_encRr _ _ _ _ _ (by decide) (by decide), fD_encRr _ _ _ _ _ (by decide) (by decide), fA_encRr _ _ _ _ _ (by decide) (by decide), fB_encRr _ _ _ _ _ (by decide) (by decide)]
  rfl
theorem amoMinu (d : Reg) (a : Reg) (b : Reg) : Statement (.amoMinu d a b) := by
  intro _ _
  refine (decodeWord_5C _ (fOp_encRr _ _ _ _ _ (by decide) (by decide))).trans ?_
  unfold dec5C
  rw [fF_encRr _ _ _ _ _ (by decide) (by decide), fD_encRr _ _ _ _ _ (by decide) (by decide), fA_encRr _ _ _ _ _ (by decide) (by decide), fB_encRr _ _ _ _ _ (by decide) (by decide)]
  rfl
theorem amoMaxu (d : Reg) (a : Reg) (b : Reg) : Statement (.amoMaxu d a b) := by
  intro _ _
  refine (decodeWord_5C _ (fOp_encRr _ _ _ _ _ (by decide) (by decide))).trans ?_
  unfold dec5C
  rw [fF_encRr _ _ _ _ _ (by decide) (by decide), fD_encRr _ _ _ _ _ (by decide) (by decide), fA_encRr _ _ _ _ _ (by decide) (by decide), fB_encRr _ _ _ _ _ (by decide) (by decide)]
  rfl
theorem amoXchg (d : Reg) (a : Reg) (b : Reg) : Statement (.amoXchg d a b) := by
  intro _ _
  refine (decodeWord_5C _ (fOp_encRr _ _ _ _ _ (by decide) (by decide))).trans ?_
  unfold dec5C
  rw [fF_encRr _ _ _ _ _ (by decide) (by decide), fD_encRr _ _ _ _ _ (by decide) (by decide), fA_encRr _ _ _ _ _ (by decide) (by decide), fB_encRr _ _ _ _ _ (by decide) (by decide)]
  rfl
theorem amoFadd (d : Reg) (a : Reg) (b : Reg) : Statement (.amoFadd d a b) := by
  intro _ _
  refine (decodeWord_5C _ (fOp_encRr _ _ _ _ _ (by decide) (by decide))).trans ?_
  unfold dec5C
  rw [fF_encRr _ _ _ _ _ (by decide) (by decide), fD_encRr _ _ _ _ _ (by decide) (by decide), fA_encRr _ _ _ _ _ (by decide) (by decide), fB_encRr _ _ _ _ _ (by decide) (by decide)]
  rfl
theorem amoCas (d : Reg) (a : Reg) (b : Reg) : Statement (.amoCas d a b) := by
  intro h _
  simp only [Instr.wf, tripleOk, pairOk, Bool.and_eq_true, decide_eq_true_eq] at h
  (refine (decodeWord_5C _ (fOp_encRr _ _ _ _ _ (by decide) (by decide))).trans ?_; simp [h, dec5C, zero, triple, casPair, scopeOf, Scope.code, PfLevel.code, fF_encRr, fD_encRr, fA_encRr, fB_encRr])
theorem amoDAdd (d : Reg) (a : Reg) (b : Reg) : Statement (.amoDAdd d a b) := by
  intro _ _
  refine (decodeWord_5D _ (fOp_encRr _ _ _ _ _ (by decide) (by decide))).trans ?_
  unfold dec5D
  rw [fF_encRr _ _ _ _ _ (by decide) (by decide), fD_encRr _ _ _ _ _ (by decide) (by decide), fA_encRr _ _ _ _ _ (by decide) (by decide), fB_encRr _ _ _ _ _ (by decide) (by decide)]
  rfl
theorem amoDAnd (d : Reg) (a : Reg) (b : Reg) : Statement (.amoDAnd d a b) := by
  intro _ _
  refine (decodeWord_5D _ (fOp_encRr _ _ _ _ _ (by decide) (by decide))).trans ?_
  unfold dec5D
  rw [fF_encRr _ _ _ _ _ (by decide) (by decide), fD_encRr _ _ _ _ _ (by decide) (by decide), fA_encRr _ _ _ _ _ (by decide) (by decide), fB_encRr _ _ _ _ _ (by decide) (by decide)]
  rfl
theorem amoDOr (d : Reg) (a : Reg) (b : Reg) : Statement (.amoDOr d a b) := by
  intro _ _
  refine (decodeWord_5D _ (fOp_encRr _ _ _ _ _ (by decide) (by decide))).trans ?_
  unfold dec5D
  rw [fF_encRr _ _ _ _ _ (by decide) (by decide), fD_encRr _ _ _ _ _ (by decide) (by decide), fA_encRr _ _ _ _ _ (by decide) (by decide), fB_encRr _ _ _ _ _ (by decide) (by decide)]
  rfl
theorem amoDXor (d : Reg) (a : Reg) (b : Reg) : Statement (.amoDXor d a b) := by
  intro _ _
  refine (decodeWord_5D _ (fOp_encRr _ _ _ _ _ (by decide) (by decide))).trans ?_
  unfold dec5D
  rw [fF_encRr _ _ _ _ _ (by decide) (by decide), fD_encRr _ _ _ _ _ (by decide) (by decide), fA_encRr _ _ _ _ _ (by decide) (by decide), fB_encRr _ _ _ _ _ (by decide) (by decide)]
  rfl
theorem amoDMin (d : Reg) (a : Reg) (b : Reg) : Statement (.amoDMin d a b) := by
  intro _ _
  refine (decodeWord_5D _ (fOp_encRr _ _ _ _ _ (by decide) (by decide))).trans ?_
  unfold dec5D
  rw [fF_encRr _ _ _ _ _ (by decide) (by decide), fD_encRr _ _ _ _ _ (by decide) (by decide), fA_encRr _ _ _ _ _ (by decide) (by decide), fB_encRr _ _ _ _ _ (by decide) (by decide)]
  rfl
theorem amoDMax (d : Reg) (a : Reg) (b : Reg) : Statement (.amoDMax d a b) := by
  intro _ _
  refine (decodeWord_5D _ (fOp_encRr _ _ _ _ _ (by decide) (by decide))).trans ?_
  unfold dec5D
  rw [fF_encRr _ _ _ _ _ (by decide) (by decide), fD_encRr _ _ _ _ _ (by decide) (by decide), fA_encRr _ _ _ _ _ (by decide) (by decide), fB_encRr _ _ _ _ _ (by decide) (by decide)]
  rfl
theorem amoDMinu (d : Reg) (a : Reg) (b : Reg) : Statement (.amoDMinu d a b) := by
  intro _ _
  refine (decodeWord_5D _ (fOp_encRr _ _ _ _ _ (by decide) (by decide))).trans ?_
  unfold dec5D
  rw [fF_encRr _ _ _ _ _ (by decide) (by decide), fD_encRr _ _ _ _ _ (by decide) (by decide), fA_encRr _ _ _ _ _ (by decide) (by decide), fB_encRr _ _ _ _ _ (by decide) (by decide)]
  rfl
theorem amoDMaxu (d : Reg) (a : Reg) (b : Reg) : Statement (.amoDMaxu d a b) := by
  intro _ _
  refine (decodeWord_5D _ (fOp_encRr _ _ _ _ _ (by decide) (by decide))).trans ?_
  unfold dec5D
  rw [fF_encRr _ _ _ _ _ (by decide) (by decide), fD_encRr _ _ _ _ _ (by decide) (by decide), fA_encRr _ _ _ _ _ (by decide) (by decide), fB_encRr _ _ _ _ _ (by decide) (by decide)]
  rfl
theorem amoDXchg (d : Reg) (a : Reg) (b : Reg) : Statement (.amoDXchg d a b) := by
  intro _ _
  refine (decodeWord_5D _ (fOp_encRr _ _ _ _ _ (by decide) (by decide))).trans ?_
  unfold dec5D
  rw [fF_encRr _ _ _ _ _ (by decide) (by decide), fD_encRr _ _ _ _ _ (by decide) (by decide), fA_encRr _ _ _ _ _ (by decide) (by decide), fB_encRr _ _ _ _ _ (by decide) (by decide)]
  rfl
theorem amoDFadd (d : Reg) (a : Reg) (b : Reg) : Statement (.amoDFadd d a b) := by
  intro _ _
  refine (decodeWord_5D _ (fOp_encRr _ _ _ _ _ (by decide) (by decide))).trans ?_
  unfold dec5D
  rw [fF_encRr _ _ _ _ _ (by decide) (by decide), fD_encRr _ _ _ _ _ (by decide) (by decide), fA_encRr _ _ _ _ _ (by decide) (by decide), fB_encRr _ _ _ _ _ (by decide) (by decide)]
  rfl
theorem amoDCas (d : Reg) (a : Reg) (b : Reg) : Statement (.amoDCas d a b) := by
  intro h _
  simp only [Instr.wf, tripleOk, pairOk, Bool.and_eq_true, decide_eq_true_eq] at h
  (refine (decodeWord_5D _ (fOp_encRr _ _ _ _ _ (by decide) (by decide))).trans ?_; simp [h, dec5D, zero, triple, casPair, scopeOf, Scope.code, PfLevel.code, fF_encRr, fD_encRr, fA_encRr, fB_encRr])
theorem vamoAdd (d : Reg) (a : Reg) (b : Reg) : Statement (.vamoAdd d a b) := by
  intro _ _
  refine (decodeWord_5E _ (fOp_encRr _ _ _ _ _ (by decide) (by decide))).trans ?_
  unfold dec5E
  rw [fF_encRr _ _ _ _ _ (by decide) (by decide), fD_encRr _ _ _ _ _ (by decide) (by decide), fA_encRr _ _ _ _ _ (by decide) (by decide), fB_encRr _ _ _ _ _ (by decide) (by decide)]
  rfl
theorem vamoAnd (d : Reg) (a : Reg) (b : Reg) : Statement (.vamoAnd d a b) := by
  intro _ _
  refine (decodeWord_5E _ (fOp_encRr _ _ _ _ _ (by decide) (by decide))).trans ?_
  unfold dec5E
  rw [fF_encRr _ _ _ _ _ (by decide) (by decide), fD_encRr _ _ _ _ _ (by decide) (by decide), fA_encRr _ _ _ _ _ (by decide) (by decide), fB_encRr _ _ _ _ _ (by decide) (by decide)]
  rfl
theorem vamoOr (d : Reg) (a : Reg) (b : Reg) : Statement (.vamoOr d a b) := by
  intro _ _
  refine (decodeWord_5E _ (fOp_encRr _ _ _ _ _ (by decide) (by decide))).trans ?_
  unfold dec5E
  rw [fF_encRr _ _ _ _ _ (by decide) (by decide), fD_encRr _ _ _ _ _ (by decide) (by decide), fA_encRr _ _ _ _ _ (by decide) (by decide), fB_encRr _ _ _ _ _ (by decide) (by decide)]
  rfl
theorem vamoXor (d : Reg) (a : Reg) (b : Reg) : Statement (.vamoXor d a b) := by
  intro _ _
  refine (decodeWord_5E _ (fOp_encRr _ _ _ _ _ (by decide) (by decide))).trans ?_
  unfold dec5E
  rw [fF_encRr _ _ _ _ _ (by decide) (by decide), fD_encRr _ _ _ _ _ (by decide) (by decide), fA_encRr _ _ _ _ _ (by decide) (by decide), fB_encRr _ _ _ _ _ (by decide) (by decide)]
  rfl
theorem vamoMin (d : Reg) (a : Reg) (b : Reg) : Statement (.vamoMin d a b) := by
  intro _ _
  refine (decodeWord_5E _ (fOp_encRr _ _ _ _ _ (by decide) (by decide))).trans ?_
  unfold dec5E
  rw [fF_encRr _ _ _ _ _ (by decide) (by decide), fD_encRr _ _ _ _ _ (by decide) (by decide), fA_encRr _ _ _ _ _ (by decide) (by decide), fB_encRr _ _ _ _ _ (by decide) (by decide)]
  rfl
theorem vamoMax (d : Reg) (a : Reg) (b : Reg) : Statement (.vamoMax d a b) := by
  intro _ _
  refine (decodeWord_5E _ (fOp_encRr _ _ _ _ _ (by decide) (by decide))).trans ?_
  unfold dec5E
  rw [fF_encRr _ _ _ _ _ (by decide) (by decide), fD_encRr _ _ _ _ _ (by decide) (by decide), fA_encRr _ _ _ _ _ (by decide) (by decide), fB_encRr _ _ _ _ _ (by decide) (by decide)]
  rfl
theorem vamoMinu (d : Reg) (a : Reg) (b : Reg) : Statement (.vamoMinu d a b) := by
  intro _ _
  refine (decodeWord_5E _ (fOp_encRr _ _ _ _ _ (by decide) (by decide))).trans ?_
  unfold dec5E
  rw [fF_encRr _ _ _ _ _ (by decide) (by decide), fD_encRr _ _ _ _ _ (by decide) (by decide), fA_encRr _ _ _ _ _ (by decide) (by decide), fB_encRr _ _ _ _ _ (by decide) (by decide)]
  rfl
theorem vamoMaxu (d : Reg) (a : Reg) (b : Reg) : Statement (.vamoMaxu d a b) := by
  intro _ _
  refine (decodeWord_5E _ (fOp_encRr _ _ _ _ _ (by decide) (by decide))).trans ?_
  unfold dec5E
  rw [fF_encRr _ _ _ _ _ (by decide) (by decide), fD_encRr _ _ _ _ _ (by decide) (by decide), fA_encRr _ _ _ _ _ (by decide) (by decide), fB_encRr _ _ _ _ _ (by decide) (by decide)]
  rfl
theorem vamoXchg (d : Reg) (a : Reg) (b : Reg) : Statement (.vamoXchg d a b) := by
  intro _ _
  refine (decodeWord_5E _ (fOp_encRr _ _ _ _ _ (by decide) (by decide))).trans ?_
  unfold dec5E
  rw [fF_encRr _ _ _ _ _ (by decide) (by decide), fD_encRr _ _ _ _ _ (by decide) (by decide), fA_encRr _ _ _ _ _ (by decide) (by decide), fB_encRr _ _ _ _ _ (by decide) (by decide)]
  rfl
theorem vamoFadd (d : Reg) (a : Reg) (b : Reg) : Statement (.vamoFadd d a b) := by
  intro _ _
  refine (decodeWord_5E _ (fOp_encRr _ _ _ _ _ (by decide) (by decide))).trans ?_
  unfold dec5E
  rw [fF_encRr _ _ _ _ _ (by decide) (by decide), fD_encRr _ _ _ _ _ (by decide) (by decide), fA_encRr _ _ _ _ _ (by decide) (by decide), fB_encRr _ _ _ _ _ (by decide) (by decide)]
  rfl
theorem vamoCas (d : Reg) (a : Reg) (b : Reg) : Statement (.vamoCas d a b) := by
  intro h _
  simp only [Instr.wf, tripleOk, pairOk, Bool.and_eq_true, decide_eq_true_eq] at h
  (refine (decodeWord_5E _ (fOp_encRr _ _ _ _ _ (by decide) (by decide))).trans ?_; simp [h, dec5E, zero, triple, casPair, scopeOf, Scope.code, PfLevel.code, fF_encRr, fD_encRr, fA_encRr, fB_encRr])
theorem acq (a : Reg) (s : Scope) : Statement (.acq a s) := by
  intro h _
  cases s <;> (refine (decodeWord_60 _ (fOp_encRr _ _ _ _ _ (by decide) (by decide))).trans ?_; simp [h, dec60, zero, triple, casPair, scopeOf, Scope.code, PfLevel.code, fF_encRr, fD_encRr, fA_encRr, fB_encRr])
theorem rel (s : Scope) : Statement (.rel s) := by
  intro h _
  cases s <;> (refine (decodeWord_61 _ (fOp_encRr _ _ _ _ _ (by decide) (by decide))).trans ?_; simp [h, dec61, zero, triple, casPair, scopeOf, Scope.code, PfLevel.code, fF_encRr, fD_encRr, fA_encRr, fB_encRr])
theorem fence (s : Scope) : Statement (.fence s) := by
  intro h _
  cases s <;> (refine (decodeWord_62 _ (fOp_encRr _ _ _ _ _ (by decide) (by decide))).trans ?_; simp [h, dec62, zero, triple, casPair, scopeOf, Scope.code, PfLevel.code, fF_encRr, fD_encRr, fA_encRr, fB_encRr])
theorem fenceSs (s : Scope) : Statement (.fenceSs s) := by
  intro h _
  cases s <;> (refine (decodeWord_62 _ (fOp_encRr _ _ _ _ _ (by decide) (by decide))).trans ?_; simp [h, dec62, zero, triple, casPair, scopeOf, Scope.code, PfLevel.code, fF_encRr, fD_encRr, fA_encRr, fB_encRr])
theorem fenceLl (s : Scope) : Statement (.fenceLl s) := by
  intro h _
  cases s <;> (refine (decodeWord_62 _ (fOp_encRr _ _ _ _ _ (by decide) (by decide))).trans ?_; simp [h, dec62, zero, triple, casPair, scopeOf, Scope.code, PfLevel.code, fF_encRr, fD_encRr, fA_encRr, fB_encRr])
theorem fenceIo (s : Scope) : Statement (.fenceIo s) := by
  intro h _
  cases s <;> (refine (decodeWord_62 _ (fOp_encRr _ _ _ _ _ (by decide) (by decide))).trans ?_; simp [h, dec62, zero, triple, casPair, scopeOf, Scope.code, PfLevel.code, fF_encRr, fD_encRr, fA_encRr, fB_encRr])
theorem ifence : Statement (.ifence) := by
  intro _ _
  refine (decodeWord_63 _ (fOp_encRr _ _ _ _ _ (by decide) (by decide))).trans ?_
  unfold dec63
  rw [fF_encRr _ _ _ _ _ (by decide) (by decide), fD_encRr _ _ _ _ _ (by decide) (by decide), fA_encRr _ _ _ _ _ (by decide) (by decide), fB_encRr _ _ _ _ _ (by decide) (by decide)]
  rfl
theorem txb : Statement (.txb) := by
  intro _ _
  refine (decodeWord_64 _ (fOp_encRr _ _ _ _ _ (by decide) (by decide))).trans ?_
  unfold dec64
  rw [fF_encRr _ _ _ _ _ (by decide) (by decide), fD_encRr _ _ _ _ _ (by decide) (by decide), fA_encRr _ _ _ _ _ (by decide) (by decide), fB_encRr _ _ _ _ _ (by decide) (by decide)]
  rfl
theorem txe : Statement (.txe) := by
  intro _ _
  refine (decodeWord_64 _ (fOp_encRr _ _ _ _ _ (by decide) (by decide))).trans ?_
  unfold dec64
  rw [fF_encRr _ _ _ _ _ (by decide) (by decide), fD_encRr _ _ _ _ _ (by decide) (by decide), fA_encRr _ _ _ _ _ (by decide) (by decide), fB_encRr _ _ _ _ _ (by decide) (by decide)]
  rfl
theorem txa : Statement (.txa) := by
  intro _ _
  refine (decodeWord_64 _ (fOp_encRr _ _ _ _ _ (by decide) (by decide))).trans ?_
  unfold dec64
  rw [fF_encRr _ _ _ _ _ (by decide) (by decide), fD_encRr _ _ _ _ _ (by decide) (by decide), fA_encRr _ _ _ _ _ (by decide) (by decide), fB_encRr _ _ _ _ _ (by decide) (by decide)]
  rfl
theorem txs (d : Reg) : Statement (.txs d) := by
  intro h _
  simp only [Instr.wf, tripleOk, pairOk, Bool.and_eq_true, decide_eq_true_eq] at h
  (refine (decodeWord_64 _ (fOp_encRr _ _ _ _ _ (by decide) (by decide))).trans ?_; simp [h, dec64, zero, triple, casPair, scopeOf, Scope.code, PfLevel.code, fF_encRr, fD_encRr, fA_encRr, fB_encRr])
theorem wsleepEq (d : Reg) (a : Reg) (b : Reg) : Statement (.wsleepEq d a b) := by
  intro _ _
  refine (decodeWord_65 _ (fOp_encRr _ _ _ _ _ (by decide) (by decide))).trans ?_
  unfold dec65
  rw [fF_encRr _ _ _ _ _ (by decide) (by decide), fD_encRr _ _ _ _ _ (by decide) (by decide), fA_encRr _ _ _ _ _ (by decide) (by decide), fB_encRr _ _ _ _ _ (by decide) (by decide)]
  rfl
theorem wsleepNe (d : Reg) (a : Reg) (b : Reg) : Statement (.wsleepNe d a b) := by
  intro _ _
  refine (decodeWord_65 _ (fOp_encRr _ _ _ _ _ (by decide) (by decide))).trans ?_
  unfold dec65
  rw [fF_encRr _ _ _ _ _ (by decide) (by decide), fD_encRr _ _ _ _ _ (by decide) (by decide), fA_encRr _ _ _ _ _ (by decide) (by decide), fB_encRr _ _ _ _ _ (by decide) (by decide)]
  rfl
theorem wsleepGe (d : Reg) (a : Reg) (b : Reg) : Statement (.wsleepGe d a b) := by
  intro _ _
  refine (decodeWord_65 _ (fOp_encRr _ _ _ _ _ (by decide) (by decide))).trans ?_
  unfold dec65
  rw [fF_encRr _ _ _ _ _ (by decide) (by decide), fD_encRr _ _ _ _ _ (by decide) (by decide), fA_encRr _ _ _ _ _ (by decide) (by decide), fB_encRr _ _ _ _ _ (by decide) (by decide)]
  rfl
theorem wsleepGeu (d : Reg) (a : Reg) (b : Reg) : Statement (.wsleepGeu d a b) := by
  intro _ _
  refine (decodeWord_65 _ (fOp_encRr _ _ _ _ _ (by decide) (by decide))).trans ?_
  unfold dec65
  rw [fF_encRr _ _ _ _ _ (by decide) (by decide), fD_encRr _ _ _ _ _ (by decide) (by decide), fA_encRr _ _ _ _ _ (by decide) (by decide), fB_encRr _ _ _ _ _ (by decide) (by decide)]
  rfl
theorem bar : Statement (.bar) := by
  intro _ _
  refine (decodeWord_66 _ (fOp_encRr _ _ _ _ _ (by decide) (by decide))).trans ?_
  unfold dec66
  rw [fF_encRr _ _ _ _ _ (by decide) (by decide), fD_encRr _ _ _ _ _ (by decide) (by decide), fA_encRr _ _ _ _ _ (by decide) (by decide), fB_encRr _ _ _ _ _ (by decide) (by decide)]
  rfl
theorem nbinit (a : Reg) (b : Reg) : Statement (.nbinit a b) := by
  intro _ _
  refine (decodeWord_67 _ (fOp_encRr _ _ _ _ _ (by decide) (by decide))).trans ?_
  unfold dec67
  rw [fF_encRr _ _ _ _ _ (by decide) (by decide), fD_encRr _ _ _ _ _ (by decide) (by decide), fA_encRr _ _ _ _ _ (by decide) (by decide), fB_encRr _ _ _ _ _ (by decide) (by decide)]
  rfl
theorem nbexp (a : Reg) (b : Reg) : Statement (.nbexp a b) := by
  intro _ _
  refine (decodeWord_67 _ (fOp_encRr _ _ _ _ _ (by decide) (by decide))).trans ?_
  unfold dec67
  rw [fF_encRr _ _ _ _ _ (by decide) (by decide), fD_encRr _ _ _ _ _ (by decide) (by decide), fA_encRr _ _ _ _ _ (by decide) (by decide), fB_encRr _ _ _ _ _ (by decide) (by decide)]
  rfl
theorem nbarr (a : Reg) : Statement (.nbarr a) := by
  intro _ _
  refine (decodeWord_67 _ (fOp_encRr _ _ _ _ _ (by decide) (by decide))).trans ?_
  unfold dec67
  rw [fF_encRr _ _ _ _ _ (by decide) (by decide), fD_encRr _ _ _ _ _ (by decide) (by decide), fA_encRr _ _ _ _ _ (by decide) (by decide), fB_encRr _ _ _ _ _ (by decide) (by decide)]
  rfl
theorem nbwait (d : Reg) (a : Reg) : Statement (.nbwait d a) := by
  intro _ _
  refine (decodeWord_67 _ (fOp_encRr _ _ _ _ _ (by decide) (by decide))).trans ?_
  unfold dec67
  rw [fF_encRr _ _ _ _ _ (by decide) (by decide), fD_encRr _ _ _ _ _ (by decide) (by decide), fA_encRr _ _ _ _ _ (by decide) (by decide), fB_encRr _ _ _ _ _ (by decide) (by decide)]
  rfl
theorem nbtest (d : Reg) (a : Reg) : Statement (.nbtest d a) := by
  intro _ _
  refine (decodeWord_67 _ (fOp_encRr _ _ _ _ _ (by decide) (by decide))).trans ?_
  unfold dec67
  rw [fF_encRr _ _ _ _ _ (by decide) (by decide), fD_encRr _ _ _ _ _ (by decide) (by decide), fA_encRr _ _ _ _ _ (by decide) (by decide), fB_encRr _ _ _ _ _ (by decide) (by decide)]
  rfl
theorem tbarr (a : Reg) : Statement (.tbarr a) := by
  intro _ _
  refine (decodeWord_68 _ (fOp_encRr _ _ _ _ _ (by decide) (by decide))).trans ?_
  unfold dec68
  rw [fF_encRr _ _ _ _ _ (by decide) (by decide), fD_encRr _ _ _ _ _ (by decide) (by decide), fA_encRr _ _ _ _ _ (by decide) (by decide), fB_encRr _ _ _ _ _ (by decide) (by decide)]
  rfl
theorem tbwait (d : Reg) (a : Reg) : Statement (.tbwait d a) := by
  intro _ _
  refine (decodeWord_68 _ (fOp_encRr _ _ _ _ _ (by decide) (by decide))).trans ?_
  unfold dec68
  rw [fF_encRr _ _ _ _ _ (by decide) (by decide), fD_encRr _ _ _ _ _ (by decide) (by decide), fA_encRr _ _ _ _ _ (by decide) (by decide), fB_encRr _ _ _ _ _ (by decide) (by decide)]
  rfl
theorem tbar (d : Reg) (a : Reg) : Statement (.tbar d a) := by
  intro _ _
  refine (decodeWord_68 _ (fOp_encRr _ _ _ _ _ (by decide) (by decide))).trans ?_
  unfold dec68
  rw [fF_encRr _ _ _ _ _ (by decide) (by decide), fD_encRr _ _ _ _ _ (by decide) (by decide), fA_encRr _ _ _ _ _ (by decide) (by decide), fB_encRr _ _ _ _ _ (by decide) (by decide)]
  rfl
theorem launch (d : Reg) (a : Reg) : Statement (.launch d a) := by
  intro _ _
  refine (decodeWord_69 _ (fOp_encRr _ _ _ _ _ (by decide) (by decide))).trans ?_
  unfold dec69
  rw [fF_encRr _ _ _ _ _ (by decide) (by decide), fD_encRr _ _ _ _ _ (by decide) (by decide), fA_encRr _ _ _ _ _ (by decide) (by decide), fB_encRr _ _ _ _ _ (by decide) (by decide)]
  rfl
theorem launchWait (d : Reg) (a : Reg) : Statement (.launchWait d a) := by
  intro _ _
  refine (decodeWord_69 _ (fOp_encRr _ _ _ _ _ (by decide) (by decide))).trans ?_
  unfold dec69
  rw [fF_encRr _ _ _ _ _ (by decide) (by decide), fD_encRr _ _ _ _ _ (by decide) (by decide), fA_encRr _ _ _ _ _ (by decide) (by decide), fB_encRr _ _ _ _ _ (by decide) (by decide)]
  rfl
theorem exit : Statement (.exit) := by
  intro _ _
  refine (decodeWord_6A _ (fOp_encRr _ _ _ _ _ (by decide) (by decide))).trans ?_
  unfold dec6A
  rw [fF_encRr _ _ _ _ _ (by decide) (by decide), fD_encRr _ _ _ _ _ (by decide) (by decide), fA_encRr _ _ _ _ _ (by decide) (by decide), fB_encRr _ _ _ _ _ (by decide) (by decide)]
  rfl
theorem exitSucc (a : Reg) : Statement (.exitSucc a) := by
  intro _ _
  refine (decodeWord_6A _ (fOp_encRr _ _ _ _ _ (by decide) (by decide))).trans ?_
  unfold dec6A
  rw [fF_encRr _ _ _ _ _ (by decide) (by decide), fD_encRr _ _ _ _ _ (by decide) (by decide), fA_encRr _ _ _ _ _ (by decide) (by decide), fB_encRr _ _ _ _ _ (by decide) (by decide)]
  rfl
theorem yield : Statement (.yield) := by
  intro _ _
  refine (decodeWord_6B _ (fOp_encRr _ _ _ _ _ (by decide) (by decide))).trans ?_
  unfold dec6B
  rw [fF_encRr _ _ _ _ _ (by decide) (by decide), fD_encRr _ _ _ _ _ (by decide) (by decide), fA_encRr _ _ _ _ _ (by decide) (by decide), fB_encRr _ _ _ _ _ (by decide) (by decide)]
  rfl
theorem qpush (a : Reg) (b : Reg) : Statement (.qpush a b) := by
  intro _ _
  refine (decodeWord_6C _ (fOp_encRr _ _ _ _ _ (by decide) (by decide))).trans ?_
  unfold dec6C
  rw [fF_encRr _ _ _ _ _ (by decide) (by decide), fD_encRr _ _ _ _ _ (by decide) (by decide), fA_encRr _ _ _ _ _ (by decide) (by decide), fB_encRr _ _ _ _ _ (by decide) (by decide)]
  rfl
theorem qpop (a : Reg) (b : Reg) : Statement (.qpop a b) := by
  intro _ _
  refine (decodeWord_6C _ (fOp_encRr _ _ _ _ _ (by decide) (by decide))).trans ?_
  unfold dec6C
  rw [fF_encRr _ _ _ _ _ (by decide) (by decide), fD_encRr _ _ _ _ _ (by decide) (by decide), fA_encRr _ _ _ _ _ (by decide) (by decide), fB_encRr _ _ _ _ _ (by decide) (by decide)]
  rfl
theorem qstat (d : Reg) (a : Reg) : Statement (.qstat d a) := by
  intro _ _
  refine (decodeWord_6C _ (fOp_encRr _ _ _ _ _ (by decide) (by decide))).trans ?_
  unfold dec6C
  rw [fF_encRr _ _ _ _ _ (by decide) (by decide), fD_encRr _ _ _ _ _ (by decide) (by decide), fA_encRr _ _ _ _ _ (by decide) (by decide), fB_encRr _ _ _ _ _ (by decide) (by decide)]
  rfl
theorem qset (d : Reg) (a : Reg) (b : Reg) : Statement (.qset d a b) := by
  intro _ _
  refine (decodeWord_6D _ (fOp_encRr _ _ _ _ _ (by decide) (by decide))).trans ?_
  unfold dec6D
  rw [fF_encRr _ _ _ _ _ (by decide) (by decide), fD_encRr _ _ _ _ _ (by decide) (by decide), fA_encRr _ _ _ _ _ (by decide) (by decide), fB_encRr _ _ _ _ _ (by decide) (by decide)]
  rfl
theorem fork (a : Reg) (b : Reg) : Statement (.fork a b) := by
  intro _ _
  refine (decodeWord_6E _ (fOp_encRr _ _ _ _ _ (by decide) (by decide))).trans ?_
  unfold dec6E
  rw [fF_encRr _ _ _ _ _ (by decide) (by decide), fD_encRr _ _ _ _ _ (by decide) (by decide), fA_encRr _ _ _ _ _ (by decide) (by decide), fB_encRr _ _ _ _ _ (by decide) (by decide)]
  rfl
theorem rendezL : Statement (.rendezL) := by
  intro _ _
  refine (decodeWord_6F _ (fOp_encRr _ _ _ _ _ (by decide) (by decide))).trans ?_
  unfold dec6F
  rw [fF_encRr _ _ _ _ _ (by decide) (by decide), fD_encRr _ _ _ _ _ (by decide) (by decide), fA_encRr _ _ _ _ _ (by decide) (by decide), fB_encRr _ _ _ _ _ (by decide) (by decide)]
  rfl
theorem rendezB : Statement (.rendezB) := by
  intro _ _
  refine (decodeWord_6F _ (fOp_encRr _ _ _ _ _ (by decide) (by decide))).trans ?_
  unfold dec6F
  rw [fF_encRr _ _ _ _ _ (by decide) (by decide), fD_encRr _ _ _ _ _ (by decide) (by decide), fA_encRr _ _ _ _ _ (by decide) (by decide), fB_encRr _ _ _ _ _ (by decide) (by decide)]
  rfl
theorem rendezLb : Statement (.rendezLb) := by
  intro _ _
  refine (decodeWord_6F _ (fOp_encRr _ _ _ _ _ (by decide) (by decide))).trans ?_
  unfold dec6F
  rw [fF_encRr _ _ _ _ _ (by decide) (by decide), fD_encRr _ _ _ _ _ (by decide) (by decide), fA_encRr _ _ _ _ _ (by decide) (by decide), fB_encRr _ _ _ _ _ (by decide) (by decide)]
  rfl
theorem mma (d : Reg) (a : Reg) (b : Reg) (g : BitVec 2) (o : Bool) : Statement (.mma d a b g o) := by
  intro _ _
  have hg := g.isLt
  have hf : g.toNat + 8 * o.toNat < 16 := by cases o <;> simp <;> omega
  refine (decodeWord_70 _ (fOp_encRr _ _ _ _ _ (by decide) hf)).trans ?_
  rw [dec70, fF_encRr _ _ _ _ _ (by decide) hf, fD_encRr _ _ _ _ _ (by decide) hf, fA_encRr _ _ _ _ _ (by decide) hf, fB_encRr _ _ _ _ _ (by decide) hf]
  have hg' : ∀ n, n % 4 = g.toNat → BitVec.ofNat 2 n = g := fun n h => BitVec.eq_of_toNat_eq (by simpa using h)
  rw [if_pos (by cases o <;> simp <;> omega), hg' _ (by cases o <;> simp <;> omega)]
  cases o <;> (simp; try omega)
theorem mmag (d : Reg) (a : Reg) (b : Reg) (g : BitVec 2) (o : Bool) : Statement (.mmag d a b g o) := by
  intro _ _
  have hg := g.isLt
  have hf : g.toNat + 8 * o.toNat < 16 := by cases o <;> simp <;> omega
  refine (decodeWord_71 _ (fOp_encRr _ _ _ _ _ (by decide) hf)).trans ?_
  rw [dec71, fF_encRr _ _ _ _ _ (by decide) hf, fD_encRr _ _ _ _ _ (by decide) hf, fA_encRr _ _ _ _ _ (by decide) hf, fB_encRr _ _ _ _ _ (by decide) hf]
  have hg' : ∀ n, n % 4 = g.toNat → BitVec.ofNat 2 n = g := fun n h => BitVec.eq_of_toNat_eq (by simpa using h)
  rw [if_pos (by cases o <;> simp <;> omega), hg' _ (by cases o <;> simp <;> omega)]
  cases o <;> (simp; try omega)
theorem twset (d : Reg) (a : Reg) (b : Reg) : Statement (.twset d a b) := by
  intro _ _
  refine (decodeWord_72 _ (fOp_encRr _ _ _ _ _ (by decide) (by decide))).trans ?_
  unfold dec72
  rw [fF_encRr _ _ _ _ _ (by decide) (by decide), fD_encRr _ _ _ _ _ (by decide) (by decide), fA_encRr _ _ _ _ _ (by decide) (by decide), fB_encRr _ _ _ _ _ (by decide) (by decide)]
  rfl
theorem accalloc (d : Reg) (a : Reg) (b : Reg) : Statement (.accalloc d a b) := by
  intro _ _
  refine (decodeWord_73 _ (fOp_encRr _ _ _ _ _ (by decide) (by decide))).trans ?_
  unfold dec73
  rw [fF_encRr _ _ _ _ _ (by decide) (by decide), fD_encRr _ _ _ _ _ (by decide) (by decide), fA_encRr _ _ _ _ _ (by decide) (by decide), fB_encRr _ _ _ _ _ (by decide) (by decide)]
  rfl
theorem accfree (a : Reg) : Statement (.accfree a) := by
  intro _ _
  refine (decodeWord_73 _ (fOp_encRr _ _ _ _ _ (by decide) (by decide))).trans ?_
  unfold dec73
  rw [fF_encRr _ _ _ _ _ (by decide) (by decide), fD_encRr _ _ _ _ _ (by decide) (by decide), fA_encRr _ _ _ _ _ (by decide) (by decide), fB_encRr _ _ _ _ _ (by decide) (by decide)]
  rfl
theorem acczero (a : Reg) : Statement (.acczero a) := by
  intro _ _
  refine (decodeWord_73 _ (fOp_encRr _ _ _ _ _ (by decide) (by decide))).trans ?_
  unfold dec73
  rw [fF_encRr _ _ _ _ _ (by decide) (by decide), fD_encRr _ _ _ _ _ (by decide) (by decide), fA_encRr _ _ _ _ _ (by decide) (by decide), fB_encRr _ _ _ _ _ (by decide) (by decide)]
  rfl
theorem accclaim (a : Reg) (b : Reg) : Statement (.accclaim a b) := by
  intro _ _
  refine (decodeWord_73 _ (fOp_encRr _ _ _ _ _ (by decide) (by decide))).trans ?_
  unfold dec73
  rw [fF_encRr _ _ _ _ _ (by decide) (by decide), fD_encRr _ _ _ _ _ (by decide) (by decide), fA_encRr _ _ _ _ _ (by decide) (by decide), fB_encRr _ _ _ _ _ (by decide) (by decide)]
  rfl
theorem accrd (d : Reg) (a : Reg) (b : Reg) : Statement (.accrd d a b) := by
  intro _ _
  refine (decodeWord_74 _ (fOp_encRr _ _ _ _ _ (by decide) (by decide))).trans ?_
  unfold dec74
  rw [fF_encRr _ _ _ _ _ (by decide) (by decide), fD_encRr _ _ _ _ _ (by decide) (by decide), fA_encRr _ _ _ _ _ (by decide) (by decide), fB_encRr _ _ _ _ _ (by decide) (by decide)]
  rfl
theorem accrdClr (d : Reg) (a : Reg) (b : Reg) : Statement (.accrdClr d a b) := by
  intro _ _
  refine (decodeWord_74 _ (fOp_encRr _ _ _ _ _ (by decide) (by decide))).trans ?_
  unfold dec74
  rw [fF_encRr _ _ _ _ _ (by decide) (by decide), fD_encRr _ _ _ _ _ (by decide) (by decide), fA_encRr _ _ _ _ _ (by decide) (by decide), fB_encRr _ _ _ _ _ (by decide) (by decide)]
  rfl
theorem accwr (d : Reg) (a : Reg) (b : Reg) : Statement (.accwr d a b) := by
  intro _ _
  refine (decodeWord_75 _ (fOp_encRr _ _ _ _ _ (by decide) (by decide))).trans ?_
  unfold dec75
  rw [fF_encRr _ _ _ _ _ (by decide) (by decide), fD_encRr _ _ _ _ _ (by decide) (by decide), fA_encRr _ _ _ _ _ (by decide) (by decide), fB_encRr _ _ _ _ _ (by decide) (by decide)]
  rfl
theorem qnt (d : Reg) (a : Reg) (b : Reg) : Statement (.qnt d a b) := by
  intro _ _
  refine (decodeWord_76 _ (fOp_encRr _ _ _ _ _ (by decide) (by decide))).trans ?_
  unfold dec76
  rw [fF_encRr _ _ _ _ _ (by decide) (by decide), fD_encRr _ _ _ _ _ (by decide) (by decide), fA_encRr _ _ _ _ _ (by decide) (by decide), fB_encRr _ _ _ _ _ (by decide) (by decide)]
  rfl
theorem plpack (a : Reg) (b : Reg) : Statement (.plpack a b) := by
  intro _ _
  refine (decodeWord_77 _ (fOp_encRr _ _ _ _ _ (by decide) (by decide))).trans ?_
  unfold dec77
  rw [fF_encRr _ _ _ _ _ (by decide) (by decide), fD_encRr _ _ _ _ _ (by decide) (by decide), fA_encRr _ _ _ _ _ (by decide) (by decide), fB_encRr _ _ _ _ _ (by decide) (by decide)]
  rfl
theorem plunp (d : Reg) (b : Reg) : Statement (.plunp d b) := by
  intro _ _
  refine (decodeWord_77 _ (fOp_encRr _ _ _ _ _ (by decide) (by decide))).trans ?_
  unfold dec77
  rw [fF_encRr _ _ _ _ _ (by decide) (by decide), fD_encRr _ _ _ _ _ (by decide) (by decide), fA_encRr _ _ _ _ _ (by decide) (by decide), fB_encRr _ _ _ _ _ (by decide) (by decide)]
  rfl
theorem ctld (a : Reg) (b : Reg) : Statement (.ctld a b) := by
  intro _ _
  refine (decodeWord_78 _ (fOp_encRr _ _ _ _ _ (by decide) (by decide))).trans ?_
  unfold dec78
  rw [fF_encRr _ _ _ _ _ (by decide) (by decide), fD_encRr _ _ _ _ _ (by decide) (by decide), fA_encRr _ _ _ _ _ (by decide) (by decide), fB_encRr _ _ _ _ _ (by decide) (by decide)]
  rfl
theorem copy (d : Reg) (a : Reg) (b : Reg) (o : Bool) (g : BitVec 2) : Statement (.copy d a b o g) := by
  intro _ _
  have hg := g.isLt
  have hf : o.toNat + 4 * g.toNat < 16 := by cases o <;> simp <;> omega
  refine (decodeWord_79 _ (fOp_encRr _ _ _ _ _ (by decide) hf)).trans ?_
  rw [dec79, fF_encRr _ _ _ _ _ (by decide) hf, fD_encRr _ _ _ _ _ (by decide) hf, fA_encRr _ _ _ _ _ (by decide) hf, fB_encRr _ _ _ _ _ (by decide) hf]
  have hg' : ∀ n, n % 4 = g.toNat → BitVec.ofNat 2 n = g := fun n h => BitVec.eq_of_toNat_eq (by simpa using h)
  rw [if_pos (by cases o <;> simp <;> omega), hg' _ (by cases o <;> simp <;> omega)]
  cases o <;> (simp; try omega)
theorem copym (d : Reg) (a : Reg) (b : Reg) (o : Bool) (g : BitVec 2) : Statement (.copym d a b o g) := by
  intro _ _
  have hg := g.isLt
  have hf : o.toNat + 4 * g.toNat < 16 := by cases o <;> simp <;> omega
  refine (decodeWord_7A _ (fOp_encRr _ _ _ _ _ (by decide) hf)).trans ?_
  rw [dec7A, fF_encRr _ _ _ _ _ (by decide) hf, fD_encRr _ _ _ _ _ (by decide) hf, fA_encRr _ _ _ _ _ (by decide) hf, fB_encRr _ _ _ _ _ (by decide) hf]
  have hg' : ∀ n, n % 4 = g.toNat → BitVec.ofNat 2 n = g := fun n h => BitVec.eq_of_toNat_eq (by simpa using h)
  rw [if_pos (by cases o <;> simp <;> omega), hg' _ (by cases o <;> simp <;> omega)]
  cases o <;> (simp; try omega)
theorem sbradd (a : Reg) (b : Reg) : Statement (.sbradd a b) := by
  intro _ _
  refine (decodeWord_7B _ (fOp_encRr _ _ _ _ _ (by decide) (by decide))).trans ?_
  unfold dec7B
  rw [fF_encRr _ _ _ _ _ (by decide) (by decide), fD_encRr _ _ _ _ _ (by decide) (by decide), fA_encRr _ _ _ _ _ (by decide) (by decide), fB_encRr _ _ _ _ _ (by decide) (by decide)]
  rfl
theorem sbrmin (a : Reg) (b : Reg) : Statement (.sbrmin a b) := by
  intro _ _
  refine (decodeWord_7B _ (fOp_encRr _ _ _ _ _ (by decide) (by decide))).trans ?_
  unfold dec7B
  rw [fF_encRr _ _ _ _ _ (by decide) (by decide), fD_encRr _ _ _ _ _ (by decide) (by decide), fA_encRr _ _ _ _ _ (by decide) (by decide), fB_encRr _ _ _ _ _ (by decide) (by decide)]
  rfl
theorem sbrmax (a : Reg) (b : Reg) : Statement (.sbrmax a b) := by
  intro _ _
  refine (decodeWord_7B _ (fOp_encRr _ _ _ _ _ (by decide) (by decide))).trans ?_
  unfold dec7B
  rw [fF_encRr _ _ _ _ _ (by decide) (by decide), fD_encRr _ _ _ _ _ (by decide) (by decide), fA_encRr _ _ _ _ _ (by decide) (by decide), fB_encRr _ _ _ _ _ (by decide) (by decide)]
  rfl
theorem sbrfadd (a : Reg) (b : Reg) : Statement (.sbrfadd a b) := by
  intro _ _
  refine (decodeWord_7B _ (fOp_encRr _ _ _ _ _ (by decide) (by decide))).trans ?_
  unfold dec7B
  rw [fF_encRr _ _ _ _ _ (by decide) (by decide), fD_encRr _ _ _ _ _ (by decide) (by decide), fA_encRr _ _ _ _ _ (by decide) (by decide), fB_encRr _ _ _ _ _ (by decide) (by decide)]
  rfl
theorem sbuadd (a : Reg) (b : Reg) : Statement (.sbuadd a b) := by
  intro _ _
  refine (decodeWord_7B _ (fOp_encRr _ _ _ _ _ (by decide) (by decide))).trans ?_
  unfold dec7B
  rw [fF_encRr _ _ _ _ _ (by decide) (by decide), fD_encRr _ _ _ _ _ (by decide) (by decide), fA_encRr _ _ _ _ _ (by decide) (by decide), fB_encRr _ _ _ _ _ (by decide) (by decide)]
  rfl
theorem sbumin (a : Reg) (b : Reg) : Statement (.sbumin a b) := by
  intro _ _
  refine (decodeWord_7B _ (fOp_encRr _ _ _ _ _ (by decide) (by decide))).trans ?_
  unfold dec7B
  rw [fF_encRr _ _ _ _ _ (by decide) (by decide), fD_encRr _ _ _ _ _ (by decide) (by decide), fA_encRr _ _ _ _ _ (by decide) (by decide), fB_encRr _ _ _ _ _ (by decide) (by decide)]
  rfl
theorem sbumax (a : Reg) (b : Reg) : Statement (.sbumax a b) := by
  intro _ _
  refine (decodeWord_7B _ (fOp_encRr _ _ _ _ _ (by decide) (by decide))).trans ?_
  unfold dec7B
  rw [fF_encRr _ _ _ _ _ (by decide) (by decide), fD_encRr _ _ _ _ _ (by decide) (by decide), fA_encRr _ _ _ _ _ (by decide) (by decide), fB_encRr _ _ _ _ _ (by decide) (by decide)]
  rfl
theorem sbufadd (a : Reg) (b : Reg) : Statement (.sbufadd a b) := by
  intro _ _
  refine (decodeWord_7B _ (fOp_encRr _ _ _ _ _ (by decide) (by decide))).trans ?_
  unfold dec7B
  rw [fF_encRr _ _ _ _ _ (by decide) (by decide), fD_encRr _ _ _ _ _ (by decide) (by decide), fA_encRr _ _ _ _ _ (by decide) (by decide), fB_encRr _ _ _ _ _ (by decide) (by decide)]
  rfl
theorem rredAdd (a : Reg) (b : Reg) : Statement (.rredAdd a b) := by
  intro h _
  (refine (decodeWord_7C _ (fOp_encRr _ _ _ _ _ (by decide) (by decide))).trans ?_; simp [h, dec7C, zero, triple, casPair, scopeOf, Scope.code, PfLevel.code, dec7Cred, fF_encRr, fD_encRr, fA_encRr, fB_encRr])
theorem rredMin (a : Reg) (b : Reg) : Statement (.rredMin a b) := by
  intro h _
  (refine (decodeWord_7C _ (fOp_encRr _ _ _ _ _ (by decide) (by decide))).trans ?_; simp [h, dec7C, zero, triple, casPair, scopeOf, Scope.code, PfLevel.code, dec7Cred, fF_encRr, fD_encRr, fA_encRr, fB_encRr])
theorem rredMax (a : Reg) (b : Reg) : Statement (.rredMax a b) := by
  intro h _
  (refine (decodeWord_7C _ (fOp_encRr _ _ _ _ _ (by decide) (by decide))).trans ?_; simp [h, dec7C, zero, triple, casPair, scopeOf, Scope.code, PfLevel.code, dec7Cred, fF_encRr, fD_encRr, fA_encRr, fB_encRr])
theorem rredMinu (a : Reg) (b : Reg) : Statement (.rredMinu a b) := by
  intro h _
  (refine (decodeWord_7C _ (fOp_encRr _ _ _ _ _ (by decide) (by decide))).trans ?_; simp [h, dec7C, zero, triple, casPair, scopeOf, Scope.code, PfLevel.code, dec7Cred, fF_encRr, fD_encRr, fA_encRr, fB_encRr])
theorem rredMaxu (a : Reg) (b : Reg) : Statement (.rredMaxu a b) := by
  intro h _
  (refine (decodeWord_7C _ (fOp_encRr _ _ _ _ _ (by decide) (by decide))).trans ?_; simp [h, dec7C, zero, triple, casPair, scopeOf, Scope.code, PfLevel.code, dec7Cred, fF_encRr, fD_encRr, fA_encRr, fB_encRr])
theorem rredFadd (a : Reg) (b : Reg) : Statement (.rredFadd a b) := by
  intro h _
  (refine (decodeWord_7C _ (fOp_encRr _ _ _ _ _ (by decide) (by decide))).trans ?_; simp [h, dec7C, zero, triple, casPair, scopeOf, Scope.code, PfLevel.code, dec7Cred, fF_encRr, fD_encRr, fA_encRr, fB_encRr])
theorem rredAddD (a : Reg) (b : Reg) : Statement (.rredAddD a b) := by
  intro h _
  (refine (decodeWord_7C _ (fOp_encRr _ _ _ _ _ (by decide) (by decide))).trans ?_; simp [h, dec7C, zero, triple, casPair, scopeOf, Scope.code, PfLevel.code, dec7Cred, fF_encRr, fD_encRr, fA_encRr, fB_encRr])
theorem rredOr (a : Reg) (b : Reg) : Statement (.rredOr a b) := by
  intro h _
  (refine (decodeWord_7C _ (fOp_encRr _ _ _ _ _ (by decide) (by decide))).trans ?_; simp [h, dec7C, zero, triple, casPair, scopeOf, Scope.code, PfLevel.code, dec7Cred, fF_encRr, fD_encRr, fA_encRr, fB_encRr])
theorem coll (a : Reg) (b : Reg) : Statement (.coll a b) := by
  intro _ _
  refine (decodeWord_7C _ (fOp_encRr _ _ _ _ _ (by decide) (by decide))).trans ?_
  unfold dec7C
  rw [fF_encRr _ _ _ _ _ (by decide) (by decide), fD_encRr _ _ _ _ _ (by decide) (by decide), fA_encRr _ _ _ _ _ (by decide) (by decide), fB_encRr _ _ _ _ _ (by decide) (by decide)]
  rfl
theorem cquiet (a : Reg) : Statement (.cquiet a) := by
  intro _ _
  refine (decodeWord_7C _ (fOp_encRr _ _ _ _ _ (by decide) (by decide))).trans ?_
  unfold dec7C
  rw [fF_encRr _ _ _ _ _ (by decide) (by decide), fD_encRr _ _ _ _ _ (by decide) (by decide), fA_encRr _ _ _ _ _ (by decide) (by decide), fB_encRr _ _ _ _ _ (by decide) (by decide)]
  rfl
theorem glaunch (d : Reg) (a : Reg) : Statement (.glaunch d a) := by
  intro _ _
  refine (decodeWord_7C _ (fOp_encRr _ _ _ _ _ (by decide) (by decide))).trans ?_
  unfold dec7C
  rw [fF_encRr _ _ _ _ _ (by decide) (by decide), fD_encRr _ _ _ _ _ (by decide) (by decide), fA_encRr _ _ _ _ _ (by decide) (by decide), fB_encRr _ _ _ _ _ (by decide) (by decide)]
  rfl
theorem gstat (d : Reg) (a : Reg) : Statement (.gstat d a) := by
  intro _ _
  refine (decodeWord_7C _ (fOp_encRr _ _ _ _ _ (by decide) (by decide))).trans ?_
  unfold dec7C
  rw [fF_encRr _ _ _ _ _ (by decide) (by decide), fD_encRr _ _ _ _ _ (by decide) (by decide), fA_encRr _ _ _ _ _ (by decide) (by decide), fB_encRr _ _ _ _ _ (by decide) (by decide)]
  rfl
theorem rwin (a : Reg) (b : Reg) : Statement (.rwin a b) := by
  intro _ _
  refine (decodeWord_7C _ (fOp_encRr _ _ _ _ _ (by decide) (by decide))).trans ?_
  unfold dec7C
  rw [fF_encRr _ _ _ _ _ (by decide) (by decide), fD_encRr _ _ _ _ _ (by decide) (by decide), fA_encRr _ _ _ _ _ (by decide) (by decide), fB_encRr _ _ _ _ _ (by decide) (by decide)]
  rfl
theorem trap (a : Reg) : Statement (.trap a) := by
  intro _ _
  refine (decodeWord_7D _ (fOp_encRr _ _ _ _ _ (by decide) (by decide))).trans ?_
  unfold dec7D
  rw [fF_encRr _ _ _ _ _ (by decide) (by decide), fD_encRr _ _ _ _ _ (by decide) (by decide), fA_encRr _ _ _ _ _ (by decide) (by decide), fB_encRr _ _ _ _ _ (by decide) (by decide)]
  rfl
theorem sret : Statement (.sret) := by
  intro _ _
  refine (decodeWord_7D _ (fOp_encRr _ _ _ _ _ (by decide) (by decide))).trans ?_
  unfold dec7D
  rw [fF_encRr _ _ _ _ _ (by decide) (by decide), fD_encRr _ _ _ _ _ (by decide) (by decide), fA_encRr _ _ _ _ _ (by decide) (by decide), fB_encRr _ _ _ _ _ (by decide) (by decide)]
  rfl
theorem pgres (a : Reg) : Statement (.pgres a) := by
  intro _ _
  refine (decodeWord_7D _ (fOp_encRr _ _ _ _ _ (by decide) (by decide))).trans ?_
  unfold dec7D
  rw [fF_encRr _ _ _ _ _ (by decide) (by decide), fD_encRr _ _ _ _ _ (by decide) (by decide), fA_encRr _ _ _ _ _ (by decide) (by decide), fB_encRr _ _ _ _ _ (by decide) (by decide)]
  rfl
theorem mapu (d : Reg) (a : Reg) (b : Reg) : Statement (.mapu d a b) := by
  intro _ _
  refine (decodeWord_7D _ (fOp_encRr _ _ _ _ _ (by decide) (by decide))).trans ?_
  unfold dec7D
  rw [fF_encRr _ _ _ _ _ (by decide) (by decide), fD_encRr _ _ _ _ _ (by decide) (by decide), fA_encRr _ _ _ _ _ (by decide) (by decide), fB_encRr _ _ _ _ _ (by decide) (by decide)]
  rfl
theorem tlbinv (a : Reg) (b : Reg) : Statement (.tlbinv a b) := by
  intro _ _
  refine (decodeWord_7D _ (fOp_encRr _ _ _ _ _ (by decide) (by decide))).trans ?_
  unfold dec7D
  rw [fF_encRr _ _ _ _ _ (by decide) (by decide), fD_encRr _ _ _ _ _ (by decide) (by decide), fA_encRr _ _ _ _ _ (by decide) (by decide), fB_encRr _ _ _ _ _ (by decide) (by decide)]
  rfl
theorem lanerd (d : Reg) (a : Reg) (b : Reg) : Statement (.lanerd d a b) := by
  intro _ _
  refine (decodeWord_7D _ (fOp_encRr _ _ _ _ _ (by decide) (by decide))).trans ?_
  unfold dec7D
  rw [fF_encRr _ _ _ _ _ (by decide) (by decide), fD_encRr _ _ _ _ _ (by decide) (by decide), fA_encRr _ _ _ _ _ (by decide) (by decide), fB_encRr _ _ _ _ _ (by decide) (by decide)]
  rfl
theorem lanewr (d : Reg) (a : Reg) (b : Reg) : Statement (.lanewr d a b) := by
  intro _ _
  refine (decodeWord_7D _ (fOp_encRr _ _ _ _ _ (by decide) (by decide))).trans ?_
  unfold dec7D
  rw [fF_encRr _ _ _ _ _ (by decide) (by decide), fD_encRr _ _ _ _ _ (by decide) (by decide), fA_encRr _ _ _ _ _ (by decide) (by decide), fB_encRr _ _ _ _ _ (by decide) (by decide)]
  rfl
theorem pendingAgingTick : Statement (.pendingAgingTick) := fun _ h => absurd rfl h
theorem blockPlacement (die : Nat) : Statement (.blockPlacement die) := fun _ h => absurd rfl h
theorem rotation (core : Nat) : Statement (.rotation core) := fun _ h => absurd rfl h
theorem starvationBoost (uid : Nat) : Statement (.starvationBoost uid) := fun _ h => absurd rfl h
theorem starvation (uid : Nat) : Statement (.starvation uid) := fun _ h => absurd rfl h
theorem localityScoreHalving (core : Nat) : Statement (.localityScoreHalving core) := fun _ h => absurd rfl h
theorem allowanceStep (core : Nat) : Statement (.allowanceStep core) := fun _ h => absurd rfl h
theorem allowanceReset (core : Nat) : Statement (.allowanceReset core) := fun _ h => absurd rfl h
theorem latticeSequencerRound (core : Nat) : Statement (.latticeSequencerRound core) := fun _ h => absurd rfl h
theorem queueExtension (blk : Nat) (q : Nat) : Statement (.queueExtension blk q) := fun _ h => absurd rfl h
theorem waitGraphWalk (blk : Nat) : Statement (.waitGraphWalk blk) := fun _ h => absurd rfl h
theorem quotaMove (blk : Nat) (q : Nat) : Statement (.quotaMove blk q) := fun _ h => absurd rfl h
theorem preemption (blk : Nat) : Statement (.preemption blk) := fun _ h => absurd rfl h
theorem blockResume (blk : Nat) (core : Nat) : Statement (.blockResume blk core) := fun _ h => absurd rfl h
theorem budgetWindowStart : Statement (.budgetWindowStart) := fun _ h => absurd rfl h
theorem energyCharge (ctx : Nat) (nj : Nat) : Statement (.energyCharge ctx nj) := fun _ h => absurd rfl h
theorem clockPlannerStep (watts : Nat) : Statement (.clockPlannerStep watts) := fun _ h => absurd rfl h
theorem loadCompletion (uid : Nat) (seq : Nat) (parts : List Nat) : Statement (.loadCompletion uid seq parts) := fun _ h => absurd rfl h
theorem storeCompletion (uid : Nat) (seq : Nat) (parts : List Nat) : Statement (.storeCompletion uid seq parts) := fun _ h => absurd rfl h
theorem asynchronousTrapDelivery (uid : Nat) : Statement (.asynchronousTrapDelivery uid) := fun _ h => absurd rfl h
theorem regReq (uid : Nat) (seq : Nat) (part : Nat) : Statement (.regReq uid seq part) := fun _ h => absurd rfl h
theorem regFwd (uid : Nat) (seq : Nat) (part : Nat) : Statement (.regFwd uid seq part) := fun _ h => absurd rfl h
theorem regRevoke (pa : Nat) : Statement (.regRevoke pa) := fun _ h => absurd rfl h
theorem raceNak (uid : Nat) (seq : Nat) (part : Nat) : Statement (.raceNak uid seq part) := fun _ h => absurd rfl h
theorem regXfer (core : Nat) (cmd : Nat) (sector : Nat) : Statement (.regXfer core cmd sector) := fun _ h => absurd rfl h
theorem regAck (core : Nat) (cmd : Nat) (sector : Nat) : Statement (.regAck core cmd sector) := fun _ h => absurd rfl h
theorem l1Fill (core : Nat) (ctx : Nat) (va : Nat) : Statement (.l1Fill core ctx va) := fun _ h => absurd rfl h
theorem llcFill (pa : Nat) : Statement (.llcFill pa) := fun _ h => absurd rfl h
theorem fetchFill (r : LineAsk) : Statement (.fetchFill r) := fun _ h => absurd rfl h
theorem fetchRetry (uid : Nat) : Statement (.fetchRetry uid) := fun _ h => absurd rfl h
theorem pageTableWalk (core : Nat) (ctx : Nat) (va : Nat) : Statement (.pageTableWalk core ctx va) := fun _ h => absurd rfl h
theorem faultResolutionTimeout (ctx : Nat) (record : Nat) : Statement (.faultResolutionTimeout ctx record) := fun _ h => absurd rfl h
theorem wsleepWakeEvent (uid : Nat) : Statement (.wsleepWakeEvent uid) := fun _ h => absurd rfl h
theorem wsleepReevaluation (uid : Nat) : Statement (.wsleepReevaluation uid) := fun _ h => absurd rfl h
theorem wsleepTimeout (uid : Nat) : Statement (.wsleepTimeout uid) := fun _ h => absurd rfl h
theorem trellisRelease (id : Nat) : Statement (.trellisRelease id) := fun _ h => absurd rfl h
theorem latticeCommandPerformed (core : Nat) (uid : Nat) (bad : Bool) : Statement (.latticeCommandPerformed core uid bad) := fun _ h => absurd rfl h
theorem listCommandRecord (uid : Nat) (which : ListId) : Statement (.listCommandRecord uid which) := fun _ h => absurd rfl h
theorem listEndRecord (uid : Nat) (which : ListId) : Statement (.listEndRecord uid which) := fun _ h => absurd rfl h
theorem listLoopRecord (uid : Nat) (which : ListId) : Statement (.listLoopRecord uid which) := fun _ h => absurd rfl h
theorem listBaseaRecord (uid : Nat) (which : ListId) : Statement (.listBaseaRecord uid which) := fun _ h => absurd rfl h
theorem listBasebRecord (uid : Nat) (which : ListId) : Statement (.listBasebRecord uid which) := fun _ h => absurd rfl h
theorem sectorDelivery (core : Nat) (cmd : Nat) (sector : Nat) (crcBad : Nat) : Statement (.sectorDelivery core cmd sector crcBad) := fun _ h => absurd rfl h
theorem barrowTranslationFault (core : Nat) (cmd : Nat) : Statement (.barrowTranslationFault core cmd) := fun _ h => absurd rfl h
theorem followOnEnd (core : Nat) (cmd : Nat) : Statement (.followOnEnd core cmd) := fun _ h => absurd rfl h
theorem packetDelivery (p : Arrival) : Statement (.packetDelivery p) := fun _ h => absurd rfl h
theorem acknowledgement (dst : Nat) (seq : Nat) (r : Reply) : Statement (.acknowledgement dst seq r) := fun _ h => absurd rfl h
theorem ackTimeout (dst : Nat) (elem : Nat) : Statement (.ackTimeout dst elem) := fun _ h => absurd rfl h
theorem linkCrcFailureReport (elem : Nat) : Statement (.linkCrcFailureReport elem) := fun _ h => absurd rfl h
theorem flowReroute (dst : Nat) (route : List Nat) : Statement (.flowReroute dst route) := fun _ h => absurd rfl h
theorem linkRetrain (elem : Nat) : Statement (.linkRetrain elem) := fun _ h => absurd rfl h
theorem flowUnreachable (dst : Nat) : Statement (.flowUnreachable dst) := fun _ h => absurd rfl h
theorem switchMerge (sw : Nat) (p : Packet) : Statement (.switchMerge sw p) := fun _ h => absurd rfl h
theorem mergeEntryForward (sw : Nat) (entry : Nat) (full : Bool) : Statement (.mergeEntryForward sw entry full) := fun _ h => absurd rfl h
theorem mergedPacketReceipt (p : Arrival) : Statement (.mergedPacketReceipt p) := fun _ h => absurd rfl h
theorem replayUnmerged (dst : Nat) (seqs : List Nat) : Statement (.replayUnmerged dst seqs) := fun _ h => absurd rfl h
theorem phaseQuietReport (ctx : Nat) (ph : Bool) (unit : Nat) : Statement (.phaseQuietReport ctx ph unit) := fun _ h => absurd rfl h
theorem gangPrepare (g : GangMsg) : Statement (.gangPrepare g) := fun _ h => absurd rfl h
theorem gangPrepareAnswer (slot : Nat) (member : Nat) (status : Nat) : Statement (.gangPrepareAnswer slot member status) := fun _ h => absurd rfl h
theorem gangPrepareTimeout (slot : Nat) : Statement (.gangPrepareTimeout slot) := fun _ h => absurd rfl h
theorem gangBegin (key : Nat) : Statement (.gangBegin key) := fun _ h => absurd rfl h
theorem gangCancel (key : Nat) : Statement (.gangCancel key) := fun _ h => absurd rfl h
theorem gangBegun (slot : Nat) (member : Nat) (ended : Option Nat) : Statement (.gangBegun slot member ended) := fun _ h => absurd rfl h
theorem gangBeginTimeout (slot : Nat) : Statement (.gangBeginTimeout slot) := fun _ h => absurd rfl h
theorem collectiveCompletion (ctx : Nat) (group : Nat) (k : Nat) (rank : Nat) (order : List Nat) (far : List CollPart) : Statement (.collectiveCompletion ctx group k rank order far) := fun _ h => absurd rfl h
theorem crossDieTimeout (r : PartName) : Statement (.crossDieTimeout r) := fun _ h => absurd rfl h
theorem referenceCounterCompare (first : Nat) (last : Nat) : Statement (.referenceCounterCompare first last) := fun _ h => absurd rfl h
theorem diectlGo (die : Nat) : Statement (.diectlGo die) := fun _ h => absurd rfl h
theorem diectlCancel (die : Nat) : Statement (.diectlCancel die) := fun _ h => absurd rfl h
theorem dieDrainCompletion (die : Nat) : Statement (.dieDrainCompletion die) := fun _ h => absurd rfl h
theorem errinjGo (v : Word) : Statement (.errinjGo v) := fun _ h => absurd rfl h
theorem linkctlDownSet (port : Nat) : Statement (.linkctlDownSet port) := fun _ h => absurd rfl h
theorem linkctlDownClear (port : Nat) : Statement (.linkctlDownClear port) := fun _ h => absurd rfl h
theorem fstatWrite (v : Word) : Statement (.fstatWrite v) := fun _ h => absurd rfl h
theorem frmWrite (v : Word) : Statement (.frmWrite v) := fun _ h => absurd rfl h
theorem mstatClear (v : Word) : Statement (.mstatClear v) := fun _ h => absurd rfl h
theorem patrolScrub (pa : Nat) : Statement (.patrolScrub pa) := fun _ h => absurd rfl h
theorem filterClear : Statement (.filterClear) := fun _ h => absurd rfl h
theorem freeze : Statement (.freeze) := fun _ h => absurd rfl h
theorem thaw : Statement (.thaw) := fun _ h => absurd rfl h
theorem testPortRead (what : Nat) (addr : Nat) : Statement (.testPortRead what addr) := fun _ h => absurd rfl h
theorem pwrgood (sigOk : Bool) (images : List (List Byte)) (straps : List Nat) (fwd : List Nat) : Statement (.pwrgood sigOk images straps fwd) := fun _ h => absurd rfl h
theorem ucieLinkTraining (ok : Bool) (images : List (List Byte)) : Statement (.ucieLinkTraining ok images) := fun _ h => absurd rfl h
theorem tier1ChannelTraining (ok : Bool) : Statement (.tier1ChannelTraining ok) := fun _ h => absurd rfl h
theorem cxlPortTraining (hostsel : List Bool) (hosts : List Bool) (up : PortsUp) : Statement (.cxlPortTraining hostsel hosts up) := fun _ h => absurd rfl h
theorem hostCxlMemRead (port : Nat) (pa : Nat) (n : Nat) : Statement (.hostCxlMemRead port pa n) := fun _ h => absurd rfl h
theorem hostCxlMemWrite (port : Nat) (pa : Nat) (bytes : List Byte) : Statement (.hostCxlMemWrite port pa bytes) := fun _ h => absurd rfl h
theorem hstatClear (v : Word) : Statement (.hstatClear v) := fun _ h => absurd rfl h
theorem getVersion (port : Nat) : Statement (.getVersion port) := fun _ h => absurd rfl h
theorem getCapabilities (port : Nat) : Statement (.getCapabilities port) := fun _ h => absurd rfl h
theorem negotiateAlgorithms (o : AlgOffer) : Statement (.negotiateAlgorithms o) := fun _ h => absurd rfl h
theorem getDigests (port : Nat) : Statement (.getDigests port) := fun _ h => absurd rfl h
theorem getCertificate (port : Nat) (slot : Nat) (off : Nat) (len : Nat) : Statement (.getCertificate port slot off len) := fun _ h => absurd rfl h
theorem challenge (port : Nat) (nonce : List Byte) : Statement (.challenge port nonce) := fun _ h => absurd rfl h
theorem getMeasurements (port : Nat) (index : Nat) (nonce : List Byte) : Statement (.getMeasurements port index nonce) := fun _ h => absurd rfl h
theorem illegalInstruction (w : W32) : Statement (.illegalInstruction w) := fun _ h => absurd rfl h
theorem packageReset : Statement (.packageReset) := fun _ h => absurd rfl h
theorem hostPortLinkDown (port : Nat) : Statement (.hostPortLinkDown port) := fun _ h => absurd rfl h
theorem hostPortLinkRetrain (port : Nat) : Statement (.hostPortLinkRetrain port) := fun _ h => absurd rfl h
theorem contextCreation (p : CtxParams) : Statement (.contextCreation p) := fun _ h => absurd rfl h
theorem poolEnlargement (ctx : Nat) (spill : Nat) (ovf : Nat) : Statement (.poolEnlargement ctx spill ovf) := fun _ h => absurd rfl h
theorem trellisIdentifierBinding (id : Nat) (ctx : Nat) (tasks : List Nat) (n : Nat) : Statement (.trellisIdentifierBinding id ctx tasks n) := fun _ h => absurd rfl h
theorem collectiveGroupBinding (ctx : Nat) (group : Nat) (owner : Nat) (blocks : List Nat) : Statement (.collectiveGroupBinding ctx group owner blocks) := fun _ h => absurd rfl h

end Laws.RoundTrip

end Sys2Proof
end

