-- ==== Sys2Proof/Laws/Scalar.lean ====
section
/-! SUPPORT. Scalar instructions: a result or a branch after its word has passed the gate, words without a vector source, and the
arithmetic of the results in terms of integers (R178 to R188). -/

set_option Elab.async false

namespace Sys2Proof.Machine

open Sys2Proof

/-! ### Words of the scalar majors: outside a dual pair they start from the state as it is -/

theorem entered_rr {s : State} (hq : s.th.partner = none) (op f : Nat) (d a b : Reg) (ho : op ≤ 0x06 := by decide) (hf : f < 16 := by decide) :
    s.entered (encRr op f d a b) = s := by
  have ho' : op < 128 := by omega
  refine entered_self hq ?_ ?_
  · rw [wordRegs_eq, fOp_encRr _ _ _ _ _ ho' hf, fF_encRr _ _ _ _ _ ho' hf]
    interval_cases op <;> first | rfl | (simp [kindsOf, fieldRegs]; done) | (interval_cases f <;> rfl)
  · rw [wOp_eq, wF_eq, fOp_encRr _ _ _ _ _ ho' hf, fF_encRr _ _ _ _ _ ho' hf]
    interval_cases op <;> simp [txDisallowed]

theorem entered_ri {s : State} (hq : s.th.partner = none) (op : Nat) (d a : Reg) (i : BitVec 11) (ho : 0x10 ≤ op ∧ op ≤ 0x28 := by decide) :
    s.entered (encRi op d a i) = s := by
  obtain ⟨h1, h2⟩ := ho
  refine entered_self hq ?_ ?_
  · interval_cases op <;> simp [wordRegs_eq, fOp_encRi, kindsOf, fieldRegs]
  · interval_cases op <;> simp [wOp_eq, wF_eq, fOp_encRi, txDisallowed]

theorem entered_ru {s : State} (hq : s.th.partner = none) (op : Nat) (d : Reg) (i : BitVec 18) (ho : 0x1A ≤ op ∧ op ≤ 0x1C := by decide) :
    s.entered (encRu op d i) = s := by
  obtain ⟨h1, h2⟩ := ho
  refine entered_self hq ?_ ?_
  · interval_cases op <;> simp [wordRegs_eq, fOp_encRu, kindsOf, fieldRegs]
  · interval_cases op <;> simp [wOp_eq, wF_eq, fOp_encRu, txDisallowed]

theorem entered_jx {s : State} (hq : s.th.partner = none) (op : Nat) (x : BitVec 25) (ho : op = 0x29 ∨ op = 0x2A ∨ op = 0x3E) :
    s.entered (encJx op x) = s := by
  refine entered_self hq ?_ ?_
  · rcases ho with rfl | rfl | rfl <;> simp [wordRegs_eq, fOp_encJx, kindsOf, fieldRegs]
  · rcases ho with rfl | rfl | rfl <;> simp [wOp_eq, wF_eq, fOp_encJx, txDisallowed]

/-! ### Results and branches -/

theorem result_gives {s : State} {w : W32} {r : Reg} (h : s.passes w) {g : State → Word} {v : Word} (hv : g (s.entered w) = v) :
    s.result w r g = .next ((s.entered w).sset r v).adv := by
  rw [result_passes h, hv]

theorem branch_gives {s : State} {w : W32} {x : BitVec 11} (h : s.passes w) {c : State → Bool} {b : Bool} (hc : c (s.entered w) = b) :
    s.branch w x c = .next (if b then (s.entered w).goto (target s.th.pc x) else (s.entered w).adv) := by
  rw [branch_passes h, hc]

/-! ### Arithmetic -/

theorem sminB_eq {n : Nat} (x y : BitVec n) : sminB x y = if x.toInt ≤ y.toInt then x else y := by
  simp only [sminB, BitVec.slt]
  by_cases hh : x.toInt < y.toInt
  · simp [hh, le_of_lt]
  · by_cases h2 : x.toInt = y.toInt
    · simp [BitVec.eq_of_toInt_eq h2]
    · simp [show ¬ x.toInt ≤ y.toInt by omega, show ¬ x.toInt < y.toInt from hh]

theorem smaxB_eq {n : Nat} (x y : BitVec n) : smaxB x y = if x.toInt ≤ y.toInt then y else x := by
  simp only [smaxB, BitVec.slt]
  by_cases hh : x.toInt < y.toInt
  · simp [hh, le_of_lt]
  · by_cases h2 : x.toInt = y.toInt
    · simp [BitVec.eq_of_toInt_eq h2]
    · simp [show ¬ x.toInt ≤ y.toInt by omega, show ¬ x.toInt < y.toInt from hh]

theorem uminB_eq {n : Nat} (x y : BitVec n) : uminB x y = if x.toNat ≤ y.toNat then x else y := by
  simp only [uminB, BitVec.ult]
  by_cases hh : x.toNat < y.toNat
  · simp [hh, le_of_lt]
  · by_cases h2 : x.toNat = y.toNat
    · simp [BitVec.eq_of_toNat_eq h2]
    · simp [show ¬ x.toNat ≤ y.toNat by omega, show ¬ x.toNat < y.toNat from hh]

theorem umaxB_eq {n : Nat} (x y : BitVec n) : umaxB x y = if x.toNat ≤ y.toNat then y else x := by
  simp only [umaxB, BitVec.ult]
  by_cases hh : x.toNat < y.toNat
  · simp [hh, le_of_lt]
  · by_cases h2 : x.toNat = y.toNat
    · simp [BitVec.eq_of_toNat_eq h2]
    · simp [show ¬ x.toNat ≤ y.toNat by omega, show ¬ x.toNat < y.toNat from hh]

theorem shiftLeft_ofNat {n : Nat} (x : BitVec n) (k : Nat) : x <<< k = BitVec.ofNat n (x.toNat * 2 ^ k) := by
  apply BitVec.eq_of_toNat_eq
  simp [BitVec.toNat_shiftLeft, Nat.shiftLeft_eq]

theorem shiftRight_ofNat {n : Nat} (x : BitVec n) (k : Nat) : x >>> k = BitVec.ofNat n (x.toNat / 2 ^ k) := by
  apply BitVec.eq_of_toNat_eq
  simp only [BitVec.toNat_ushiftRight, Nat.shiftRight_eq_div_pow, BitVec.toNat_ofNat]
  exact (Nat.mod_eq_of_lt (lt_of_le_of_lt (Nat.div_le_self _ _) x.isLt)).symm

theorem sshiftRight_ofInt {n : Nat} (x : BitVec n) (k : Nat) : x.sshiftRight k = BitVec.ofInt n (x.toInt / 2 ^ k) := by
  rw [BitVec.sshiftRight, Int.shiftRight_eq_div_pow]
  simp

/-- A branch target (R114). -/
theorem target_eq {n : Nat} (pc : Word) (x : BitVec n) : target pc x = pc + BitVec.ofInt 64 (4 * x.toInt) := by
  rw [target, sext64, mul_comm, BitVec.signExtend, show (4 : Word) = BitVec.ofInt 64 4 from rfl, ← BitVec.ofInt_mul]

end Sys2Proof.Machine
end

