-- ==== Sys2Proof/Tests/Slice0.lean ====
section
/-! SUPPORT. Tests of the model on the manual's own words: ill-formed instructions, the decoding of every word, single steps on
small states, and for every statement with hypotheses a state and operands that meet them (`witness_<statement>`). -/

set_option Elab.async false

namespace Sys2Proof.Tests

open Sys2Proof Sys2Proof.Machine

/-- A wave of context 1 on core 0, just placed. -/
def st : State := State.reset.withWave

def passB (s : State) (w : W32) : Bool :=
  decide (s.gateCause w = none) && !s.poisonedSource w && s.th.partner.isNone

theorem passes_of {s : State} {w : W32} (h : passB s w = true) : s.passes w := by
  unfold passB at h
  simp only [Bool.and_eq_true, Bool.not_eq_true', decide_eq_true_eq, Option.isNone_iff_eq_none] at h
  exact ⟨h.1.1, h.1.2, by simp [State.pairMay, h.2]⟩

theorem passes_all {s : State} {l : List Instr} (h : (l.all fun i => passB s (encode i)) = true) : ∀ i ∈ l, s.passes (encode i) :=
  fun i hi => passes_of (List.all_eq_true.mp h i hi)

/-- The next state of one step that runs the word w. -/
noncomputable def run (s : State) (w : W32) : State := match step (s.withWord w) with
  | .next t => t
  | _ => s

theorem ok_of {α ε : Type} {x : Except ε α} {v : α} (h : x.toOption = some v) : x = .ok v := by
  cases x <;> simp_all [Except.toOption]

theorem is_ok {α ε : Type} {x : Except ε α} (h : x.toOption.isSome = true) : ∃ v, x = .ok v := by
  cases x <;> simp_all [Except.toOption]

def errOf {α ε : Type} : Except ε α → Option ε
  | .error e => some e
  | .ok _ => none

theorem error_of {α ε : Type} {x : Except ε α} {e : ε} (h : errOf x = some e) : x = .error e := by
  cases x <;> simp_all [errOf]

/-- The running thread with these outstanding accesses. -/
def withOut (s : State) (l : List Access) : State := { s with th := { s.th with out := l } }

/-- The next state of an instruction or an event. -/
def after (r : Res) : State := match r with
  | .next t => t
  | _ => State.reset

/-! ### Ill-formed instructions -/

theorem test_wf_refuses_mand3 : Instr.wf (.mand3 126 1 2) = false := by decide
theorem test_wf_refuses_mand3_a : Instr.wf (.mand3 1 126 2) = false := by decide
theorem test_wf_refuses_mand3_b : Instr.wf (.mand3 1 2 126) = false := by decide
theorem test_wf_refuses_mor3 : Instr.wf (.mor3 126 1 2) = false := by decide
theorem test_wf_refuses_mandn3 : Instr.wf (.mandn3 1 126 2) = false := by decide
theorem test_wf_refuses_mxor3 : Instr.wf (.mxor3 1 2 127) = false := by decide
theorem test_wf_refuses_mnot3 : Instr.wf (.mnot3 126 1) = false := by decide
theorem test_wf_refuses_mnot3_a : Instr.wf (.mnot3 1 126) = false := by decide
theorem test_wf_refuses_mcnt3 : Instr.wf (.mcnt3 1 126) = false := by decide
theorem test_wf_refuses_mfirst3 : Instr.wf (.mfirst3 1 127) = false := by decide
theorem test_wf_refuses_bnone : Instr.wf (.bnone 126 1) = false := by decide
theorem test_wf_refuses_bany : Instr.wf (.bany 127 1) = false := by decide
theorem test_wf_refuses_ball : Instr.wf (.ball 126 1) = false := by decide
theorem test_wf_refuses_vwin : Instr.wf (.vwin 13) = false := by decide
theorem test_wf_refuses_vcmpEq : Instr.wf (.vcmpEq 126 1 2) = false := by decide
theorem test_wf_refuses_vcmpEqS : Instr.wf (.vcmpEqS 126 1 2) = false := by decide
theorem test_wf_refuses_vfcmpFeq : Instr.wf (.vfcmpFeq 126 1 2) = false := by decide
theorem test_wf_refuses_vfcmpFeqS : Instr.wf (.vfcmpFeqS 127 1 2) = false := by decide
theorem test_wf_refuses_vbeq : Instr.wf (.vbeq 126 1 2) = false := by decide
theorem test_wf_refuses_txs : Instr.wf (.txs 126) = false := by decide
theorem test_wf_refuses_amoCas : Instr.wf (.amoCas 1 2 127) = false := by decide
theorem test_wf_refuses_amoDCas : Instr.wf (.amoDCas 1 2 127) = false := by decide
theorem test_wf_refuses_vamoCas : Instr.wf (.vamoCas 127 1 2) = false := by decide

/-! ### Decoding: every word, built from the encoding tables -/

theorem test_wordsScalar :
    decodeWord 0x00608081 = .ok (.add 1 2 3) ∧
    decodeWord 0x10608081 = .ok (.sub 1 2 3) ∧
    decodeWord 0x20608081 = .ok (.and 1 2 3) ∧
    decodeWord 0x30608081 = .ok (.or 1 2 3) ∧
    decodeWord 0x40608081 = .ok (.xor 1 2 3) ∧
    decodeWord 0x50608081 = .ok (.andn 1 2 3) ∧
    decodeWord 0x60608081 = .ok (.sll 1 2 3) ∧
    decodeWord 0x70608081 = .ok (.srl 1 2 3) ∧
    decodeWord 0x80608081 = .ok (.sra 1 2 3) ∧
    decodeWord 0x90608081 = .ok (.min 1 2 3) ∧
    decodeWord 0xA0608081 = .ok (.max 1 2 3) ∧
    decodeWord 0xB0608081 = .ok (.minu 1 2 3) ∧
    decodeWord 0xC0608081 = .ok (.maxu 1 2 3) ∧
    decodeWord 0xD0608081 = .ok (.slt 1 2 3) ∧
    decodeWord 0xE0608081 = .ok (.sltu 1 2 3) ∧
    decodeWord 0xF0608081 = .ok (.seq 1 2 3) ∧
    decodeWord 0x00608082 = .ok (.addW 1 2 3) ∧
    decodeWord 0x10608082 = .ok (.subW 1 2 3) ∧
    decodeWord 0x20608082 = .ok (.andW 1 2 3) ∧
    decodeWord 0x30608082 = .ok (.orW 1 2 3) ∧
    decodeWord 0x40608082 = .ok (.xorW 1 2 3) ∧
    decodeWord 0x50608082 = .ok (.andnW 1 2 3) ∧
    decodeWord 0x60608082 = .ok (.sllW 1 2 3) ∧
    decodeWord 0x70608082 = .ok (.srlW 1 2 3) ∧
    decodeWord 0x80608082 = .ok (.sraW 1 2 3) ∧
    decodeWord 0x90608082 = .ok (.minW 1 2 3) ∧
    decodeWord 0xA0608082 = .ok (.maxW 1 2 3) ∧
    decodeWord 0xB0608082 = .ok (.minuW 1 2 3) ∧
    decodeWord 0xC0608082 = .ok (.maxuW 1 2 3) ∧
    decodeWord 0xD0608082 = .ok (.sltW 1 2 3) ∧
    decodeWord 0xE0608082 = .ok (.sltuW 1 2 3) ∧
    decodeWord 0xF0608082 = .ok (.seqW 1 2 3) ∧
    decodeWord 0x00608083 = .ok (.mul 1 2 3) ∧
    decodeWord 0x10608083 = .ok (.mulh 1 2 3) ∧
    decodeWord 0x20608083 = .ok (.mulhu 1 2 3) ∧
    decodeWord 0x30608083 = .ok (.mulhm 1 2 3) ∧
    decodeWord 0x40608083 = .ok (.div 1 2 3) ∧
    decodeWord 0x50608083 = .ok (.divu 1 2 3) ∧
    decodeWord 0x60608083 = .ok (.rem 1 2 3) ∧
    decodeWord 0x70608083 = .ok (.remu 1 2 3) ∧
    decodeWord 0x80608083 = .ok (.mulW 1 2 3) ∧
    decodeWord 0x90608083 = .ok (.divW 1 2 3) ∧
    decodeWord 0xA0608083 = .ok (.divuW 1 2 3) ∧
    decodeWord 0xB0608083 = .ok (.remW 1 2 3) ∧
    decodeWord 0xC0608083 = .ok (.remuW 1 2 3) ∧
    decodeWord 0x00008084 = .ok (.clz 1 2) ∧
    decodeWord 0x10008084 = .ok (.ctz 1 2) ∧
    decodeWord 0x20008084 = .ok (.popc 1 2) ∧
    decodeWord 0x30008084 = .ok (.bswap 1 2) ∧
    decodeWord 0x40008084 = .ok (.brev 1 2) ∧
    decodeWord 0x50008084 = .ok (.sextb 1 2) ∧
    decodeWord 0x60008084 = .ok (.sexth 1 2) ∧
    decodeWord 0x70008084 = .ok (.sextw 1 2) ∧
    decodeWord 0x80008084 = .ok (.zextb 1 2) ∧
    decodeWord 0x90008084 = .ok (.zexth 1 2) ∧
    decodeWord 0xA0008084 = .ok (.zextw 1 2) ∧
    decodeWord 0x00608085 = .ok (.csel 1 2 3) ∧
    decodeWord 0x00608086 = .ok (.mand3 1 2 3) ∧
    decodeWord 0x10608086 = .ok (.mor3 1 2 3) ∧
    decodeWord 0x20608086 = .ok (.mandn3 1 2 3) ∧
    decodeWord 0x30608086 = .ok (.mxor3 1 2 3) ∧
    decodeWord 0x40008086 = .ok (.mnot3 1 2) ∧
    decodeWord 0x50008086 = .ok (.mcnt3 1 2) ∧
    decodeWord 0x60008086 = .ok (.mfirst3 1 2) := by
  constructorm* _ ∧ _ <;> rfl

theorem test_wordsImmediate :
    decodeWord 0x00A08090 = .ok (.addi 1 2 5) ∧
    decodeWord 0x00A08091 = .ok (.andi 1 2 5) ∧
    decodeWord 0x00A08092 = .ok (.ori 1 2 5) ∧
    decodeWord 0x00A08093 = .ok (.xori 1 2 5) ∧
    decodeWord 0x00A08094 = .ok (.slti 1 2 5) ∧
    decodeWord 0x00A08095 = .ok (.sltiu 1 2 5) ∧
    decodeWord 0x00A08096 = .ok (.slli 1 2 5) ∧
    decodeWord 0x00A08097 = .ok (.srli 1 2 5) ∧
    decodeWord 0x00A08098 = .ok (.srai 1 2 5) ∧
    decodeWord 0x00A08099 = .ok (.addiW 1 2 5) ∧
    decodeWord 0x0001409A = .ok (.ldi 1 5) ∧
    decodeWord 0x0001409B = .ok (.lsh 1 5) ∧
    decodeWord 0x0001409C = .ok (.pcadd 1 5) := by
  constructorm* _ ∧ _ <;> rfl

theorem test_wordsControl :
    decodeWord 0x00A0C120 = .ok (.beq 2 3 5) ∧
    decodeWord 0x00A0C121 = .ok (.bne 2 3 5) ∧
    decodeWord 0x00A0C122 = .ok (.blt 2 3 5) ∧
    decodeWord 0x00A0C123 = .ok (.bge 2 3 5) ∧
    decodeWord 0x00A0C124 = .ok (.bltu 2 3 5) ∧
    decodeWord 0x00A0C125 = .ok (.bgeu 2 3 5) ∧
    decodeWord 0x00A000A6 = .ok (.bnone 1 5) ∧
    decodeWord 0x00A000A7 = .ok (.bany 1 5) ∧
    decodeWord 0x00A000A8 = .ok (.ball 1 5) ∧
    decodeWord 0x00000329 = .ok (.jmp 6) ∧
    decodeWord 0x0000032A = .ok (.jal 6) ∧
    decodeWord 0x000080AB = .ok (.jalr 1 2) ∧
    decodeWord 0x006080AC = .ok (.waitc 1 2 3) ∧
    decodeWord 0x00A000AD = .ok (.csrr 1 5) ∧
    decodeWord 0x00A0802E = .ok (.csrw 2 5) ∧
    decodeWord 0x00A0002F = .ok (.vwin 5) := by
  constructorm* _ ∧ _ <;> rfl

theorem test_wordsScalarMemory :
    decodeWord 0x00A080B0 = .ok (.lb 1 2 5) ∧
    decodeWord 0x00A080B1 = .ok (.lbu 1 2 5) ∧
    decodeWord 0x00A080B2 = .ok (.lh 1 2 5) ∧
    decodeWord 0x00A080B3 = .ok (.lhu 1 2 5) ∧
    decodeWord 0x00A080B4 = .ok (.lw 1 2 5) ∧
    decodeWord 0x00A080B5 = .ok (.lwu 1 2 5) ∧
    decodeWord 0x00A080B6 = .ok (.ld 1 2 5) ∧
    decodeWord 0x00A080B7 = .ok (.sb 1 2 5) ∧
    decodeWord 0x00A080B8 = .ok (.sh 1 2 5) ∧
    decodeWord 0x00A080B9 = .ok (.sw 1 2 5) ∧
    decodeWord 0x00A080BA = .ok (.sd 1 2 5) ∧
    decodeWord 0x506080BB = .ok (.lp 1 2 3 .half .llc) ∧
    decodeWord 0x506080BC = .ok (.sp 1 2 3 .half .llc) ∧
    decodeWord 0x00A080BD = .ok (.pf .toLlc 2 5) ∧
    decodeWord 0x0000033E = .ok (.hint 6) := by
  constructorm* _ ∧ _ <;> rfl

theorem test_wordsVectorInteger :
    decodeWord 0x006080C0 = .ok (.vadd 1 2 3) ∧
    decodeWord 0x106080C0 = .ok (.vsub 1 2 3) ∧
    decodeWord 0x206080C0 = .ok (.vmul 1 2 3) ∧
    decodeWord 0x306080C0 = .ok (.vmulh 1 2 3) ∧
    decodeWord 0x406080C0 = .ok (.vmulhu 1 2 3) ∧
    decodeWord 0x506080C0 = .ok (.vand 1 2 3) ∧
    decodeWord 0x606080C0 = .ok (.vor 1 2 3) ∧
    decodeWord 0x706080C0 = .ok (.vxor 1 2 3) ∧
    decodeWord 0x806080C0 = .ok (.vsll 1 2 3) ∧
    decodeWord 0x906080C0 = .ok (.vsrl 1 2 3) ∧
    decodeWord 0xA06080C0 = .ok (.vsra 1 2 3) ∧
    decodeWord 0xB06080C0 = .ok (.vmin 1 2 3) ∧
    decodeWord 0xC06080C0 = .ok (.vmax 1 2 3) ∧
    decodeWord 0xD06080C0 = .ok (.vminu 1 2 3) ∧
    decodeWord 0xE06080C0 = .ok (.vmaxu 1 2 3) ∧
    decodeWord 0xF06080C0 = .ok (.vandn 1 2 3) ∧
    decodeWord 0x006080C1 = .ok (.vaddS 1 2 3) ∧
    decodeWord 0x106080C1 = .ok (.vsubS 1 2 3) ∧
    decodeWord 0x206080C1 = .ok (.vmulS 1 2 3) ∧
    decodeWord 0x306080C1 = .ok (.vmulhS 1 2 3) ∧
    decodeWord 0x406080C1 = .ok (.vmulhuS 1 2 3) ∧
    decodeWord 0x506080C1 = .ok (.vandS 1 2 3) ∧
    decodeWord 0x606080C1 = .ok (.vorS 1 2 3) ∧
    decodeWord 0x706080C1 = .ok (.vxorS 1 2 3) ∧
    decodeWord 0x806080C1 = .ok (.vsllS 1 2 3) ∧
    decodeWord 0x906080C1 = .ok (.vsrlS 1 2 3) ∧
    decodeWord 0xA06080C1 = .ok (.vsraS 1 2 3) ∧
    decodeWord 0xB06080C1 = .ok (.vminS 1 2 3) ∧
    decodeWord 0xC06080C1 = .ok (.vmaxS 1 2 3) ∧
    decodeWord 0xD06080C1 = .ok (.vminuS 1 2 3) ∧
    decodeWord 0xE06080C1 = .ok (.vmaxuS 1 2 3) ∧
    decodeWord 0xF06080C1 = .ok (.vandnS 1 2 3) ∧
    decodeWord 0x000080C2 = .ok (.vabs 1 2) ∧
    decodeWord 0x100080C2 = .ok (.vneg 1 2) ∧
    decodeWord 0x200080C2 = .ok (.vclz 1 2) ∧
    decodeWord 0x300080C2 = .ok (.vpopc 1 2) ∧
    decodeWord 0x400080C2 = .ok (.vbrev 1 2) ∧
    decodeWord 0x500080C2 = .ok (.vbswap 1 2) ∧
    decodeWord 0x600080C2 = .ok (.vsextb 1 2) ∧
    decodeWord 0x700080C2 = .ok (.vsexth 1 2) ∧
    decodeWord 0x800080C2 = .ok (.vzextb 1 2) ∧
    decodeWord 0x900080C2 = .ok (.vzexth 1 2) ∧
    decodeWord 0xA00080C2 = .ok (.vnot 1 2) ∧
    decodeWord 0x006080C3 = .ok (.vmad 1 2 3) ∧
    decodeWord 0x106080C3 = .ok (.vmsb 1 2 3) ∧
    decodeWord 0x206080C3 = .ok (.vmadS 1 2 3) ∧
    decodeWord 0x306080C3 = .ok (.vmsbS 1 2 3) ∧
    decodeWord 0x006080C4 = .ok (.vcmpEq 1 2 3) ∧
    decodeWord 0x106080C4 = .ok (.vcmpNe 1 2 3) ∧
    decodeWord 0x206080C4 = .ok (.vcmpLt 1 2 3) ∧
    decodeWord 0x306080C4 = .ok (.vcmpLe 1 2 3) ∧
    decodeWord 0x406080C4 = .ok (.vcmpLtu 1 2 3) ∧
    decodeWord 0x506080C4 = .ok (.vcmpLeu 1 2 3) ∧
    decodeWord 0x006080C5 = .ok (.vcmpEqS 1 2 3) ∧
    decodeWord 0x106080C5 = .ok (.vcmpNeS 1 2 3) ∧
    decodeWord 0x206080C5 = .ok (.vcmpLtS 1 2 3) ∧
    decodeWord 0x306080C5 = .ok (.vcmpLeS 1 2 3) ∧
    decodeWord 0x406080C5 = .ok (.vcmpLtuS 1 2 3) ∧
    decodeWord 0x506080C5 = .ok (.vcmpLeuS 1 2 3) := by
  constructorm* _ ∧ _ <;> rfl

theorem test_wordsVectorFloat :
    decodeWord 0x006080C6 = .ok (.vfadd 1 2 3) ∧
    decodeWord 0x106080C6 = .ok (.vfsub 1 2 3) ∧
    decodeWord 0x206080C6 = .ok (.vfmul 1 2 3) ∧
    decodeWord 0x306080C6 = .ok (.vfdiv 1 2 3) ∧
    decodeWord 0x406080C6 = .ok (.vfmin 1 2 3) ∧
    decodeWord 0x506080C6 = .ok (.vfmax 1 2 3) ∧
    decodeWord 0x606080C6 = .ok (.vfcsign 1 2 3) ∧
    decodeWord 0x706080C6 = .ok (.vfnsign 1 2 3) ∧
    decodeWord 0x006080C7 = .ok (.vfaddS 1 2 3) ∧
    decodeWord 0x106080C7 = .ok (.vfsubS 1 2 3) ∧
    decodeWord 0x206080C7 = .ok (.vfmulS 1 2 3) ∧
    decodeWord 0x306080C7 = .ok (.vfdivS 1 2 3) ∧
    decodeWord 0x406080C7 = .ok (.vfminS 1 2 3) ∧
    decodeWord 0x506080C7 = .ok (.vfmaxS 1 2 3) ∧
    decodeWord 0x606080C7 = .ok (.vfcsignS 1 2 3) ∧
    decodeWord 0x706080C7 = .ok (.vfnsignS 1 2 3) ∧
    decodeWord 0x006080C8 = .ok (.vfma 1 2 3) ∧
    decodeWord 0x106080C8 = .ok (.vfms 1 2 3) ∧
    decodeWord 0x206080C8 = .ok (.vfnma 1 2 3) ∧
    decodeWord 0x306080C8 = .ok (.vfnms 1 2 3) ∧
    decodeWord 0x406080C8 = .ok (.vfmaS 1 2 3) ∧
    decodeWord 0x506080C8 = .ok (.vfmsS 1 2 3) ∧
    decodeWord 0x606080C8 = .ok (.vfnmaS 1 2 3) ∧
    decodeWord 0x706080C8 = .ok (.vfnmsS 1 2 3) ∧
    decodeWord 0x000080C9 = .ok (.vfabs 1 2) ∧
    decodeWord 0x100080C9 = .ok (.vfneg 1 2) ∧
    decodeWord 0x200080C9 = .ok (.vfsqrt 1 2) ∧
    decodeWord 0x300080C9 = .ok (.vexp2 1 2) ∧
    decodeWord 0x400080C9 = .ok (.vlog2 1 2) ∧
    decodeWord 0x500080C9 = .ok (.vrcp 1 2) ∧
    decodeWord 0x600080C9 = .ok (.vrsq 1 2) ∧
    decodeWord 0x700080C9 = .ok (.vfrint 1 2) ∧
    decodeWord 0x800080C9 = .ok (.vfclass 1 2) ∧
    decodeWord 0x006080CA = .ok (.vfcmpFeq 1 2 3) ∧
    decodeWord 0x106080CA = .ok (.vfcmpFlt 1 2 3) ∧
    decodeWord 0x206080CA = .ok (.vfcmpFle 1 2 3) ∧
    decodeWord 0x306080CA = .ok (.vfcmpFun 1 2 3) ∧
    decodeWord 0x006080CB = .ok (.vfcmpFeqS 1 2 3) ∧
    decodeWord 0x106080CB = .ok (.vfcmpFltS 1 2 3) ∧
    decodeWord 0x206080CB = .ok (.vfcmpFleS 1 2 3) ∧
    decodeWord 0x306080CB = .ok (.vfcmpFunS 1 2 3) ∧
    decodeWord 0x000080CC = .ok (.vcvtI32F32 1 2) ∧
    decodeWord 0x100080CC = .ok (.vcvtF32I32 1 2) ∧
    decodeWord 0x200080CC = .ok (.vcvtN32F32 1 2) ∧
    decodeWord 0x300080CC = .ok (.vcvtF32N32 1 2) ∧
    decodeWord 0x400080CC = .ok (.vcvtBf16F32 1 2) ∧
    decodeWord 0x500080CC = .ok (.vcvtF32Bf16 1 2) ∧
    decodeWord 0x600080CC = .ok (.vcvtF16F32 1 2) ∧
    decodeWord 0x700080CC = .ok (.vcvtF32F16 1 2) ∧
    decodeWord 0x800080CC = .ok (.vcvtE4m3F32 1 2) ∧
    decodeWord 0x900080CC = .ok (.vcvtF32E4m3 1 2) ∧
    decodeWord 0xA00080CC = .ok (.vcvtE5m2F32 1 2) ∧
    decodeWord 0xB00080CC = .ok (.vcvtF32E5m2 1 2) ∧
    decodeWord 0xC00080CC = .ok (.vcvtBf16x2F32 1 2) ∧
    decodeWord 0xD00080CC = .ok (.vcvtF16x2F32 1 2) ∧
    decodeWord 0xE00080CC = .ok (.vcvtI8I32 1 2) := by
  constructorm* _ ∧ _ <;> rfl

theorem test_wordsVectorMove :
    decodeWord 0x000080CD = .ok (.vmov 1 2) ∧
    decodeWord 0x100080CD = .ok (.vbcs 1 2) ∧
    decodeWord 0x206080CD = .ok (.vext 1 2 3) ∧
    decodeWord 0x306080CD = .ok (.vins 1 2 3) ∧
    decodeWord 0x400000CD = .ok (.vlid 1) ∧
    decodeWord 0x506080CD = .ok (.vperm 1 2 3) ∧
    decodeWord 0x606080CD = .ok (.vslup 1 2 3) ∧
    decodeWord 0x706080CD = .ok (.vsldn 1 2 3) ∧
    decodeWord 0x806080CD = .ok (.vmrg 1 2 3) ∧
    decodeWord 0x900000CD = .ok (.vfree 1) ∧
    decodeWord 0x000080CE = .ok (.vradd 1 2) ∧
    decodeWord 0x100080CE = .ok (.vrmin 1 2) ∧
    decodeWord 0x200080CE = .ok (.vrmax 1 2) ∧
    decodeWord 0x300080CE = .ok (.vrminu 1 2) ∧
    decodeWord 0x400080CE = .ok (.vrmaxu 1 2) ∧
    decodeWord 0x500080CE = .ok (.vrand 1 2) ∧
    decodeWord 0x600080CE = .ok (.vror 1 2) ∧
    decodeWord 0x700080CE = .ok (.vrxor 1 2) ∧
    decodeWord 0x800080CE = .ok (.vrfadd 1 2) ∧
    decodeWord 0x900080CE = .ok (.vrfmin 1 2) ∧
    decodeWord 0xA00080CE = .ok (.vrfmax 1 2) ∧
    decodeWord 0x000080CF = .ok (.vsadd 1 2) ∧
    decodeWord 0x100080CF = .ok (.vsaddx 1 2) ∧
    decodeWord 0x200080CF = .ok (.vsfadd 1 2) ∧
    decodeWord 0x300080CF = .ok (.vsmax 1 2) ∧
    decodeWord 0x400080CF = .ok (.vsmin 1 2) ∧
    decodeWord 0x006080D0 = .ok (.vhcrc 1 2 3) ∧
    decodeWord 0x106080D0 = .ok (.vhmix 1 2 3) ∧
    decodeWord 0x206080D0 = .ok (.vpart 1 2 3) ∧
    decodeWord 0x306080D0 = .ok (.vbeq 1 2 3) ∧
    decodeWord 0x400080D0 = .ok (.vbfz 1 2) ∧
    decodeWord 0x506080D0 = .ok (.vbdif 1 2 3) ∧
    decodeWord 0x000080D1 = .ok (.vhist 1 2) := by
  constructorm* _ ∧ _ <;> rfl

theorem test_wordsVectorMemory :
    decodeWord 0x506080D4 = .ok (.vld 1 2 3 .half .llc) ∧
    decodeWord 0x506080D5 = .ok (.vst 1 2 3 .half .llc) ∧
    decodeWord 0x506080D6 = .ok (.vgth 1 2 3 .half .llc) ∧
    decodeWord 0x506080D7 = .ok (.vsct 1 2 3 .half .llc) ∧
    decodeWord 0x106080D8 = .ok (.vll 1 2 3 .half) ∧
    decodeWord 0x106080D9 = .ok (.vsl 1 2 3 .half) ∧
    decodeWord 0x100080DA = .ok (.vllg 1 2 .half) ∧
    decodeWord 0x100080DB = .ok (.vslg 1 2 .half) ∧
    decodeWord 0x006080DC = .ok (.amoAdd 1 2 3) ∧
    decodeWord 0x106080DC = .ok (.amoAnd 1 2 3) ∧
    decodeWord 0x206080DC = .ok (.amoOr 1 2 3) ∧
    decodeWord 0x306080DC = .ok (.amoXor 1 2 3) ∧
    decodeWord 0x406080DC = .ok (.amoMin 1 2 3) ∧
    decodeWord 0x506080DC = .ok (.amoMax 1 2 3) ∧
    decodeWord 0x606080DC = .ok (.amoMinu 1 2 3) ∧
    decodeWord 0x706080DC = .ok (.amoMaxu 1 2 3) ∧
    decodeWord 0x806080DC = .ok (.amoXchg 1 2 3) ∧
    decodeWord 0x906080DC = .ok (.amoFadd 1 2 3) ∧
    decodeWord 0xA06080DC = .ok (.amoCas 1 2 3) ∧
    decodeWord 0x006080DD = .ok (.amoDAdd 1 2 3) ∧
    decodeWord 0x106080DD = .ok (.amoDAnd 1 2 3) ∧
    decodeWord 0x206080DD = .ok (.amoDOr 1 2 3) ∧
    decodeWord 0x306080DD = .ok (.amoDXor 1 2 3) ∧
    decodeWord 0x406080DD = .ok (.amoDMin 1 2 3) ∧
    decodeWord 0x506080DD = .ok (.amoDMax 1 2 3) ∧
    decodeWord 0x606080DD = .ok (.amoDMinu 1 2 3) ∧
    decodeWord 0x706080DD = .ok (.amoDMaxu 1 2 3) ∧
    decodeWord 0x806080DD = .ok (.amoDXchg 1 2 3) ∧
    decodeWord 0x906080DD = .ok (.amoDFadd 1 2 3) ∧
    decodeWord 0xA06080DD = .ok (.amoDCas 1 2 3) ∧
    decodeWord 0x006080DE = .ok (.vamoAdd 1 2 3) ∧
    decodeWord 0x106080DE = .ok (.vamoAnd 1 2 3) ∧
    decodeWord 0x206080DE = .ok (.vamoOr 1 2 3) ∧
    decodeWord 0x306080DE = .ok (.vamoXor 1 2 3) ∧
    decodeWord 0x406080DE = .ok (.vamoMin 1 2 3) ∧
    decodeWord 0x506080DE = .ok (.vamoMax 1 2 3) ∧
    decodeWord 0x606080DE = .ok (.vamoMinu 1 2 3) ∧
    decodeWord 0x706080DE = .ok (.vamoMaxu 1 2 3) ∧
    decodeWord 0x806080DE = .ok (.vamoXchg 1 2 3) ∧
    decodeWord 0x906080DE = .ok (.vamoFadd 1 2 3) ∧
    decodeWord 0xA06080DE = .ok (.vamoCas 1 2 3) := by
  constructorm* _ ∧ _ <;> rfl

theorem test_wordsSync :
    decodeWord 0x20008060 = .ok (.acq 2 .pkg) ∧
    decodeWord 0x20000061 = .ok (.rel .pkg) ∧
    decodeWord 0x20000062 = .ok (.fence .pkg) ∧
    decodeWord 0x60000062 = .ok (.fenceSs .pkg) ∧
    decodeWord 0xA0000062 = .ok (.fenceLl .pkg) ∧
    decodeWord 0xE0000062 = .ok (.fenceIo .pkg) ∧
    decodeWord 0x00000063 = .ok (.ifence) ∧
    decodeWord 0x00000064 = .ok (.txb) ∧
    decodeWord 0x10000064 = .ok (.txe) ∧
    decodeWord 0x20000064 = .ok (.txa) ∧
    decodeWord 0x300000E4 = .ok (.txs 1) ∧
    decodeWord 0x006080E5 = .ok (.wsleepEq 1 2 3) ∧
    decodeWord 0x106080E5 = .ok (.wsleepNe 1 2 3) ∧
    decodeWord 0x206080E5 = .ok (.wsleepGe 1 2 3) ∧
    decodeWord 0x306080E5 = .ok (.wsleepGeu 1 2 3) ∧
    decodeWord 0x00000066 = .ok (.bar) ∧
    decodeWord 0x00608067 = .ok (.nbinit 2 3) ∧
    decodeWord 0x10608067 = .ok (.nbexp 2 3) ∧
    decodeWord 0x20008067 = .ok (.nbarr 2) ∧
    decodeWord 0x300080E7 = .ok (.nbwait 1 2) ∧
    decodeWord 0x400080E7 = .ok (.nbtest 1 2) ∧
    decodeWord 0x00008068 = .ok (.tbarr 2) ∧
    decodeWord 0x100080E8 = .ok (.tbwait 1 2) ∧
    decodeWord 0x200080E8 = .ok (.tbar 1 2) ∧
    decodeWord 0x000080E9 = .ok (.launch 1 2) ∧
    decodeWord 0x100080E9 = .ok (.launchWait 1 2) ∧
    decodeWord 0x0000006A = .ok (.exit) ∧
    decodeWord 0x1000806A = .ok (.exitSucc 2) ∧
    decodeWord 0x0000006B = .ok (.yield) ∧
    decodeWord 0x0060806C = .ok (.qpush 2 3) ∧
    decodeWord 0x1060806C = .ok (.qpop 2 3) ∧
    decodeWord 0x200080EC = .ok (.qstat 1 2) ∧
    decodeWord 0x006080ED = .ok (.qset 1 2 3) ∧
    decodeWord 0x0060806E = .ok (.fork 2 3) ∧
    decodeWord 0x1000006F = .ok (.rendezL) ∧
    decodeWord 0x2000006F = .ok (.rendezB) ∧
    decodeWord 0x3000006F = .ok (.rendezLb) := by
  constructorm* _ ∧ _ <;> rfl

theorem test_wordsLattice :
    decodeWord 0xA06080F0 = .ok (.mma 1 2 3 2 true) ∧
    decodeWord 0xA06080F1 = .ok (.mmag 1 2 3 2 true) ∧
    decodeWord 0x006080F2 = .ok (.twset 1 2 3) ∧
    decodeWord 0x006080F3 = .ok (.accalloc 1 2 3) ∧
    decodeWord 0x10008073 = .ok (.accfree 2) ∧
    decodeWord 0x20008073 = .ok (.acczero 2) ∧
    decodeWord 0x30608073 = .ok (.accclaim 2 3) ∧
    decodeWord 0x006080F4 = .ok (.accrd 1 2 3) ∧
    decodeWord 0x106080F4 = .ok (.accrdClr 1 2 3) ∧
    decodeWord 0x006080F5 = .ok (.accwr 1 2 3) ∧
    decodeWord 0x006080F6 = .ok (.qnt 1 2 3) ∧
    decodeWord 0x00608077 = .ok (.plpack 2 3) ∧
    decodeWord 0x106000F7 = .ok (.plunp 1 3) := by
  constructorm* _ ∧ _ <;> rfl

theorem test_wordsBarrow :
    decodeWord 0x00608078 = .ok (.ctld 2 3) ∧
    decodeWord 0x906080F9 = .ok (.copy 1 2 3 true 2) ∧
    decodeWord 0x906080FA = .ok (.copym 1 2 3 true 2) ∧
    decodeWord 0x0060807B = .ok (.sbradd 2 3) ∧
    decodeWord 0x1060807B = .ok (.sbrmin 2 3) ∧
    decodeWord 0x2060807B = .ok (.sbrmax 2 3) ∧
    decodeWord 0x3060807B = .ok (.sbrfadd 2 3) ∧
    decodeWord 0x4060807B = .ok (.sbuadd 2 3) ∧
    decodeWord 0x5060807B = .ok (.sbumin 2 3) ∧
    decodeWord 0x6060807B = .ok (.sbumax 2 3) ∧
    decodeWord 0x7060807B = .ok (.sbufadd 2 3) ∧
    decodeWord 0x0060807C = .ok (.rredAdd 2 3) ∧
    decodeWord 0x006080FC = .ok (.rredMin 2 3) ∧
    decodeWord 0x0060817C = .ok (.rredMax 2 3) ∧
    decodeWord 0x006081FC = .ok (.rredMinu 2 3) ∧
    decodeWord 0x0060827C = .ok (.rredMaxu 2 3) ∧
    decodeWord 0x006082FC = .ok (.rredFadd 2 3) ∧
    decodeWord 0x0060837C = .ok (.rredAddD 2 3) ∧
    decodeWord 0x006083FC = .ok (.rredOr 2 3) ∧
    decodeWord 0x1060807C = .ok (.coll 2 3) ∧
    decodeWord 0x2000807C = .ok (.cquiet 2) ∧
    decodeWord 0x300080FC = .ok (.glaunch 1 2) ∧
    decodeWord 0x400080FC = .ok (.gstat 1 2) ∧
    decodeWord 0x5060807C = .ok (.rwin 2 3) ∧
    decodeWord 0x0000807D = .ok (.trap 2) ∧
    decodeWord 0x1000007D = .ok (.sret) ∧
    decodeWord 0x2000807D = .ok (.pgres 2) ∧
    decodeWord 0x306080FD = .ok (.mapu 1 2 3) ∧
    decodeWord 0x4060807D = .ok (.tlbinv 2 3) ∧
    decodeWord 0x506080FD = .ok (.lanerd 1 2 3) ∧
    decodeWord 0x606080FD = .ok (.lanewr 1 2 3) := by
  constructorm* _ ∧ _ <;> rfl



/-! ### Words the manual prints beside their assembly source -/

theorem test_manual_words1 :
    decodeWord 0x0182C501 = .ok (.add 10 11 12) ∧
    decodeWord 0xFF00C190 = .ok (.addi 3 3 0x7F8) ∧
    decodeWord 0xFFA002A1 = .ok (.bne 5 0 0x7FD) ∧
    decodeWord 0x0FFFC02C = .ok (.waitc 0 127 127) ∧
    decodeWord 0x0060002F = .ok (.vwin 3) ∧
    decodeWord 0x0121C247 = .ok (.vfaddS 4 7 9) ∧
    decodeWord 0xF0000062 = .ok (.fenceIo .sys) ∧
    decodeWord 0x30000001 = .ok (.or 0 0 0) ∧
    decodeWord 0x0000C536 = .ok (.ld 10 3 0) ∧
    decodeWord 0x0200C63A = .ok (.sd 12 3 16) ∧
    decodeWord 0x0100C5B6 = .ok (.ld 11 3 8) ∧
    decodeWord 0x30000061 = .ok (.rel .sys) ∧
    decodeWord 0x0000006A = .ok (.exit) ∧
    decodeWord 0x01E00A26 = .ok (.bnone 20 15) ∧
    decodeWord 0xFFFFFC29 = .ok (.jmp 0x1FFFFF8) ∧
    decodeWord 0x029F7E86 = .ok (.mand3 125 125 20) ∧
    decodeWord 0x256A1406 = .ok (.mandn3 40 40 43) ∧
    decodeWord 0x60050706 = .ok (.mfirst3 14 20) ∧
    decodeWord 0x0080C534 = .ok (.lw 10 3 4) ∧
    decodeWord 0x080500BD = .ok (.pf .toLlc 20 64) ∧
    decodeWord 0x60050254 = .ok (.vld 4 20 0 .word .llc) ∧
    decodeWord 0x206081D6 = .ok (.vgth 3 2 3 .word .l1) ∧
    decodeWord 0x0165005C = .ok (.amoAdd 0 20 11) ∧
    decodeWord 0xA280835E = .ok (.vamoCas 6 2 20) ∧
    decodeWord 0x8165405D = .ok (.amoDXchg 0 21 11) ∧
    decodeWord 0x10050060 = .ok (.acq 20 .die) ∧
    decodeWord 0x22A50565 = .ok (.wsleepGe 10 20 21) ∧
    decodeWord 0x00000066 = .ok (.bar) ∧
    decodeWord 0x02A50067 = .ok (.nbinit 20 21) ∧
    decodeWord 0x12A50067 = .ok (.nbexp 20 21) ∧
    decodeWord 0x20050067 = .ok (.nbarr 20) ∧
    decodeWord 0x30050567 = .ok (.nbwait 10 20) := by
  constructorm* _ ∧ _ <;> rfl

theorem test_manual_words2 :
    decodeWord 0x40050567 = .ok (.nbtest 10 20) ∧
    decodeWord 0x00050068 = .ok (.tbarr 20) ∧
    decodeWord 0x10050568 = .ok (.tbwait 10 20) ∧
    decodeWord 0x20050568 = .ok (.tbar 10 20) ∧
    decodeWord 0x00050569 = .ok (.launch 10 20) ∧
    decodeWord 0x10050569 = .ok (.launchWait 10 20) ∧
    decodeWord 0x1005006A = .ok (.exitSucc 20) ∧
    decodeWord 0x0000006B = .ok (.yield) ∧
    decodeWord 0x02A5006C = .ok (.qpush 20 21) ∧
    decodeWord 0x12A5006C = .ok (.qpop 20 21) ∧
    decodeWord 0x2005056C = .ok (.qstat 10 20) ∧
    decodeWord 0x02A5056D = .ok (.qset 10 20 21) ∧
    decodeWord 0x02A5006E = .ok (.fork 20 21) ∧
    decodeWord 0x1000006F = .ok (.rendezL) ∧
    decodeWord 0x2000006F = .ok (.rendezB) ∧
    decodeWord 0x3000006F = .ok (.rendezLb) ∧
    decodeWord 0x0005007D = .ok (.trap 20) ∧
    decodeWord 0x1000007D = .ok (.sret) ∧
    decodeWord 0x2005007D = .ok (.pgres 20) ∧
    decodeWord 0x32A5057D = .ok (.mapu 10 20 21) ∧
    decodeWord 0x42A5007D = .ok (.tlbinv 20 21) ∧
    decodeWord 0x52A5057D = .ok (.lanerd 10 20 21) ∧
    decodeWord 0x62A5057D = .ok (.lanewr 10 20 21) ∧
    decodeWord 0x0000451A = .ok (.ldi 10 1) ∧
    decodeWord 0x0000402B = .ok (.jalr 0 1) ∧
    decodeWord 0x02A50579 = .ok (.copy 10 20 21 false 0) ∧
    decodeWord 0x12A50579 = .ok (.copy 10 20 21 true 0) ∧
    decodeWord 0xD2A5057A = .ok (.copym 10 20 21 true 3) ∧
    decodeWord 0x02A50078 = .ok (.ctld 20 21) ∧
    decodeWord 0x02A50570 = .ok (.mma 10 20 21 0 false) ∧
    decodeWord 0x92A50570 = .ok (.mma 10 20 21 1 true) ∧
    decodeWord 0x82A50571 = .ok (.mmag 10 20 21 0 true) := by
  constructorm* _ ∧ _ <;> rfl

theorem test_manual_words3 :
    decodeWord 0x02A50572 = .ok (.twset 10 20 21) ∧
    decodeWord 0x02A50573 = .ok (.accalloc 10 20 21) ∧
    decodeWord 0x10050073 = .ok (.accfree 20) ∧
    decodeWord 0x20050073 = .ok (.acczero 20) ∧
    decodeWord 0x32A50073 = .ok (.accclaim 20 21) ∧
    decodeWord 0x02A50574 = .ok (.accrd 10 20 21) ∧
    decodeWord 0x12A50574 = .ok (.accrdClr 10 20 21) ∧
    decodeWord 0x02A50576 = .ok (.qnt 10 20 21) ∧
    decodeWord 0x02A50077 = .ok (.plpack 20 21) ∧
    decodeWord 0x12A00577 = .ok (.plunp 10 21) ∧
    decodeWord 0x8002802E = .ok (.csrw 10 0x400) ∧
    decodeWord 0x0340052D = .ok (.csrr 10 0x1A) ∧
    decodeWord 0x0224807C = .ok (.rredAdd 18 17) ∧
    decodeWord 0x2000007C = .ok (.cquiet 0) ∧
    decodeWord 0x00000063 = .ok (.ifence) ∧
    decodeWord 0x0000003E = .ok (.hint 0) ∧
    decodeWord 0x0000CF45 = .ok (.vcmpEqS 30 3 0) ∧
    decodeWord 0x2002544B = .ok (.vfcmpFleS 40 9 0) ∧
    decodeWord 0x010103C8 = .ok (.vfma 7 4 8) ∧
    decodeWord 0x00000150 = .ok (.vhcrc 2 0 0) ∧
    decodeWord 0x00004151 = .ok (.vhist 2 1) ∧
    decodeWord 0x218081D0 = .ok (.vpart 3 2 12) ∧
    decodeWord 0x0001074E = .ok (.vradd 14 4) ∧
    decodeWord 0x30024449 = .ok (.vexp2 8 9) ∧
    decodeWord 0x2000845A = .ok (.vllg 8 2 .word) ∧
    decodeWord 0x1203C559 = .ok (.vsl 10 15 16 .half) := by
  constructorm* _ ∧ _ <;> rfl

/-! ### Witnesses: scalar words -/

/-- s1 = -8, s2 = 3, s3 = 0, s4 = 0x10000, s5 = 0x10002. -/
def sc : State := ((((st.sset 1 (-8)).sset 2 3).sset 3 0).sset 4 0x10000).sset 5 0x10002

theorem witness_RegisterZeroAndTriples : (125 : Reg).toNat ≤ 125 ∧ (125 : Reg) + BitVec.ofNat 7 (95 / 32) ≠ 0 := by decide

theorem witness_ScalarIntegerResults : ∀ i ∈ [Instr.add 6 1 2, .sub 6 1 2, .and 6 1 2, .or 6 1 2, .xor 6 1 2, .andn 6 1 2, .sll 6 1 2,
    .srl 6 1 2, .sra 6 1 2, .min 6 1 2, .max 6 1 2, .minu 6 1 2, .maxu 6 1 2, .slt 6 1 2, .sltu 6 1 2, .seq 0 1 2], sc.passes (encode i) :=
  passes_all (by decide +kernel)

theorem witness_ScalarWordResults : ∀ i ∈ [Instr.addW 6 1 2, .subW 6 1 2, .andW 6 1 2, .orW 6 1 2, .xorW 6 1 2, .andnW 6 1 2, .sllW 6 1 2,
    .srlW 6 1 2, .sraW 6 1 2, .minW 6 1 2, .maxW 6 1 2, .minuW 6 1 2, .maxuW 6 1 2, .sltW 6 1 2, .sltuW 6 1 2, .seqW 0 1 2],
    sc.passes (encode i) := passes_all (by decide +kernel)

theorem witness_MultiplyDivideResults : ∀ i ∈ [Instr.mul 6 1 2, .mulh 6 1 2, .mulhu 6 1 2, .mulhm 6 1 2, .div 6 1 3, .divu 6 1 3,
    .rem 6 1 2, .remu 6 1 3, .mulW 6 1 2, .divW 6 1 3, .divuW 6 1 2, .remW 6 1 3, .remuW 6 1 2], sc.passes (encode i) :=
  passes_all (by decide +kernel)

theorem witness_BitAndSelectResults : ∀ i ∈ [Instr.clz 6 3, .ctz 6 3, .popc 6 1, .bswap 6 1, .brev 6 1, .sextb 6 1, .sexth 6 1,
    .sextw 6 1, .zextb 6 1, .zexth 6 1, .zextw 6 1, .csel 6 1 2], sc.passes (encode i) := passes_all (by decide +kernel)

theorem witness_TripleResults : ∀ i ∈ [Instr.mand3 125 1 2, .mor3 8 125 2, .mandn3 8 1 125, .mxor3 0 1 2, .mnot3 125 0, .mcnt3 127 125,
    .mfirst3 127 125], sc.passes (encode i) := passes_all (by decide +kernel)

theorem witness_ImmediateResults : ∀ i ∈ [Instr.addi 6 1 0x400, .andi 6 1 0x7FF, .ori 6 1 1, .xori 6 1 1, .slti 6 1 0x400,
    .sltiu 6 1 0x400, .slli 6 1 63, .srli 6 1 63, .srai 6 1 63, .addiW 6 1 0x400, .ldi 6 0x20000, .lsh 6 0x3FFFF, .pcadd 6 0x20000],
    sc.passes (encode i) := passes_all (by decide +kernel)

theorem witness_BranchOutcomes : (∀ i ∈ [Instr.beq 1 2 0x7FF, .bne 1 2 1, .blt 1 2 1, .bge 1 2 1, .bltu 1 2 1, .bgeu 1 2 1, .bnone 125 1, .bnone 64 1,
    .bany 125 1, .ball 125 0x400], sc.passes (encode i)) ∧ sc.sget 1 ≠ sc.sget 2 ∧ sc.sget 3 = sc.sget 0 ∧
    (sc.sget 1).toInt < (sc.sget 2).toInt ∧ (sc.sget 2).toNat ≤ (sc.sget 1).toNat ∧ sc.tbit 1 3 = true ∧ ∀ j < 96, sc.tbit 64 j = false :=
  ⟨passes_all (by decide +kernel), by decide +kernel⟩

theorem witness_JumpOutcomes : (∀ i ∈ [Instr.jmp 0x1000000, .jal 1, .jalr 6 4, .jalr 6 5], sc.passes (encode i)) ∧
    (sc.sget 4).toNat % 4 = 0 ∧ (sc.sget 5).toNat % 4 ≠ 0 := ⟨passes_all (by decide +kernel), by decide +kernel⟩

theorem witness_SequencingFrame : ∀ i ∈ [Instr.hint 0xFFFFFF, .yield, .vwin 12], sc.passes (encode i) := passes_all (by decide +kernel)

/-! ### Witnesses: vector words -/

/-- Registers 1 to 3 live; lanes 0 and 95 active, s2 = 95, s3 = 0x12345678. -/
def vc : State :=
  let s := ((st.vset 1 fun j => BitVec.ofNat 32 (j * 0x01010101)).vset 2 fun j => BitVec.ofNat 32 (95 - j)).vset 3 fun _ => 0x7FC00001
  (((s.sset 125 1).sset 126 0).sset 127 0x80000000).sset 2 95 |>.sset 3 0x12345678

theorem witness_VectorResultFrame : vc.active 95 = true ∧ vc.active 94 = false ∧ vc.th.vreg.has (vc.varch 4) = false ∧ (4 : Reg) ≠ 5 := by
  decide +kernel

theorem witness_VectorIntegerResults : ∀ i ∈ [Instr.vadd 1 2 3, .vaddS 1 2 3, .vsub 1 2 3, .vsubS 1 2 3, .vmul 1 2 3, .vmulS 1 2 3, .vmulh 1 2 3,
    .vmulhS 1 2 3, .vmulhu 1 2 3, .vmulhuS 1 2 3, .vand 1 2 3, .vandS 1 2 3, .vor 1 2 3, .vorS 1 2 3,
    .vxor 1 2 3, .vxorS 1 2 3, .vsll 1 2 3, .vsllS 1 2 3, .vsrl 1 2 3, .vsrlS 1 2 3, .vsra 1 2 3, .vsraS 1 2 3,
    .vmin 1 2 3, .vminS 1 2 3, .vmax 1 2 3, .vmaxS 1 2 3, .vminu 1 2 3, .vminuS 1 2 3, .vmaxu 1 2 3,
    .vmaxuS 1 2 3, .vandn 1 2 3, .vandnS 1 2 3], vc.passes (encode i) := passes_all (by decide +kernel)

theorem witness_VectorUnaryAndMultiplyAccumulate : ∀ i ∈ [Instr.vabs 1 2, .vneg 1 2, .vclz 1 2, .vpopc 1 2, .vbrev 1 2, .vbswap 1 2, .vsextb 1 2, .vsexth 1 2,
    .vzextb 1 2, .vzexth 1 2, .vnot 1 2, .vmad 1 2 3, .vmsb 1 2 3, .vmadS 1 2 3, .vmsbS 1 2 3], vc.passes (encode i) :=
  passes_all (by decide +kernel)

theorem witness_VectorCompareResults : ∀ i ∈ [Instr.vcmpEq 1 2 3, .vcmpEqS 1 2 3, .vcmpNe 1 2 3, .vcmpNeS 1 2 3, .vcmpLt 1 2 3, .vcmpLtS 1 2 3,
    .vcmpLe 1 2 3, .vcmpLeS 1 2 3, .vcmpLtu 1 2 3, .vcmpLtuS 1 2 3, .vcmpLeu 1 2 3, .vcmpLeuS 1 2 3], vc.passes (encode i) := passes_all (by decide +kernel)

theorem witness_VectorMoveResults : (∀ i ∈ [Instr.vmov 1 2, .vbcs 1 2, .vlid 1, .vperm 1 2 3, .vslup 1 2 3, .vsldn 1 2 3, .vmrg 1 2 3, .vext 1 2 3,
    .vins 1 2 3, .vfree 1], vc.passes (encode i)) ∧ (vc.sget 2).toNat = 95 ∧
    96 ≤ (vc.sget 3).toNat ∧ (vc.elem 2 95).toNat < 96 := ⟨passes_all (by decide +kernel), by decide +kernel⟩

theorem witness_ReductionAndScanResults : (∀ i ∈ [Instr.vradd 1 2, .vrmin 1 2, .vrmax 1 2, .vrminu 1 2, .vrmaxu 1 2, .vrand 1 2, .vror 1 2, .vrxor 1 2,
    .vsadd 1 2, .vsaddx 1 2, .vsmax 1 2, .vsmin 1 2, .vsfadd 1 2], vc.passes (encode i)) ∧ vc.activeLanes = [0, 95] ∧
    (∀ i < 0, vc.active i = false) ∧ vc.active 0 = true ∧ ∀ k, 0 < k → k < 95 → vc.active k = false := by
  refine ⟨passes_all (by decide +kernel), by decide +kernel, by decide, by decide +kernel, fun k h1 h2 => ?_⟩
  have h : ∀ k < 95, 0 < k → vc.active k = false := by decide +kernel
  exact h k h2 h1

theorem witness_HashAndStringResults : (∀ i ∈ [Instr.vhcrc 1 2 3, .vhmix 1 2 3, .vpart 1 2 3, .vbfz 1 2, .vbdif 1 2 3, .vbeq 1 2 3, .vhist 1 2], vc.passes (encode i)) ∧ vc.active 95 = true :=
  ⟨passes_all (by decide +kernel), by decide +kernel⟩

/-! ### Witnesses: floating point -/

theorem witness_FloatFormatValues : fp32 ∈ [fp64, fp32, fp16, bf16, e5m2, e4m3] ∧ e4m3 ∈ [fp64, fp32, fp16, bf16, e5m2, e4m3] ∧
    (∀ x ∈ [0x007FFFFF, 0x00800000, 0x7F7FFFFF, 0x7F800000, 0x7F800001, 0xFFFFFFFF], x < 2 ^ (fp32.eb + fp32.fb + 1)) ∧
    (∀ x ∈ [0x07, 0x08, 0x7E, 0x7F, 0xFF], x < 2 ^ (e4m3.eb + e4m3.fb + 1)) ∧
    0x007FFFFF / 2 ^ 23 % 2 ^ 8 = 0 ∧ 0x7F800001 / 2 ^ 23 % 2 ^ 8 = 2 ^ 8 - 1 ∧ 0x7F800001 % 2 ^ 23 ≠ 0 ∧ 0x7F / 2 ^ 3 % 2 ^ 4 = 15 :=
  ⟨by simp, by simp, by decide, by decide, by decide⟩

theorem witness_RoundingIsCorrect : fp16 ∈ [fp64, fp32, fp16, bf16, e5m2] ∧ 2 ^ (fp16.fb + 2) ≤ 4096 ∧
    ((2049 : ℚ) = (2049 : Nat) * (2 : ℚ) ^ (0 : Int)) ∧
    ((4096 : Nat) * (2 : ℚ) ^ (0 : Int) < 4096.5 ∧ (4096.5 : ℚ) < ((4096 : Nat) + 1) * (2 : ℚ) ^ (0 : Int)) := by
  refine ⟨by simp, by decide, by norm_num, by norm_num, by norm_num⟩

theorem witness_FlagsAreSticky : 16 &&& vc.th.flogen.toNat = 0 ∧ 0 ≠ vc.th.ctx := by decide +kernel

theorem witness_FloatArithmeticResults : ∀ i ∈ [Instr.vfadd 1 2 3, .vfaddS 1 2 3, .vfsub 1 2 3, .vfsubS 1 2 3, .vfmul 1 2 3, .vfmulS 1 2 3, .vfdiv 1 2 3,
    .vfdivS 1 2 3, .vfma 1 2 3, .vfmaS 1 2 3, .vfms 1 2 3, .vfmsS 1 2 3, .vfnma 1 2 3, .vfnmaS 1 2 3,
    .vfnms 1 2 3, .vfnmsS 1 2 3], vc.passes (encode i) := passes_all (by decide +kernel)

theorem witness_FloatSelectionResults : ∀ i ∈ [Instr.vfmin 1 2 3, .vfminS 1 2 3, .vfmax 1 2 3, .vfmaxS 1 2 3, .vfcsign 1 2 3, .vfcsignS 1 2 3,
    .vfnsign 1 2 3, .vfnsignS 1 2 3, .vfabs 1 2, .vfneg 1 2, .vfcmpFeq 1 2 3, .vfcmpFeqS 1 2 3, .vfcmpFlt 1 2 3,
    .vfcmpFltS 1 2 3, .vfcmpFle 1 2 3, .vfcmpFleS 1 2 3, .vfcmpFun 1 2 3, .vfcmpFunS 1 2 3, .vfclass 1 2], vc.passes (encode i) := passes_all (by decide +kernel)

theorem witness_FloatFunctionResults : ∀ i ∈ [Instr.vfsqrt 1 2, .vrcp 1 2, .vrsq 1 2, .vexp2 1 2, .vlog2 1 2, .vfrint 1 2], vc.passes (encode i) := passes_all (by decide +kernel)

theorem witness_ConversionResults : ∀ i ∈ [Instr.vcvtI32F32 1 2, .vcvtN32F32 1 2, .vcvtF32I32 1 2, .vcvtF32N32 1 2, .vcvtBf16F32 1 2, .vcvtF32Bf16 1 2,
    .vcvtF16F32 1 2, .vcvtF32F16 1 2, .vcvtE4m3F32 1 2, .vcvtF32E4m3 1 2, .vcvtE5m2F32 1 2, .vcvtF32E5m2 1 2,
    .vcvtBf16x2F32 1 2, .vcvtF16x2F32 1 2, .vcvtI8I32 1 2], vc.passes (encode i) := passes_all (by decide +kernel)

theorem witness_FloatReductionResults : (∀ i ∈ [Instr.vrfmin 1 2, .vrfmax 1 2, .vrfadd 1 2], vc.passes (encode i)) ∧ vc.activeLanes.map (vc.elem 2) = [95, 0] :=
  ⟨passes_all (by decide +kernel), by decide +kernel⟩

/-! ### Witnesses: accesses -/

/-- s1 to s7 hold a local, a misaligned local, a Seedbank, an unmapped global, a private and a bad pointer, and an end of local store. -/
def mc : State := ((((((vc.sset 1 0x1000000000000000).sset 2 0x1000000000000001).sset 3 0x2000000000000000).sset 4 0x10000).sset 5
  0x3000000000000FF8).sset 6 0x4000000000000000).sset 7 0x100000000000FFF8

def idle (seq k : Nat) (ctr : Ctr) (kind : AccKind) (ps : List Part) (dest : List Nat) : Access :=
  ⟨seq, ctr, k, 0, kind, .llc, ps, dest, false, false, false, 0⟩

def full (c : Ctr) : State := withOut mc (List.replicate 63 (idle 0 0 c (.store 4) [] []))

theorem witness_PointerChecks : 2 ^ 62 / 2 ^ 60 = 4 ∧ st.th.frailor = false ∧ State.reset.th.frailor = true ∧
    (st.block st.th.blk).usable = 65536 ∧ (st.ctx st.th.ctx).privBytes = 4096 ∧ st.dies.states.getD 3 0 = 0 ∧
    errOf (st.reach st.th .load none (2 ^ 62) 8).2 = some (.trap 5 14) ∧
    errOf (st.reach st.th .load none (2 ^ 56) 8).2 = some (.trap 5 14) ∧
    errOf (st.reach st.th .load none (2 ^ 60 + 2 ^ 20) 8).2 = some (.trap 5 14) ∧
    errOf (st.reach st.th .load none (2 ^ 61 + 2 ^ 28) 8).2 = some (.trap 5 14) ∧
    errOf (State.reset.reach State.reset.th .load none (2 ^ 60) 8).2 = some (.trap 5 17) ∧
    errOf (st.reach st.th .load none (2 ^ 60 + 1) 2).2 = some (.trap 3 0) ∧
    (st.reach st.th .load none (2 ^ 60 + 65528) 8).2.toOption = some (.loc 65528) ∧
    errOf (st.reach st.th .load none (2 ^ 60 + 65536) 8).2 = some (.trap 0x0B 0) ∧
    (st.reach st.th .load none (2 ^ 61 + 2 ^ 28 - 8) 8).2.toOption = some (.seed (2 ^ 28 - 8)) ∧
    (st.reach st.th .load none (3 * 2 ^ 60 + 4088) 8).2.toOption.isSome = true ∧
    errOf (st.reach st.th .load none (3 * 2 ^ 60 + 4096) 8).2 = some (.trap 5 15) ∧
    errOf (st.reach st.th .load none 0x10000 8).2 = some (.trap 4 0) := by decide +kernel

theorem witness_ScalarAccessesIssue : (∀ i ∈ [Instr.trap 2, .ld 1 2 5, .lb 1 2 5, .lbu 1 2 5, .lh 1 2 5, .lhu 1 2 5, .lw 1 2 5, .lwu 1 2 5,
    .lp 1 2 3 .half .llc, .sb 1 2 5, .sh 1 2 5, .sw 1 2 5, .sd 1 2 5, .sp 1 2 3 .half .llc, .amoAdd 1 2 3,
    .amoAnd 1 2 3, .amoOr 1 2 3, .amoXor 1 2 3, .amoMin 1 2 3, .amoMax 1 2 3, .amoMinu 1 2 3, .amoMaxu 1 2 3,
    .amoXchg 1 2 3, .amoFadd 1 2 3, .amoCas 1 2 3, .amoDAdd 1 2 3, .amoDAnd 1 2 3, .amoDOr 1 2 3, .amoDXor 1 2 3,
    .amoDMin 1 2 3, .amoDMax 1 2 3, .amoDMinu 1 2 3, .amoDMaxu 1 2 3, .amoDXchg 1 2 3, .amoDFadd 1 2 3,
    .amoDCas 1 2 3], mc.passes (encode i)) ∧ mc.emulates 127 = false ∧ mc.th.count .ld < 63 ∧
    mc.th.count .st < 63 ∧ 63 ≤ (full .ld).th.count .ld ∧ 63 ≤ (full .st).th.count .st ∧
    (mc.reach mc.th .load none (mc.sget 1).toNat 8).2.toOption = some (.loc 0) ∧
    (mc.reach mc.th .atomic none (mc.sget 3).toNat 8).2.toOption = some (.seed 0) ∧
    errOf (mc.reach mc.th .store none (mc.sget 2).toNat 2).2 = some (.trap 3 0) ∧ isTranslation 3 (faultInfo .store 127 0) = false ∧
    errOf (mc.reach mc.th .load none (mc.sget 6).toNat 1).2 = some (.trap 5 14) ∧ isTranslation 5 (faultInfo .load 127 14) = false := by
  refine ⟨passes_all (by decide +kernel), by decide +kernel⟩

theorem witness_VectorAccessesIssue : (∀ i ∈ [Instr.vld 1 2 3 .half .llc, .vst 1 2 3 .half .llc, .vgth 1 2 3 .half .llc, .vsct 1 2 3 .half .llc,
    .vll 1 2 3 .half, .vsl 1 2 3 .half, .vllg 1 2 .half, .vslg 1 2 .half, .vamoAdd 1 2 3, .vamoAnd 1 2 3,
    .vamoOr 1 2 3, .vamoXor 1 2 3, .vamoMin 1 2 3, .vamoMax 1 2 3, .vamoMinu 1 2 3, .vamoMaxu 1 2 3,
    .vamoXchg 1 2 3, .vamoFadd 1 2 3, .vamoCas 1 2 3], mc.passes (encode i)) ∧ mc.th.emulated = none ∧ mc.activeLanes = [0, 95] ∧
    (mc.reachAll [] mc.th .load Extra.none 4 (mc.activeLanes.map fun j => (j, 2 ^ 60 + 4 * j))).2.toOption.isSome = true ∧
    (errOf (mc.reachAll [] mc.th .load Extra.none 4 (mc.activeLanes.map fun j => (j, 2 ^ 60 + j))).2).map (fun f => (f.flaw, f.lane)) =
      some (.trap 3 0, 95) ∧ mc.blk.usable = 65536 ∧ 63 ≤ (full .ld).th.count .ld ∧
    mc.sendRoom [⟨0, 0, .remote 9 0 0, 4, 0, 0, 0, .idle⟩] = true ∧ mc.canSend 9 (mc.toSend 9 + 1) = true ∧ mc.blk.usable < 65536 + 4 := by
  refine ⟨passes_all (by decide +kernel), by decide +kernel⟩

theorem witness_PrefetchResults : (∀ i ∈ [Instr.pf .toLlc 1 0, .pf .toL1 4 0, .pf .toL1 5 0], mc.passes (encode i)) ∧
    (mc.sget 1).toNat / 2 ^ 60 ∉ [0, 3] ∧ (mc.sget 5).toNat / 2 ^ 60 = 3 ∧ (mc.reach mc.th .load none (mc.sget 5).toNat 1).2.toOption.isSome = true ∧
    (∃ k < 16, wayCode 0 k ∉ mc.quarantined) :=
  ⟨passes_all (by decide +kernel), by decide +kernel, by decide +kernel, by decide +kernel, 0, by decide +kernel⟩

theorem units {s : State} (h : (s.threads.sorted && s.blocks.sorted && s.tasks.sorted && s.ctxs.sorted &&
    (s.threads.all fun p => decide (p.2.uid = p.1)) && (s.blocks.all fun p => decide (p.2.uid = p.1)) &&
    s.tasks.all fun p => decide (p.2.uid = p.1)) = true) : s.unitsOk := by
  simp only [Bool.and_eq_true, List.all_eq_true, decide_eq_true_eq] at h
  exact ⟨h.1.1.1.1.1.1, h.1.1.1.1.1.2, h.1.1.1.1.2, h.1.1.1.2, h.1.1.2, h.1.2, h.2⟩

/-- Nothing is mapped at 0x10000 + 4, in each lane too; the second wave handles its own faults. -/
def unmapped : State := mc.vset 1 fun j => BitVec.ofNat 32 (4 * j)
def selfh : State := unmapped.modTask unmapped.blk.task fun k => { k with record := { k.record with selfh := true } }

theorem witness_TranslationFaults : (∀ s ∈ [unmapped, selfh], ∀ i ∈ [Instr.lw 9 4 4, .sd 9 4 8, .lp 9 4 0 .word .l1, .amoAdd 9 4 3, .amoDAdd 9 4 3,
    .vld 1 4 0 .word .l1, .vgth 2 1 4 .word .llc, .vamoAdd 2 1 4], s.passes (encode i)) ∧ unmapped.emulates 127 = false ∧ unmapped.th.emulated = none ∧
    (unmapped.th.frailor || unmapped.th.trapMode || unmapped.selfHandling unmapped.th) = false ∧ selfh.selfHandling selfh.th = true ∧
    errOf (unmapped.reach unmapped.th .load none 0x10004 4).2 = some (.trap 4 0) ∧
    (errOf (unmapped.reachAll [] unmapped.th .load Extra.none 4 (unmapped.activeLanes.map fun j => (j, 0x10000 + 4 * j))).2).map
      (fun f => (f.flaw, f.lane)) = some (.trap 4 0, 0) := by
  refine ⟨?_, by decide +kernel⟩
  intro s hs
  simp only [List.mem_cons, List.not_mem_nil, or_false] at hs
  rcases hs with rfl | rfl
  · exact passes_all (by decide +kernel)
  · exact passes_all (by decide +kernel)

/-! ### Witnesses: performed accesses -/

def part (pl : Place) (n x y : Nat) : Part := ⟨127, 0x10000, pl, n, 0, x, y, .idle⟩

/-- The line of physical address 0x100000 is in the LLC; the word there is 7. -/
noncomputable def lc : State :=
  let s := after (exec (.llcFill 0x100000) (withOut st [idle 5 0 .ld (.loadS 1 4 true) [part (.mem 0x100000 0) 4 0 0] [1]]))
  withOut { s with home := s.home.set 0x40000 (.valid 7) } []

/-- Core 0's L1 holds the word, Valid. -/
noncomputable def l1c : State := lc.l1Put 0 lc.th.uid 0x40000 ⟨false, 9, 0, 0, 0, false⟩

/-- The word is registered to the wave's L1. -/
noncomputable def rc : State := (lc.regReq (lc.who lc.th) lc.th.uid 0x40000 0).1

/-- Core 0 holds a translation of the page of the wave's pc, to this physical address. -/
noncomputable def seen (pa : Nat) : State := lc.modCore 0 fun c => { c with tlb := c.tlb.set (tlbKey 1 0x10000 16) ⟨pa, 16, 0, false, true, true⟩ }

/-- The word is registered to another core of the wave's die, wide enough for the package. -/
noncomputable def wide : State :=
  { lc with home := lc.home.set 0x40000 (.registered (mkOwner 0 0 0 1 0)) }.modCore 1 fun c => { c with l1 := c.l1.set 0x40000 ⟨true, 8, 0, 4, 0, false⟩ }

/-- The word is registered to the L1 of another die's core 0, with RSCOPE 0. -/
noncomputable def oc : State := { lc with home := lc.home.set 0x40000 (.registered (mkOwner 0 0 1 0 0)) }

def loadOf (s : State) (pl : Place) (n : Nat) (p : Policy) : State :=
  withOut s [⟨5, .ld, 0, 0, .loadS 1 n true, p, [part pl n 0 0], [1], false, s.th.trapMode, false, 0⟩]

/-- Host port 0 is a host's and up. -/
def hc : State := { st with host := { st.host with hostRole := [true, false], hasHost := [true, false], linkUp := [true, false] } }

/-- The word is poisoned. -/
noncomputable def bad : State := { lc with memPoison := [(0x40000, true)] }

/-- A word of another package stands in the L1. -/
noncomputable def farHeld : State := st.l1Put 0 st.th.uid ((Place.remote 9 0 0).pa / 4) ⟨false, 9, 0, 0, 0, false⟩

/-- An access to the word of the package passes every check before its data. -/
noncomputable def reaches (s : State) : Bool :=
  decide (s.dies.states.getD (homeDie 0x100000) 0 < 3) && s.unlocked s.pkg s.th.uid 0x100000 4 &&
    (s.lines.get? (lineOf 0x40000)).any (fun l => l.ue = none) && decide (s.raceCheck (s.ownerOf s.th) 0x40000 = none) &&
    decide ((l1SetLines (s.core s.th.core).l1 (l1Sets s.th.core) (0x40000 / 16)).length < 8)

theorem witness_LoadsDeliver : st.unitsOk ∧ (st.th.partner = none ∧ st.th.life ≠ .stopped ∧ st.err.plant = none) ∧
    st.blk.lsBad 8 8 = false ∧ st.seedBad 8 = false ∧ hc.hostUp 0 = true ∧
    (reaches lc = true ∧ lc.l1 0 0x40000 = none ∧ lc.wordBad 0x40000 = false ∧ lc.homeVal 0x40000 = 7) ∧
    (l1c.l1 l1c.th.core 0x40000).map (fun e => (e.registered, e.bad)) = some (false, false) ∧
    (rc.l1 rc.th.core 0x40000).map (fun e => (e.registered, e.bad)) = some (true, false) ∧
    rc.home.get? 0x40000 = some (.registered (rc.ownerOf rc.th)) ∧ (reaches bad = true ∧ bad.wordBad 0x40000 = true) ∧
    st.canSend 9 1 = true ∧ st.l1 0 ((Place.remote 9 0 0).pa / 4) = none ∧ (farHeld.l1 0 ((Place.remote 9 0 0).pa / 4)).isSome = true ∧
    ([(0, 16), (95, 0)].map (·.1)).Nodup ∧ (∀ p ∈ [(0, 16), (95, 0)], p.1 < 96 ∧ st.blk.lsBad p.2 4 = false) :=
  ⟨units (by decide +kernel), by decide +kernel⟩

theorem witness_StoresArePerformed : lc.unitsOk ∧ rc.unitsOk ∧ (lc.th.partner = none ∧ lc.th.life ≠ .stopped ∧ lc.err.plant = none ∧ 0xFF < 2 ^ (8 * 1)) ∧
    st.blk.lsBad 3 1 = false ∧ st.seedBad 4 = false ∧ hc.hostUp 0 = true ∧ st.canSend 9 1 = true ∧ 0x100000 < 2 ^ 53 ∧
    (reaches lc = true ∧ lc.l1 0 0x40000 = none ∧ lc.wordBad 0x40000 = false ∧ lc.holdsReg (lc.who lc.th) 0x40000 = false ∧ oCore (lc.ownerOf lc.th) = 0) ∧
    (reaches rc = true ∧ rc.holdsReg (rc.who rc.th) 0x40000 = true) ∧ (reaches bad = true ∧ bad.wordBad 0x40000 = true) :=
  ⟨units (by decide +kernel), units (by decide +kernel), by decide +kernel⟩

theorem witness_AtomicResults : lc.unitsOk ∧ (4 = 4 ∨ 4 = 8) ∧ 2 ^ 32 - 1 < 2 ^ (8 * 4) ∧ (some 1 : Option Reg) ≠ some 0 ∧ lc.th.partner = none ∧
    lc.th.life ≠ .stopped ∧ lc.err.plant = none ∧ st.blk.lsBad 0 8 = false ∧ st.seedBad 0 = false ∧ hc.hostUp 0 = true ∧ st.canSend 9 1 = true ∧
    0x100000 < 2 ^ 53 ∧ reaches lc = true ∧ lc.wordBad 0x40000 = false := ⟨units (by decide +kernel), by decide +kernel⟩

theorem witness_RegistrationAndRaces : lc.lines.has (lineOf 0x40000) = true ∧ lc.raceCheck (lc.ownerOf lc.th) 0x40000 = none ∧
    rc.home.get? 0x40000 = some (.registered (lc.ownerOf lc.th)) ∧
    (oc.raceCheck (oc.ownerOf oc.th) 0x40000).isSome = true ∧ oc.ownerBad (mkOwner 0 0 1 0 0) 0x40000 = false ∧
    wide.home.get? 0x40000 = some (.registered (mkOwner 0 0 0 1 0)) ∧ wide.raceCheck (wide.ownerOf wide.th) 0x40000 = none ∧
    wide.ownerOf wide.th ≠ mkOwner 0 0 0 1 0 ∧ wide.ownerBad (mkOwner 0 0 0 1 0) 0x40000 = false := by decide +kernel

theorem witness_TrafficEvents : lc.th.partner = none ∧ lc.dies.states.getD (homeDie 0x100000) 0 < 3 ∧
    (lc.lines.get? (lineOf 0x40000)).any (fun l => l.ue = none) = true ∧ lc.raceCheck (lc.ownerOf lc.th) 0x40000 = none ∧
    lc.holdsReg (lc.who lc.th) 0x40000 = false ∧ (oc.raceCheck (oc.ownerOf oc.th) 0x40000).isSome = true ∧
    oc.home.get? 0x40000 = some (.registered (mkOwner 0 0 1 0 0)) ∧ oc.ownerBad (mkOwner 0 0 1 0 0) 0x40000 = false ∧
    wide.raceCheck (wide.ownerOf wide.th) 0x40000 = none ∧ wide.ownerBad (mkOwner 0 0 0 1 0) 0x40000 = false ∧
    lc.freeWay (lineOf 0x80000) ≠ none ∧ (st.core st.th.core).unfilled.has (bufKey st.th.ctx st.th.pc.toNat) = false ∧
    ((seen 0).heldXlat 0 1 0x10000).isSome = true ∧ tlbFind (lc.core 0).tlb 1 0x10000 = none ∧ lc.heldXlat 0 1 0x10000 = none ∧
    (let s := (seen (2 * 2 ^ 45)).modCore 0 fun c => { c with unfilled := [(bufKey 1 0x10000, true)] }
     (s.core s.th.core).unfilled.has (bufKey s.th.ctx s.th.pc.toNat) = true) ∧
    ((tlbFind ((seen 0x100000).core 0).tlb 1 0x10000).map fun x => (x.ns, placeOf (x.addr 0x10000) x.region)) = some (false, .mem 0x100000 0) ∧
    st.wantsWord st.th = true ∧ (st.withWord 1).wantsWord (st.withWord 1).th = false ∧ st.th.pc = 0x10000 ∧
    ((seen (2 * 2 ^ 45)).translate 0 1 0x10000 .fetch).2.toOption = some ⟨2 * 2 ^ 45, 16, 0, false, true, true⟩ ∧
    placeOf (2 * 2 ^ 45) 0 = .host 0 0 ∧ (0 : Nat) % 64 = 0x10000 % 64 := by decide +kernel

/-! ### Witnesses: ordering, transactions, sleeping, barriers -/

/-- Two waves of the block: the running one and a second, which is running or gone. -/
def pair (l : Life) : State :=
  let u := st.th.uid
  let s := { st with threads := st.threads.set (u + 1) { st.th with uid := u + 1, wib := 1, wslot := 1, life := l } }
  s.modBlock st.th.blk fun b => { b with waves := [u, u + 1] }

def two : State := pair .running

/-- One store is outstanding. -/
def storing : State := withOut mc [idle 0 0 .st (.store 4) [part (.loc 0) 4 0 0] []]

/-- One load is outstanding. -/
def busy : State := withOut mc [idle 0 0 .ld (.loadS 9 4 true) [part (.loc 0) 4 0 0] [9]]

def pend (c : Ctr) (cause : Nat) : State :=
  { mc with th := { mc.th with nLd := 1, nSt := 1, pending := [⟨0, c, 0, cause, 0x40, 0x80, 0, none, false, false⟩] } }

/-- A transactional load of lane 0 is outstanding in an open transaction. -/
noncomputable def txOpen : State := after (exec .txb mc)

noncomputable def txBusy : State := withOut txOpen [⟨0, .ld, 0, 0, .loadV 4 4, .llc, [part (.mem 0x100000 0) 4 0 0], [4], true, false, false, 0⟩]

theorem witness_OrderingResults : (∀ i ∈ [Instr.fence .pkg, .acq 2 .pkg, .rel .pkg, .fenceSs .pkg, .fenceLl .pkg, .fenceIo .pkg, .ifence, .waitc 1 2 3], mc.passes (encode i)) ∧ (∀ i ∈ [Instr.acq 1 .pkg, .rel .blk], busy.passes (encode i)) ∧
    (busy.th.out.all fun x => x.ctr = .mx) = false ∧ mc.th.out = [] ∧ mc.th.pending = [] ∧
    (pend .st 7).passes (encode (.rel .pkg)) ∧ ((pend .st 7).th.pending.map (·.cause)) = [7] ∧
    (pend .ld 6).passes (encode (.waitc 0 127 127)) ∧ (pend .ld 6).th.issued .ld = 1 ∧ ¬busy.th.count .ld ≤ 0 ∧
    (∀ i ∈ [Instr.fence .blk, .fenceSs .die, .fenceLl .pkg, .fenceIo .sys], storing.passes (encode i)) ∧ storing.th.out.length = 1 ∧
    (storing.th.out.all fun a => !a.finished && a.kind.isStore) = true := by
  refine ⟨passes_all (by decide +kernel), passes_all (by decide +kernel), by decide +kernel, by decide +kernel, by decide +kernel,
    passes_of (by decide +kernel), by decide +kernel, ?_⟩
  exact ⟨passes_of (by decide +kernel), by decide +kernel, by decide +kernel, passes_all (by decide +kernel), by decide +kernel⟩

/-- Lane 0 has read and written the word at 0x100000, and that value is still there. -/
noncomputable def txOne (v : Nat) : State := { lc with th := { lc.th with tx :=
  ⟨true, 0, 0, 127, 0, false, [(0, ⟨[(0x40000, v)], [(0x100000, 5)], [(0x40000, 0x100000)], [], 0⟩)], []⟩ } }

/-- It has read a word of package 9. -/
noncomputable def txFar : State := { lc with th := { lc.th with tx :=
  ⟨true, 0, 0, 127, 0, false, [(0, ⟨[(2 ^ 49 + 9 * 2 ^ 36, 0)], [], [], [], 0⟩)], []⟩ } }

/-- A store to the word has not been performed. -/
noncomputable def txHeldBack : State := withOut (txOne 7) [idle 0 0 .st (.store 4) [part (.mem 0x100000 0) 4 0 0] []]

theorem witness_TransactionResults : (∀ i ∈ [Instr.txb, .txe, .txa, .txs 125], mc.passes (encode i)) ∧
    (∀ i ∈ [Instr.txb, .txe, .txa, .txs 0], txOpen.passes (encode i)) ∧ txOpen.th.tx.isOpen = true ∧ mc.th.tx.isOpen = false ∧
    (∀ i ∈ [Instr.txb, .txe], txBusy.passes (encode i)) ∧
    ((txOne 6).passes (encode .txe) ∧ (txOne 7).passes (encode .txe) ∧ txFar.passes (encode .txe) ∧ txHeldBack.passes (encode .txe)) ∧ (txBusy.th.out.any fun a => a.tx && !a.finished) = true ∧
    (txOpen.th.tx.lanes.map (·.1)) = [0, 95] ∧ txDisallowed 0x5C 0 = true ∧ txDisallowed 0x64 0 = true ∧ txDisallowed 0x64 1 = false ∧
    txDisallowed 0x7C 5 = true ∧ txDisallowed 0x7D 1 = false ∧
    (txHeldBack.th.txHeld = true ∧ txOpen.th.tx.remotes = [] ∧ txFar.th.txHeld = false ∧ (txFar.entered (encode .txe)).txAsk.txReady = false) ∧
    ((txOne 7).err.plant = none ∧ (txOne 7).err.rows = [] ∧ (txOne 7).lines.vals.all (fun l => decide (l.ue = none)) = true) ∧
    (txOne 7).th.tx.survivors.map (fun p => (p.1, p.2.written, p.2.touched)) = [(0, [0x40000], [0x40000, 0x40000])] ∧
    (txOne 7).wordBad 0x40000 = false ∧ (txOne 7).lines.has (lineOf 0x40000) = true ∧ (txOne 7).homeVal 0x40000 = 7 ∧
    (l1SetLines ((txOne 7).core (txOne 7).th.core).l1 (l1Sets (txOne 7).th.core) (0x40000 / 16)).length < 8 := by
  refine ⟨passes_all (by decide +kernel), passes_all (by decide +kernel), by decide +kernel, by decide +kernel, passes_all (by decide +kernel),
    ⟨passes_of (by decide +kernel), passes_of (by decide +kernel), passes_of (by decide +kernel), passes_of (by decide +kernel)⟩, by decide +kernel⟩

def slept (timeout : BitVec 40) (since : Nat) : State :=
  { mc with th := { mc.th with wtimeout := timeout, wait := some ⟨.sleep 0 (2 ^ 60) 1, since, 0, none, none, none, [], none⟩ }, now := 10 }

/-- s1 points at a page of the package, of a host, or of package 9, and its translation is held. -/
noncomputable def far (pa : Nat) : State := ((seen pa).sset 1 0x10000)

theorem witness_SleepResults : (mc.err.plant = none ∧ mc.blk.lsBad 0 8 = false ∧ mc.blk.ls.readN 0 8 = 0 ∧ mc.seedBad 0 = false ∧
    mc.th.wait = none ∧ mc.emulates 127 = false) ∧ mc.reach mc.th .load none (mc.sget 1).toNat 8 = (mc, .ok (.loc 0)) ∧
    (∀ i ∈ [Instr.wsleepEq 9 1 0, .wsleepNe 9 1 0, .wsleepGe 9 1 0, .wsleepGeu 9 1 0], mc.passes (encode i)) ∧ mc.sget 0 = 0 ∧
    (slept 0 0).th.wtimeout = 0 ∧ (10 : Nat) - 1 < (10 : BitVec 40).toNat ∧ (10 : BitVec 40).toNat ≤ 10 - 0 ∧
    (slept 10 0).reach (slept 10 0).th .load none (2 ^ 60) 8 = (slept 10 0, .ok (.loc 0)) ∧
    mc.th.readsNow (mc.sget 1).toNat 8 (.loc 0) = true ∧ (slept 10 0).th.readsNow (2 ^ 60) 8 (.loc 0) = true ∧
    (([0x100000, 2 * 2 ^ 45, 2 ^ 51 + 9 * 2 ^ 38].all fun pa => let s := far pa
      decide (s.th.wait = none ∧ s.emulates 127 = false ∧ (s.reach s.th .load none (s.sget 1).toNat 8).1 = s ∧ passB s (encode (.wsleepEq 9 1 0)))) = true) ∧
    ((far 0x100000).reach (far 0x100000).th .load none 0x10000 8).2.toOption = some (.mem 0x100000 0) ∧
    ((far (2 ^ 51 + 9 * 2 ^ 38)).reach (far 0x100000).th .load none 0x10000 8).2.toOption = some (.remote 9 0 0) ∧
    (far (2 ^ 51 + 9 * 2 ^ 38)).canSend 9 1 = true ∧ (far 0x100000).wordBad 0x40000 = false ∧ (far 0x100000).wordBad 0x40001 = false :=
  ⟨by decide +kernel, Prod.ext (by decide +kernel) (ok_of (by decide +kernel)), passes_all (by decide +kernel), by decide +kernel, by decide +kernel,
    by decide, by decide, Prod.ext (by decide +kernel) (ok_of (by decide +kernel)), by decide +kernel⟩

def withBar (s : State) (n : Nat) (b : Barrier) : State := s.modBlock s.th.blk fun k => { k with bars := k.bars.set n b }

/-- s8 = 63, s9 = 64, s10 = 2^24 - 1: the last barrier the block owns, and the first it does not. -/
def bc : State := withBar (((mc.sset 8 63).sset 9 64).sset 10 0xFFFFFF) 63 ⟨false, 1, 0, false, 0, [], none⟩

theorem witness_BarrierResults : bc.unitsOk ∧ (∀ i ∈ [Instr.bar, .nbinit 2 3, .nbexp 2 3, .nbarr 2, .nbwait 1 2, .nbtest 1 2], bc.passes (encode i)) ∧ (pair .exited).passes (encode .bar) ∧ two.passes (encode .bar) ∧
    63 < bc.blk.lsBytes / 1024 ∧ ¬64 < bc.blk.lsBytes / 1024 ∧ bc.th.out = [] ∧ bc.th.pending = [] ∧ bc.th.wait = none ∧
    2 ^ 24 ≤ (bc.blk.bar 63).expected + (bc.sget 10).toNat % 2 ^ 24 ∧ (bc.blk.bar 63).expected + (bc.sget 0).toNat % 2 ^ 24 < 2 ^ 24 ∧
    (bc.blk.bar 63).status = 0 ∧ (bc.blk.bar 63).phase = false ∧
    (bc.blk.waves.countP fun u => !(bc.thread u).gone && !(bc.blk.bar 63).amask.contains (bc.thread u).wib) = 1 ∧
    (∀ u ∈ bc.blk.waves, (bc.thread u).gone = false ∧ (bc.thread u).wib = bc.th.wib) ∧
    ((withBar bc 63 ⟨true, 9, 0, false, 1, [], none⟩).blk.bar 63).status ≠ 0 ∧
    (let x := (withBar bc 63 ⟨false, 2, 0, true, 0, [], none⟩).blk.bar 63
     x.sector = false ∧ x.arrived + 1 < x.expected ∧ x.phase ≠ (bc.sget 8).getLsbD 16 ∧ (bc.sget 8).getLsbD 16 = false) ∧
    (∃ u ∈ (pair .exited).blk.waves, ((pair .exited).thread u).gone = true) ∧
    (∃ u ∈ two.blk.waves, (two.thread u).wib ≠ two.th.wib ∧ (two.thread u).wib ∉ two.blk.atBar) ∧ (∀ u ∈ two.blk.waves, (two.thread u).gone = false) := by
  exact ⟨by unfold State.unitsOk; decide +kernel, passes_all (by decide +kernel), passes_of (by decide +kernel), passes_of (by decide +kernel), by decide +kernel⟩

/-- Trellis identifier 5 of context 1, two arrivals. -/
noncomputable def tc : State := after (exec (.trellisIdentifierBinding 5 1 [] 2) (mc.sset 8 5))

theorem witness_TrellisResults : tc.unitsOk ∧ (∀ i ∈ [Instr.tbarr 8, .tbwait 9 8, .tbar 9 8], tc.passes (encode i)) ∧ tc.th.wait = none ∧
    tc.trellis.get? 5 = some ⟨1, [], 2, 0, false, 0, []⟩ ∧ tc.th.ctx = 1 ∧ mc.trellis.get? 5 = none ∧ (tc.sget 8).getLsbD 8 = false ∧
    (∀ p ∈ tc.trellis, p.2.tasks = []) ∧ (tc.trellis.get? 5).bind (tc.trellisFails 5) = none ∧
    (({ tc with trellis := tc.trellis.set 5 ⟨1, [tc.blk.task], 2, 0, false, 0, []⟩, tasks := tc.tasks.map fun p => (p.1, { p.2 with record := { p.2.record with cls := 2 } }) } : State).trellisFails
      5 ⟨1, [tc.blk.task], 2, 0, false, 0, []⟩).isSome = true := by
  refine ⟨by unfold State.unitsOk; decide +kernel, passes_all (by decide +kernel), by decide +kernel⟩

/-! ### Witnesses: launching, leaving, queues and lists -/

def withLs (s : State) (o : Nat) (b : List Byte) : State := s.modBlock s.th.blk fun k => { k with ls := k.ls.writeBytes o b }

/-- A launch record of one block of one wave for context 1: entry 0x10000, throughput class, estimate 5 (R36). -/
def launchRecord (cls : Nat) (estimate : Nat := 5) (flags : Nat := 0) : List Byte :=
  leBytes 8 0x10000 ++ leBytes 8 0 ++ leBytes 4 1 ++ leBytes 1 1 ++ leBytes 1 cls ++ leBytes 2 flags ++ leBytes 4 4096 ++ leBytes 4 0 ++
    leBytes 8 0 ++ leBytes 4 estimate ++ leBytes 4 0 ++ leBytes 8 0 ++ leBytes 2 1 ++ leBytes 6 0

/-- The record lies at the start of the local store, zeros after it; s1 points at the record and s8 at the zeros. -/
def lrc (cls : Nat) (estimate : Nat := 5) : State := (withLs mc 0 (launchRecord cls estimate)).sset 8 0x1000000000000040

/-- What launch and exit.succ find of that record. -/
noncomputable def parsedOf (cls estimate : Nat) : Option Record :=
  match (lrc cls estimate).recordWords (2 ^ 60) 8 with
  | (s1, .bytes b) => s1.dropRecords.parseRecord b [] (2 ^ 60) 1 false false
  | _ => none

/-- The places of a C record of one block. -/
noncomputable def placesOf (s : State) (r : Record) : Option State :=
  let k := s.newTask r s.th.die (some s.blk.task) none 0 false
  ({ s with nextUid := s.nextUid + 1, tasks := s.tasks.set k.uid k } : State).reserveC k r.blocks 0

/-- launch.wait waits for task 7, which has not ended, or for the one whose completion word is known. -/
def launched (k : Nat) : State :=
  let s := { mc with th := { mc.th with wait := some ⟨.task k, 0, 0, none, none, none, [0], none⟩ } }
  s.modTask s.blk.task fun t => { t with word := some 9 }

theorem witness_LaunchAndExit : mc.unitsOk ∧ (∀ i ∈ [Instr.launch 9 1, .launchWait 9 1, .exit, .exitSucc 1], (lrc 1).passes (encode i)) ∧
    (lrc 1).th.wait = none ∧ (lrc 1).sget 1 = 0x1000000000000000 ∧ ((mc.sget 2).toNat % 64 ≠ 0) ∧
    (∃ s1, (lrc 1).recordWords (2 ^ 60) 8 = (s1, .bytes (launchRecord 1)) ∧
      (s1.dropRecords.parseRecord (launchRecord 1) [] (2 ^ 60) 1 false false).isSome = true) ∧
    (∃ s1 b, (lrc 1).recordWords (2 ^ 60 + 64) 8 = (s1, .bytes b) ∧ s1.dropRecords.parseRecord b [] (2 ^ 60 + 64) 1 false false = none ∧
      s1.dropRecords.succRecord (2 ^ 60 + 64) b [] = none ∧ fld b 48 8 % 8 = 0 ∧ s1.dropRecords.engineBusy mc.th.blk = false) ∧
    (∃ s1, (lrc 1).recordWords (2 ^ 60) 8 = (s1, .bytes (launchRecord 1)) ∧ (s1.dropRecords.succRecord (2 ^ 60) (launchRecord 1) []).isSome = true ∧
      mc.th.uid < s1.dropRecords.nextUid) ∧
    ((parsedOf 1 24000001).map (fun r => (r.cls, decide (24000000 < r.energy))) = some (1, true)) ∧
    ((parsedOf 0 5).map (fun r => (r.cls, (placesOf ((lrc 0).modCtx 1 fun c => { c with spillFree := 2 ^ 30 }) r).isSome, decide (maxPlaces < 6145))) = some (0, true, true)) ∧
    ((launched 7).tasks.get? 7).bind (·.word) = none ∧ ((launched mc.blk.task).tasks.get? mc.blk.task).bind (·.word) = some 9 ∧
    two.th.out = [] ∧ two.th.pending = [] ∧ two.th.latList = none ∧ two.th.barList = none ∧ mc.engineBusy mc.th.blk = false ∧
    (∃ v ∈ two.blk.waves, v ≠ two.th.uid ∧ (two.thread v).gone = false) ∧
    fld (launchRecord 2) 21 1 ≠ 0 ∧ fld (launchRecord 0) 21 1 = 0 ∧ mc.th.out = [] ∧ mc.th.pending = [] ∧ mc.th.latList = none ∧
    mc.th.barList = none ∧ (mc.core mc.th.core).latq = [] ∧ (mc.core mc.th.core).barrow = [] ∧ (∀ v ∈ mc.blk.waves, v = mc.th.uid) ∧
    (busy.th.out.any fun x => x.kind ≠ .record) = true ∧ ((mc.tasks.get? mc.blk.task).map fun k => (k.ended + 1, k.record.blocks, k.gangKey)) = some (1, 1, none) := by
  refine ⟨by unfold State.unitsOk; decide +kernel, passes_all (by decide +kernel), by decide +kernel, by decide +kernel, by decide +kernel,
    ⟨_, rfl, by decide +kernel⟩, ⟨_, _, rfl, by decide +kernel⟩, ⟨_, rfl, by decide +kernel⟩, by decide +kernel⟩

/-- Queue 3 of the block: eight slots of 32 bytes with one entry, between waves of role 0. -/
def withQueue (n : Nat) : State := mc.modBlock mc.th.blk fun k =>
  { k with queues := k.queues.set 3 ⟨0, 8, 0xF000, [(true, List.replicate n (List.replicate 32 7))], 0, 0, 0, []⟩ }

def qc (n : Nat) : State := ((withQueue n).sset 8 3).sset 9 32

theorem witness_QueuesAndLists : (qc 1).unitsOk ∧ (∀ i ∈ [Instr.qpush 8 9, .qpop 8 9, .qstat 10 8, .qset 10 0 9, .fork 0 9, .rendezL, .rendezB, .rendezLb],
      (qc 1).passes (encode i)) ∧ (qc 1).blk.queues.get? 4 = none ∧ ((qc 1).blk.queues.get? 3).isSome = true ∧
    ((qc 1).blk.queues.get? 3).map (fun q => (q.full, q.pop.isSome, q.bad)) = some (false, true, []) ∧
    ((qc 8).blk.queues.get? 3).map (fun q => q.full) = some true ∧ ((qc 0).blk.queues.get? 3).map (fun q => (q.pop, q.count)) = some (none, 0) ∧
    (qc 1).th.wait = none ∧ (qc 1).th.out = [] ∧ (qc 1).err.plant = none ∧ (qc 1).blk.lsBad 32 32 = false ∧ 32 + 32 ≤ (qc 1).blk.usable ∧
    (∃ v ∈ (qc 8).blk.waves, ((qc 8).thread v).role = 0 ∧ ((qc 8).thread v).gone = false) ∧ (qc 1).th.role = 0 ∧
    (qc 1).th.latList = none ∧ (qc 1).th.barList = none ∧ ((qc 1).core (qc 1).th.core).latq = [] ∧ ((qc 1).core (qc 1).th.core).barrow = [] := by
  refine ⟨by unfold State.unitsOk; decide +kernel, passes_all (by decide +kernel), by decide +kernel⟩

/-! ### Witnesses: control registers, traps, system words -/

/-- In trap mode. -/
def tm : State := { st with th := { st.th with trapMode := true, tvec := 0x20000, trapcause := 5, trapinfo := 12, trappc := 0x10000, tepc := 0x10000 } }

/-- Frailor core 0, with a poisoned register in pc, and a wave with a handler. -/
def fr : State := State.reset
def poisoned : State := { st with th := { st.th with sPoison := [(3, true)] } }
def maskBad : State := { st with th := { st.th with sPoison := [(126, true)] } }
def elemBad : State := { st with th := { st.th with vPoison := [(96 * 1 + 5, true)] } }
def handled : State := { st with th := { st.th with tvec := 0x20000 } }

theorem witness_CsrResults : (∀ n ∈ [0x000, 0x003, 0x009, 0x010, 0x030, 0x031], mc.passes (encode (.csrr 9 n)) ∧ mc.passes (encode (.csrw 1 n))) ∧
    (∀ n ∈ [0x400, 0x410, 0x4E0, 0x4E4, 0x4F8], fr.passes (encode (.csrr 9 n)) ∧ fr.passes (encode (.csrw 1 n))) ∧ fr.th.privileged = true ∧
    mc.th.privileged = false ∧ mc.th.partner = none ∧ fr.th.partner = none ∧ ((0x3FF : BitVec 11).toNat < 0x400 ∧ 0x400 ≤ (0x400 : BitVec 11).toNat) ∧ (mc.th.frailor = true ∨ mc.th.core < 512) ∧
    fr.dies.states.length = 4 ∧ fr.dies.short < 2 ^ 24 ∧ fr.err.status ≠ 1 ∧ fr.lines.get? 0 = none ∧
    (((mc.tasks.get? (mc.block mc.th.blk).task).bind (·.slot)).isSome = true) ∧ (1 : Word).getLsbD 0 = true ∧ (4 : Word).getLsbD 2 = true := by
  refine ⟨?_, ?_, by decide +kernel, by decide +kernel⟩
  · intro n h; simp only [List.mem_cons, List.mem_nil_iff, or_false] at h
    rcases h with rfl | rfl | rfl | rfl | rfl | rfl <;> exact ⟨passes_of (by decide +kernel), passes_of (by decide +kernel)⟩
  · intro n h; simp only [List.mem_cons, List.mem_nil_iff, or_false] at h
    rcases h with rfl | rfl | rfl | rfl | rfl <;> exact ⟨passes_of (by decide +kernel), passes_of (by decide +kernel)⟩

theorem witness_GateTraps : Instr.wf (.vadd 1 2 3) = true ∧ (∀ i ∈ [Instr.vadd 1 2 3, .txb, .sret, .pgres 1, .add 32 1 2], isWord i) ∧
    fr.th.partner = none ∧ fr.th.frailor = true ∧ tm.th.trapMode = true ∧ tm.th.frailor = false ∧ st.th.trapMode = false ∧
    wOp (encode (.vadd 1 2 3)) = 0x40 ∧ wOp (encode .txb) = 0x64 ∧ wordRegs (encode .txb) .s false = [] ∧
    32 ∈ wordRegs (encode (.add 32 1 2)) .s false ∧ wordRegs (encode (.add 31 1 2)) .s false = [31, 1, 2] ∧
    wOp (encode (.pgres 1)) = 0x7D ∧ wF (encode (.pgres 1)) = 2 ∧ wF (encode .sret) = 1 ∧
    3 ∈ wordRegs (encode (.add 1 2 3)) .s true ∧ poisoned.th.sPoison.has 3 = true ∧ (readsMask 0x40 0 = true ∧ maskBad.th.sPoison.has 126 = true ∧ maskBad.th.wait = none) ∧
    (1 ∈ wordRegs (encode (.vadd 4 1 2)) .v true ∧ elemBad.th.vPoison.has (96 * (elemBad.th.vbase + 1) + 5) = true) ∧
    (wOp (encode (.csrw 1 9)) = 0x2E ∧ st.th.csrCause ((encode (.csrw 1 9)).toNat / 2 ^ 21) = none ∧ st.th.csrCause 0x400 = some 2) ∧ st.th.sPoison = [] ∧ st.th.vPoison = [] := by
  exact ⟨by decide, by unfold isWord; decide +kernel, by decide +kernel⟩

/-- DIE_LOST is queued; an access of the handler is outstanding. -/
def struck : State := { st with th := { st.th with async := [⟨0x13, 0, 2, none⟩] } }
def tmBusy : State := withOut tm [⟨0, .ld, 0, 0, .loadS 9 4 true, .llc, [part (.loc 0) 4 0 0], [9], false, true, false, 0⟩]

theorem witness_TrapEntryAndReturn : st.unitsOk ∧ st.passes (encode (.trap 4)) ∧ tm.passes (encode .sret) ∧ tmBusy.passes (encode .sret) ∧ (handled.thread handled.th.uid).tvec ≠ 0 ∧ (st.thread st.th.uid).tvec = 0 ∧ (tm.thread tm.th.uid).trapMode = true ∧
    st.th.partner = none ∧ fr.th.frailor = true ∧ st.th.frailor = false ∧ (∀ v ∈ (st.block st.th.blk).waves, v = st.th.uid) ∧
    (struck.th.trapMode = false ∧ struck.th.async.map (·.cause) = [0x13] ∧ (struck.thread struck.th.uid).gone = false ∧ struck.th.partner = none) ∧
    tmBusy.th.out.all (fun y => (y.ctr ≠ .ld && y.ctr ≠ .st) || y.inTrap != tmBusy.th.trapMode) = false ∧ tm.th.out = [] ∧ tm.th.pending = [] ∧ tm.th.async = [] ∧
    (st.thread st.th.uid).gone = false ∧ (st.thread st.th.uid).async = [] := by
  exact ⟨by unfold State.unitsOk; decide +kernel, passes_of (by decide +kernel), passes_of (by decide +kernel), passes_of (by decide +kernel), by decide +kernel⟩

theorem witness_Halt : ∃ v ∈ (two.block two.th.blk).waves, v ≠ two.th.uid ∧ (two.thread v).gone = false := by decide +kernel

/-- The context owns free page 16 and an address range, and has an outstanding fault record. -/
def sysc : State :=
  let s := st.modCtx 1 fun c => { c with poolVa := 0x40000000, poolLen := 0x100000, poolPages := [16], faults := [⟨leBytes 8 4, 0x80, 0, 77, none, [], [], [], false⟩] }
  let s := { s with threads := s.threads.set 77 { Thread.reset 77 with core := 3, ctx := 1, life := .running, faultRec := some 0x80 } }
  { s with th := { s.th with trapMode := true, trapcause := 5, trapinfo := 12 }, host := { s.host with stage := 7, ready := true } }

/-- The tables of a walk of 0x40000000 stand at 0x200000 to 0x204000, each with one entry, the last of them not present; its line is in the LLC. -/
noncomputable def tabled : State :=
  let s := after (exec (.llcFill 0x204000) (withOut sysc [⟨0, .ld, 0, 0, .loadS 9 4 true, .llc, [part (.mem 0x204000 0) 4 0 0], [9], false, true, false, 0⟩]))
  let s := s.modCtx 1 fun c => { c with ptroot := 0x200000 }
  withOut { s with home := [(0x80000, .valid 0x201001), (0x80400, .valid 0x202001), (0x80802, .valid 0x203001), (0x80C00, .valid 0x204001)] } []

def sx (v w : Word) : State := ((sysc.sset 1 v).sset 2 w)

theorem witness_SystemInstructions : (∀ i ∈ [Instr.pgres 1, .mapu 9 1 2, .tlbinv 1 2, .lanerd 9 1 2, .lanewr 9 1 2], sysc.passes (encode i)) ∧
    (sx 0 0).sget 1 = 0 ∧ (sysc.th.trapMode = true ∧ sysc.th.trapcause.toNat % 256 = 5 ∧ sysc.th.trapinfo.toNat % 256 = 12) ∧
    (sysc.ctx 1).faults.find? (fun r => r.addr = 0x81 / 64 * 64) = some ⟨leBytes 8 4, 0x80, 0, 77, none, [], [], [], false⟩ ∧ (sysc.thread 77).gone = false ∧
    (sysc.thread 77).faultRec = some 0x80 ∧ 77 ≠ sysc.th.uid ∧ (sysc.threads.getD 77 (Thread.reset 77)).uid = 77 ∧ sysc.th.trapBarrow = none ∧
    (sysc.ctx sysc.th.ctx).poolPages = [16] ∧ sysc.host.code = 0 ∧ (16 : Nat) % (2 ^ 16 / 2 ^ 16) = 0 ∧ sysc.dies.states.getD (homeDie (16 * 2 ^ 16)) 0 = 0 ∧
    ¬(0x40000000 < (sysc.ctx 1).poolVa ∨ (sysc.ctx 1).poolVa + (sysc.ctx 1).poolLen < 0x40000000 + 2 ^ 16) ∧ sysc.leaves 1 = [] ∧
    sysc.th.sPoison = [] ∧ sysc.th.vPoison = [] ∧ (∀ r ∈ (sysc.ctx 1).faults, r.addr = 0x80 → sysc.now < r.since + 2 ^ 24) ∧
    (0 : Nat) + 2 ^ 24 ≤ ({ sysc with now := 2 ^ 24 }).now ∧ 4 ≤ sysc.host.stage ∧
    (passB (((tabled.sset 1 0x40000000).sset 2 0x700)) (encode (.mapu 9 1 2)) = true ∧ tabled.walk 1 0x40000000 = .notPresent ∧
      tabled.spaceOk 0x100000 (2 ^ 16) = true ∧ tabled.walkWords 0x40000000 levels (tabled.ctx 1).ptroot = [0x80000, 0x80400, 0x80802, 0x80C00, 0x81000] ∧
      (tabled.lines.get? (0x81000 / 64)).isSome = true ∧ tabled.home.get? 0x81000 = none ∧ tabled.home.get? 0x81001 = none) := by
  exact ⟨passes_all (by decide +kernel), by decide +kernel⟩

/-! ### Witnesses: the Lattice and Barrow -/

/-- Format block: FP16 by FP16 (code 0x10), no scales, untagged (R304, R305). -/
def fbBytes : List Byte := leBytes 8 0 ++ leBytes 4 0xFFFFFFFF ++ leBytes 4 0xFFFFFFFF ++ [0x10, 0x10, 8, 8, 0, 0, 0, 0] ++ leBytes 8 0

/-- Control block: planes at 0x1000, no scale output, eight groups, one row, width 4, blocks of 16, tag 0x10 (R324, R333). -/
def ctlBytes : List Byte := leBytes 4 0x1000 ++ leBytes 4 0xFFFFFFFF ++ leBytes 2 8 ++ [1, 0, 0, 4, 1, 0x10]

def lat0 : State :=
  let s := withLs (withLs vc 0 fbBytes) 32 ctlBytes
  (((((s.sset 20 1).sset 21 0).sset 22 32).sset 23 0x400).sset 24 0x00010101).sset 25 33

/-- s9 is the handle of a tile of one bank. -/
noncomputable def la : State := after (exec (.accalloc 9 20 21) lat0)

noncomputable def lfull : State := withOut la (List.replicate 64 (idle 0 0 .mx .command [] []))

/-- An earlier load of local store is outstanding. -/
noncomputable def lbusy : State := withOut la [idle 0 0 .ld (.loadS 9 4 true) [part (.loc 0) 4 0 0] [9]]

/-- An acczero of the tile is queued. -/
noncomputable def lqueued : State := after (exec (.acczero 9) la)

theorem witness_LatticeIssue : lat0.err.plant = none ∧ la.err.plant = none ∧ lqueued.passes (encode (.accfree 9)) ∧
    ((lqueued.core 0).latq.any fun c => decide (c.op.slot = some 0) && decide (c.uid < lqueued.nextUid)) = true ∧ la.th.wait = none ∧ (∀ i ∈ [Instr.mma 1 2 3 2 true, .mmag 1 2 3 2 true, .qnt 1 2 3, .plpack 2 3, .plunp 1 3, .acczero 2, .accwr 1 2 3,
    .twset 1 2 3, .accalloc 1 2 3, .accfree 2, .accclaim 2 3, .accrd 1 2 3, .accrdClr 1 2 3], la.passes (encode i)) ∧
    (∀ i ∈ [Instr.mma 9 21 24 0 false, .mmag 9 21 24 3 true, .acczero 9, .accwr 9 1 21, .qnt 9 23 22, .plpack 1 22, .plunp 1 22], la.passes (encode i) ∧ lfull.passes (encode i) ∧ lbusy.passes (encode i)) ∧
    la.sget 9 = 0 ∧ ((la.blk.tiles.get? 0).map fun T => (T.used, T.gen, T.banks)) = some (true, 0, [0]) ∧ lat0.blk.tiles.get? 0 = none ∧
    (la.core 0).latq = [] ∧ ¬lfull.th.out.countP (fun c => c.ctr = .mx) < 64 ∧ formatFault (la.blk.lsSlice 0 32) = none ∧ dimsOk 0x00010101 false = true ∧
    (la.blk.mmaCheck false false 0 0 0x00010101).toOption.isSome = true ∧ errOf (la.blk.mmaCheck false false 1 0 0x00010101) = some (0x0C, 0, 0) ∧
    errOf (la.blk.mmaCheck false false 0 0 0) = some (0x18, 0, 0x20) ∧ (la.blk.qntCheck 0x400 32 9).toOption.isSome = true ∧
    errOf (la.blk.qntCheck 0x401 32 9) = some (3, 0x401, 0) ∧ (la.blk.planeCheck 32 la.activeLanes true).toOption.isSome = true ∧
    errOf (la.blk.planeCheck 33 la.activeLanes false) = some (3, 33, 0) ∧ (la.sget 20).toNat = 1 ∧ (la.sget 24).toNat % 16 = 1 ∧
    la.th.out = [] ∧ (lfull.th.out.all fun v => v.parts.isEmpty && v.kind = .command) = true ∧
    (lbusy.th.out.all fun v => decide (v.seq < lbusy.th.seq) && v.kind.isLoad && v.parts.all fun p => !p.phase.final) = true := by
  refine ⟨by decide +kernel, by decide +kernel, passes_of (by decide +kernel), by decide +kernel, by decide +kernel, passes_all (by decide +kernel), ?_, by decide +kernel⟩
  intro i h
  have h1 := passes_all (s := la) (l := [Instr.mma 9 21 24 0 false, .mmag 9 21 24 3 true, .acczero 9, .accwr 9 1 21, .qnt 9 23 22, .plpack 1 22, .plunp 1 22])
    (by decide +kernel) i h
  have h2 := passes_all (s := lfull) (l := [Instr.mma 9 21 24 0 false, .mmag 9 21 24 3 true, .acczero 9, .accwr 9 1 21, .qnt 9 23 22, .plpack 1 22, .plunp 1 22])
    (by decide +kernel) i h
  exact ⟨h1, h2, passes_all (l := [Instr.mma 9 21 24 0 false, .mmag 9 21 24 3 true, .acczero 9, .accwr 9 1 21, .qnt 9 23 22, .plpack 1 22, .plunp 1 22])
    (by decide +kernel) i h⟩

/-- The command queued by an instruction is given to the Lattice. -/
noncomputable def given (i : Instr) : State := after (exec (.latticeSequencerRound 0) (after (exec i la)))

noncomputable def head (i : Instr) : Option LatCmd := ((given i).core 0).latq.head?

theorem witness_LatticeWork : (given (.acczero 9)).unitsOk ∧ (given (.acczero 9)).err.plant = none ∧
    (∀ i ∈ [Instr.acczero 9, .accwr 9 1 21, .mma 9 21 24 0 true, .qnt 9 23 22, .plpack 1 22], (head i).any (fun c => (given i).latEnabled 0 c && !c.bad) = true) ∧
    ((head (.acczero 9)).map (·.op)) = some (.zero 0) ∧ ((given (.acczero 9)).blk.tiles.get? 0).isSome = true ∧
    ((head (.mma 9 21 24 0 true)).any fun c => match c.op with
      | .mma .. => true
      | _ => false) = true ∧ (given (.plpack 1 22)).blk.lsPoison = [] ∧ (given (.plpack 1 22)).blk.ls.wf = true ∧
    (fld ctlBytes 13 1 % 16 = 4 ∧ fld ctlBytes 8 2 = 8 ∧ fld ctlBytes 14 1 = 1 ∧ fld ctlBytes 4 4 = 0xFFFFFFFF) ∧
    ((la.core 0).latq.all fun y => y.order = 0) = true ∧ (la.thread la.th.uid).wslot < 32 ∧ la.nextUid ≠ 0 := by
  refine ⟨by unfold State.unitsOk; decide +kernel, by decide +kernel⟩

/-- Commands of two more waves are queued, the second of a block whose task stands higher. -/
noncomputable def several : State :=
  let s := after (exec (.accwr 9 1 21) (after (exec (.acczero 9) la)))
  let u := s.th.uid
  let s := { s with threads := s.threads.set (u + 1) { s.th with uid := u + 1, wib := 1, wslot := 1 } }
  s.modCore 0 fun c => { c with latq := c.latq.mapIdx fun i y => if i = 1 then { y with thr := u + 1 } else y }

theorem witness_LatticeRound : several.nextUid ≠ 0 ∧ ((several.core 0).latq.map fun y => (y.order, (several.thread y.thr).wslot)) = [(0, 0), (0, 1)] ∧
    (several.core 0).latq.map (·.thr) = [la.th.uid, la.th.uid + 1] := by decide +kernel

/-- A running list at record word w. -/
def listed (w : Nat) : State :=
  let s := withLs mc 0 (leBytes 4 w ++ leBytes 12 0)
  { s with th := { s.th with latList := some ⟨0, 0, none, 0, 0, false, none, 0, 0⟩, barList := some ⟨0, 0, none, 0, 0, false, none, 0, 0⟩ } }

theorem witness_ListRecords : (∀ w ∈ [0, 2 ^ 7 + 2 ^ 10, 2 ^ 7 + 2 ^ 10 + 2 ^ 16, 2 * 2 ^ 7, 3 * 2 ^ 7, 4 * 2 ^ 7, 0x72, 0x73 + 2 ^ 29],
      ((listed w).thread mc.th.uid).life = .running ∧ ((listed w).thread mc.th.uid).out = [] ∧ fld ((listed w).blk.lsSlice 0 16) 0 4 = w ∧ (listed w).blk.lsPoison = []) ∧
    16 ≤ (listed 0).blk.usable ∧ listAccepts .lattice 0x72 = true ∧ listAccepts .barrow 0x72 = false := by decide +kernel

/-- A template of four words, one dimension (R276). -/
def tplT : Template := ⟨4, 1, 0, 0, 0, [4, 1, 1, 1], [4, 0, 0, 0], [4, 0, 0, 0], 4, 1⟩

def barr0 : State :=
  let s := (mc.modBlock mc.th.blk fun k => { k with tmpls := k.tmpls.set 2 tplT })
  ((s.sset 20 2).sset 21 0x1000000000000100).sset 22 0x1000000000000200

/-- One command in the engine. -/
noncomputable def barr1 : State := after (exec (.copy 20 21 22 false 0) barr0)

noncomputable def cmd1 : Option BarCmd := (barr1.core 0).barrow.head?

/-- That command, changed: of a copy with `.own` for Frailor core 0 whose one word is staged, or at an unmapped destination of a
context that handles its faults. -/
noncomputable def withCmd (f : BarCmd → BarCmd) : State := barr1.modCore 0 fun k => { k with barrow := k.barrow.map f }
noncomputable def ownC : State := withCmd fun c => { c with
  own := true, ctx := 0, owner := mkOwner 2 0 0 0 0, next := 4, held := [(0x1000000000000200, .mem 0x100000 0)], staged := [(0x1000000000000200, 1)] }
noncomputable def faultC : State :=
  let s := withCmd fun c => { c with dst := 0x50000000, sectors := [(0x50000000 / 32, .waiting)] }
  s.modTask s.blk.task fun k => { k with record := { k.record with selfh := true } }
def sec0 : Nat := 0x1000000000000200 / 32

theorem witness_BarrowResults : barr0.unitsOk ∧ barr0.err.plant = none ∧ (∀ i ∈ [Instr.ctld 21 20, .copy 20 21 22 false 0, .copym 20 21 22 true 3], barr0.passes (encode i)) ∧
    ((barr0.core 0).barrow = [] ∧ (barr0.blk.tmpls.get? 2).isSome = true ∧ barr0.blk.tmpls.get? 3 = none ∧ (barr0.sget 20).toNat / 2 ^ 6 % 2 ^ 10 < barr0.blk.lsBytes / 1024 ∧
    ((barr0.sget 21).toNat / 2 ^ 60 = 1 ∧ (barr0.sget 21).toNat / 2 ^ 20 % 2 ^ 40 = 0 ∧ (barr0.sget 21).toNat % 64 = 0) ∧ barr0.th.wait = none) ∧
    (∃ s1 b, barr0.recordWords 0x1000000000000100 8 = (s1, .bytes b) ∧ (templateFault b).isSome = true) ∧
    (barr0.copyCheck barr0.blk false false 2 0x1000000000000100 0x1000000000000200).toOption.isSome = true ∧
    errOf (barr0.copyCheck barr0.blk false false 3 0 0) = some (0x18, 0, 0x40) ∧
    (cmd1.any fun c => c.suspended.isNone && c.sectors.length = 1 && c.staged.isEmpty && c.tmpl.xform = 0 && !c.own && c.follow.isNone && c.skip.isEmpty) = true ∧
    (ownC.core 0).barrow.all (fun c => ownC.barReady c && c.owner.toNat / 2 ^ 29 == 2 && decide ((ownC.thread (oCore c.owner)).ctx = c.ctx) && c.own &&
      decide (c.until sec0 ≤ c.next) && decide (c.phaseOf sec0 = some .waiting) && decide (c.tmpl.esize = 4)) = true ∧ ownC.inFlight 0 < 512 ∧
    ownC.home.get? 0x40000 = none ∧ ownC.memPoison = [] ∧ faultC.selfHandling faultC.th = true ∧
    (faultC.core 0).barrow.all (fun c => faultC.barReady c && c.tmpl.inRange c.next && decide (c.next < c.tmpl.total) && c.sectors.all (fun y => decide (c.next < c.until y.1)) &&
      decide (errOf (faultC.reach (faultC.thread c.thr) .barrowDst none (c.tmpl.dst c.dst c.next) c.tmpl.esize).2 = some (.trap 4 0))) = true ∧
    (barr1.core 0).barrow.length = 1 ∧ barr1.blk.lsPoison = [] ∧ barr1.blk.ls.wf = true := by
  refine ⟨by unfold State.unitsOk; decide +kernel, by decide +kernel, passes_all (by decide +kernel), ?_⟩
  exact ⟨by decide +kernel, ⟨_, _, rfl, by decide +kernel⟩, by decide +kernel⟩

/-! ### Witnesses: the Seedbank, reductions, the fabric -/

/-- s20, s21: a Seedbank pointer (word 1); s22: bit 8 set; s23: a local record of a reduction window (R350). -/
def sb0 : State :=
  let s := withLs (withLs mc 0x20 (leBytes 8 0x40000000 ++ leBytes 8 256 ++ leBytes 2 1 ++ leBytes 1 7 ++ leBytes 13 0)) 0x40 (leBytes 8 0x100 ++ leBytes 24 0)
  ((((s.sset 20 0x2000000000000004).sset 21 0).sset 22 0x100).sset 23 0x1000000000000020).sset 24 0x1000000000000040

def sbNone : State := ((sb0.sset 125 0).sset 126 0).sset 127 0

def sbT : State := (({ sb0 with th := { sb0.th with trapMode := true } } : State).sset 23 0x1000000000000020).sset 21 0

theorem witness_SeedbankAndReductions : (∀ i ∈ [Instr.sbradd 2 3, .sbrmin 2 3, .sbrmax 2 3, .sbrfadd 2 3, .sbuadd 2 3, .sbumin 2 3, .sbumax 2 3,
    .sbufadd 2 3, .rredAdd 2 3, .rredMin 2 3, .rredMax 2 3, .rredMinu 2 3, .rredMaxu 2 3, .rredFadd 2 3,
    .rredAddD 2 3, .rredOr 2 3, .cquiet 2], sb0.passes (encode i)) ∧ sbT.passes (encode (.rwin 23 21)) ∧ (full .st).passes (encode (.sbradd 3 21)) ∧ (sb0.activeLanes = [0, 95] ∧ sbNone.activeLanes = [] ∧
    sb0.th.emulated = none ∧ sb0.emulates 127 = false ∧ sb0.th.count .st < 63 ∧ 63 ≤ (full .st).th.count .st ∧
    sb0.sendRoom [⟨127, 0, .remote 7 0 0, 4, 0, 0, 0, .idle⟩] = true ∧ (sb0.reach sb0.th .atomic none (sb0.sget 20).toNat 4).2.toOption = some (.seed 4) ∧ (sb0.sget 20).toNat / 2 ^ 60 = 2 ∧
    errOf (sb0.reach sb0.th .atomic none ((sb0.sget 20).toNat + 2) 4).2 = some (.trap 3 0) ∧ sb0.dies.states.getD 0 0 < 2 ∧ sb0.seed.wf = true ∧
    sb0.seedPoison = [] ∧ sb0.th.wait = none ∧ (sb0.ctx sb0.th.ctx).phase = (sb0.sget 21).getLsbD 0 ∧ sb0.flows = [] ∧
    (sb0.sget 22).getLsbD 8 = true ∧ (sb0.sget 21).getLsbD 8 = false) ∧
    (∃ s1 b, sb0.recordWords 0x1000000000000020 4 = (s1, .bytes b) ∧ fld b 0 8 = 0x40000000 ∧ fld b 8 8 = 256 ∧ fld b 18 1 = 7) ∧
    (∃ s1 b, sb0.recordWords 0x1000000000000040 4 = (s1, .bytes b) ∧ fld b 0 8 % 256 = 0 ∧ fld b 8 8 = 0) := by
  exact ⟨passes_all (by decide +kernel), passes_of (by decide +kernel), passes_of (by decide +kernel), by decide +kernel, ⟨_, _, rfl, by decide +kernel⟩, ⟨_, _, rfl, by decide +kernel⟩⟩

def pkt (src dst n off : Nat) (r : Req) : Packet := ⟨src, dst, n, 1, 0, off, r, some 0, false, false, false, [], 0⟩

/-- This package exports its memory, has one packet outstanding to package 9, and context 1's window 0 is homed at package 7. -/
noncomputable def fab : State :=
  let s := withOut (after (exec (.llcFill 0) (withOut st [idle 0 0 .ld (.loadS 1 4 true) [part (.mem 0 0) 4 0 0] [1]]))) []
  let s := s.modCtx 1 fun c => { c with windows := [(0, 0x40000000, 256, 7, 0)] }
  { s with fxEn := true, flows := [(9, ⟨1, [(pkt 0 9 0 0 (.load 4), 0)], [40], true, 0, false, none⟩)] }

theorem witness_FabricEvents : fab.unitsOk ∧ (pkt 3 7 0 0 (.load 4)).dst ≠ fab.pkg ∧ (pkt 3 0 0 0 (.load 4)).dst = fab.pkg ∧ fab.rx = [] ∧
    (2 ^ 31 ≤ (0xFFFFFFFF + 2 ^ 32 - 0) % 2 ^ 32) ∧ st.exportAddr 0 4 = none ∧
    (fab.exportAddr 0 4) = some (fab.fxBase * 2 ^ 38 + 0) ∧ (fab.lines.get? 0).any (fun l => l.ue = none) = true ∧ fab.home.get? 0 = none ∧
    fab.memPoison = [] ∧ fab.flows.sorted = true ∧ (fab.flows.getD 9 Flow.reset).routed = true ∧ (fab.flows.getD 8 Flow.reset).unacked = [] ∧
    ((fab.flows.getD 9 Flow.reset).unacked.any fun x => decide (8000 ≤ 8000 - x.2)) = true ∧ fab.failed.get? 40 = none ∧ fab.merges = [] ∧
    (fab.flows.getD 9 Flow.reset).route = [40] ∧ fab.down = 0 ∧ ({ fab with down := 1 } : State).down.getLsbD 0 = true ∧ fab.pkgQuiet 1 true = true ∧
    2000 ≤ ({ fab with now := 2000, merges := [⟨0, pkt 3 7 0 0 (.atomic .add 4 1 0 false true), 0⟩] } : State).now - 0 ∧ fab.rx.getD 3 RxFlow.reset = ⟨0, [], [], []⟩ ∧
    fab.mergeable (pkt 3 7 0 0 (.atomic .add 4 1 0 false true)) = true ∧ fab.mergeable (pkt 3 7 0 0 (.load 4)) = false := by
  refine ⟨by unfold State.unitsOk; decide +kernel, by decide +kernel⟩

/-! ### Witnesses: collectives and gangs -/

/-- Page 0x40000000 of context 1 is mapped, group 5 binds this block, a collective record lies at local offset 0, and a gang record
of two members, with their list at 0x40. -/
noncomputable def coll0 : State :=
  let s := after (exec (.mapu 9 1 2) (sx 0x40000000 0x700))
  let s := { s with th := { s.th with trapMode := false, trapcause := 0, trapinfo := 0 } }
  let s := after (exec (.collectiveGroupBinding 1 5 s.blk.task [0]) s)
  let s := withLs s 0 (leBytes 8 0x40000000 ++ leBytes 8 0x40000100 ++ leBytes 4 1 ++ leBytes 2 5 ++ [0, 0, 4, 0, 0, 0] ++ leBytes 36 0)
  let s := withLs s 0x40 (leBytes 8 0x1000000000000100 ++ leBytes 8 0x1000000000000080 ++ [2] ++ leBytes 47 0 ++ leBytes 2 0 ++ leBytes 2 1)
  ((s.sset 20 0x1000000000000000).sset 21 0).sset 22 0x1000000000000040

/-- A collective is outstanding, and its data are there. -/
noncomputable def coll1 : State :=
  let s := after (exec (.coll 20 21) coll0)
  { s with collSent := s.colls.flatMap fun c => [(1, c.group, c.k, ⟨0, [1, 2, 3, 4], false⟩), (1, c.group, c.k, ⟨2 ^ 32, [1, 2, 3, 4], false⟩)] }

/-- A gang's launch record in global memory. -/
noncomputable def gangRec (flags : Nat) : State :=
  let b := launchRecord 1 5 flags
  { coll0 with home := (List.range (b.length / 4)).foldl (fun m i => m.set (0x40000 + i) (.valid (BitVec.ofNat 32 (fld b (4 * i) 4)))) coll0.home }

/-- A gang in slot 0 that prepares, or has begun. -/
def gang (phase : Nat) (answers : Map Nat) (begun : List Nat) : State :=
  { mc with gangs := [(0, ⟨phase, 1, 1, [0, 4], answers, begun, 0, 0, 0, false, mc.th.uid, 0, []⟩)] }

theorem witness_CollectivesAndGangs : coll0.unitsOk ∧ (∀ i ∈ [Instr.coll 20 21, .glaunch 9 22, .gstat 9 21], coll0.passes (encode i)) ∧
    ((coll0.sget 20).toNat % 64 = 0 ∧ coll0.blk.collOut < 8 ∧ coll0.th.wait = none ∧ 0 < coll0.blk.lsBytes / 1024 ∧ coll0.th.out = []) ∧
    (∃ s1 r, coll0.recordWords 0x1000000000000000 8 = (s1, .bytes r) ∧ collFault r (some 1) = none ∧
      (s1.dropRecords.groupOf s1.dropRecords.blk 5) = some (coll0.blk.task, [0]) ∧ s1.dropRecords.collWaitFails 1 coll0.blk.task [0] = none ∧
      (s1.bufferPages .load 0x40000000 4).2.toOption.isSome = true ∧
      ((s1.bufferPages .load 0x40000000 4).1.bufferPages .store 0x40000100 4).2.toOption.isSome = true) ∧
    (∃ s1 r, coll0.recordWords 0x1000000000000040 8 = (s1, .bytes r) ∧ fld r 16 1 = 2 ∧ fld r 8 8 % 8 = 0) ∧ coll0.gangs = [] ∧
    (gang 1 [] []).gangs.get? 0 = some ⟨1, 1, 1, [0, 4], [], [], 0, 0, 0, false, mc.th.uid, 0, []⟩ ∧ (gang 1 [] []).now - 0 < 100000000 ∧
    ((gang 2 [(0, 0), (1, 0)] [0]).gangs.get? 0).map (fun g => (g.phase, g.abandoned, g.begun)) = some (2, false, [0]) ∧
    st.members = [] ∧ st.colls = [] ∧ coll0.heldXlat 1 1 0x40000000 = none ∧ (match coll0.walk 1 0x40000000 with
      | .leaf x => decide (x.pa = 0x100000)
      | _ => false) = true ∧
    (coll1.colls.length = 1 ∧ coll1.colls.all (fun c => decide (c.kind = 0 ∧ c.count = 1 ∧ c.size = 4 ∧ c.wrote = 0 ∧ c.acks = [] ∧ c.place c.recv = some (.mem 0x100100 0)) &&
      (coll1.sentPart c 0).isSome && !coll1.sendsDiffer c && decide ((coll1.sentPart c (2 ^ 32)).map (·.length) = some 4)) = true) ∧
    errOf ((gangRec 0).memberRecord 1 0x40000000 []).2 = some .bad ∧ ((gangRec 0x400).memberRecord 1 0x40000000 []).2.toOption.isSome = true := by
  refine ⟨by unfold State.unitsOk; decide +kernel, passes_all (by decide +kernel), by decide +kernel,
    ⟨_, _, rfl, by decide +kernel⟩, ⟨_, _, rfl, by decide +kernel⟩, by decide +kernel⟩

/-- A member of gang 64 that is not over (CollectivesAndGangs). -/
theorem witness_GangMember (r : Record) : ({ mc with members := [(64, ⟨0, r, 0, none, false⟩)] } : State).members.get? 64 =
    some ⟨0, r, 0, none, false⟩ := rfl

/-! ### Witnesses: the dispatcher, the service runtime, the host -/

/-- One block of the record's task is still to be placed. -/
def disp : State :=
  { st with tasks := st.tasks.map fun p => (p.1, { p.2 with record := { p.2.record with blocks := 2, cls := 1 }, placed := 1 }), now := 10000000, cycles := 2 ^ 24
            th := { st.th with cls := 0 }, host := { st.host with stage := 7, ready := true }
            ctxs := st.ctxs.map fun p => (p.1, { p.2 with spillFree := 2 ^ 20 }) }

theorem witness_DispatcherEvents : disp.unitsOk ∧ disp.marks.getD 0 0 < disp.now / 10000000 ∧ ¬st.marks.getD 0 0 < st.now / 10000000 ∧
    (disp.tasks.any fun p => p.2.die = 0 && disp.hasUnplaced p.2 && p.2.record.cls ≠ 0 && p.2.gangKey.isNone && p.2.uid = p.1 &&
      disp.fitsWindow p.2.record.ctx p.2.record.energy && decide (p.2.record.areas ≤ (disp.ctx p.2.record.ctx).spillFree) && (disp.bestCore 0 p.2.record.slots p.2.record.lsBytes p.2.record.accBanks p.2.record.regs p.2.record.cls p.2.record.dual).isSome) = true ∧
    disp.waitingResume 0 = [] ∧ (disp.core 0).rotation = [] ∧ disp.th.core < 512 ∧ disp.th.life = .running ∧ disp.th.wait = none ∧
    65536 ≤ disp.cycles - disp.th.lastIssue ∧ 2 ^ 24 * (disp.th.starved + 1) ≤ disp.cycles - disp.th.lastIssue ∧ ¬65536 ≤ st.cycles - st.th.lastIssue ∧
    disp.marks.getD (0 * 64 + 1) 0 < disp.cycles / 4096 ∧ (disp.core 0).allowance = 32 ∧ disp.blocksOn 1 = [] ∧ 1024 ≤ disp.cycles - (disp.core 1).idleSince ∧
    disp.host.code = 0 ∧ 4 ≤ disp.host.stage ∧ disp.mayPreempt disp.blk = false ∧
    (let s := disp.modTask disp.blk.task fun k => { k with slot := none }
     s.mayPreempt s.blk = true) ∧ disp.blk.queues.get? 0 = none ∧ ((qc 1).blk.queues.get? 3).isSome = true ∧ disp.blk.resident = true ∧ disp.blk.started = true ∧ disp.blk.waves = [disp.th.uid] ∧
    disp.th.out = [] ∧ (disp.core 0).barrow = [] ∧ st.now / 10000000 ≤ st.windowNo ∧ disp.windowNo < disp.now / 10000000 ∧ disp.mhz = 1900 := by
  refine ⟨by unfold State.unitsOk; decide +kernel, by decide +kernel⟩

/-- The block is saved and its task holds a slot. -/
noncomputable def saved : State :=
  let s := { st with host := { st.host with stage := 7, ready := true } }.modTask st.blk.task fun k => { k with record := { k.record with cls := 1 }, slot := none }
  (after (exec (.preemption st.th.blk) s)).modTask st.blk.task fun k => { k with slot := some 0 }

theorem witness_Resume : (saved.host.code = 0 ∧ 4 ≤ saved.host.stage ∧ saved.dies.states.getD 0 0 = 0 ∧ saved.commandRoom 5 (saved.block st.th.blk) = true ∧
    (saved.core (saved.block st.th.blk).core).rotation = []) ∧ (saved.block st.th.blk).resident = false ∧ (saved.block st.th.blk).started = true ∧
    (saved.block st.th.blk).waves = [st.th.uid] ∧ (saved.thread st.th.uid).life = .saved ∧
    ((saved.tasks.get? (saved.block st.th.blk).task).bind (·.slot)).isSome = true ∧ ((saved.blockThreads st.th.blk).filter fun y => y.life ≠ .exited).length ≤ (saved.freeWaveSlots 5).length ∧
    saved.coreFits 5 (saved.slotsUsed (saved.block st.th.blk)) (saved.block st.th.blk).lsBytes (saved.block st.th.blk).accBanks (saved.block st.th.blk).regs (saved.block st.th.blk).cls (saved.block st.th.blk).dual = true := by
  decide +kernel

def params (c : Nat) : CtxParams := ⟨c, 0, 5, 1, 1, 0, 0, 0, 0, [], 0, 0, 0, []⟩

/-- Bring-up has come to a stage; a die drains; a scrubbed line has an error; a host reads through port 0. -/
def atStage (k : Nat) : State := { st with host := { st.host with stage := k, code := 0 } }
def draining : State := { State.reset with dies := { State.reset.dies with states := [0, 1, 0, 0] } }
noncomputable def scrub (ue dirty : Bool) : State := { lc with lines := lc.lines.map fun l => (l.1, { l.2 with ue := some ue, dirty := dirty, tag := 1 }) }
noncomputable def hosted : State :=
  { lc with host := { lc.host with ready := true, hostRole := [true, false], hasHost := [true, false], linkUp := [true, false], caps := List.replicate 16 (2 ^ 40) } }

/-- A load of a word whose home is die 2 has been outstanding for 100 µs. -/
def crossed : State := { withOut st [⟨5, .ld, 0, 0, .loadS 9 4 true, .llc, [part (.mem (2 ^ 40) 0) 4 0 0], [9], false, false, false, 0⟩] with now := 100000 }

/-- The counter of die 2 is 101 ticks off, and context 1 has touched that die. -/
def drifted : State := ({ st with skew := [0, 0, 101, 0], now := 10000, th := { st.th with tvec := 0x20000 } } : State).modCtx 1 fun c => { c with tdmask := 4 }

/-- Another agent of the package holds the word that a host asks for. -/
noncomputable def raced : State := { hosted with home := hosted.home.set 0x40000 (.registered (mkOwner 0 0 1 0 0)) }

theorem witness_ServiceAndHostEvents : st.unitsOk ∧ (st.ctx 1).live = true ∧ (st.ctx 1).terminated = false ∧ (st.ctx 2).live = false ∧ st.host.code = 0 ∧ st.crossings = [] ∧
    (crossed.crossing ⟨0, crossed.th.uid, 5, 0⟩).map (fun x => (x.1, x.2.1)) = some (0, 2) ∧ crossed.dies.states.getD 2 0 < 2 ∧ 100000 ≤ crossed.now - 0 ∧
    (drifted.marks.getD (2 * 64 + 5) 0 < drifted.now / 10000 ∧ 100 < (drifted.skew.getD 2 0).natAbs ∧ drifted.dies.states.length = 4) ∧
    ((drifted.ctx 1).tdmask.getLsbD 2 = true ∧ drifted.th.tvec ≠ 0 ∧ drifted.th.trapMode = false ∧ drifted.th.partner = none) ∧
    ((raced.home.get? 0x40000).isSome = true ∧ raced.ownerScope (mkOwner 0 0 1 0 0) 0x40000 < 4) ∧
    (({ st with crossings := [⟨⟨0, 5, 3, 0⟩, 1, 2, true, 0, 0⟩] } : State).crossings.map fun x => decide (x.dst < 4 ∧ 100000 ≤ 100000 - x.since)) = [true] ∧
    draining.dies.states.getD 1 0 = 1 ∧ draining.pagesOn 1 = [] ∧ draining.blocks = [] ∧ st.dies.states.getD 1 0 ≠ 1 ∧
    ((scrub true true).lines.get? (0x100000 / 256)).map (fun l => (l.ue, l.dirty, l.tag)) = some (some true, true, 1) ∧
    ((scrub false true).lines.get? (0x100000 / 256)).map (fun l => l.ue) = some (some false) ∧ st.lines.get? 0 = none ∧ st.frozen = false ∧
    ({ st with frozen := true } : State).frozen = true ∧ State.reset.host.ready = false ∧
    (hosted.host.hostRole.getD 0 false = true ∧ hosted.host.hasHost.getD 0 false = true ∧ hosted.host.linkUp.getD 0 false = true) ∧ hosted.pkg < 8192 ∧
    hosted.spaceOk 0x100000 4 = true ∧ (hosted.lines.get? (lineOf (0x100000 / 4))).any (fun l => l.ue = none) = true ∧ hosted.memPoison.has (0x100000 / 4) = false ∧
    (∀ k ∈ [3, 4, 5], (atStage k).host.stage = k ∧ (atStage k).host.code = 0) ∧ st.host.linkUp.getD 0 false = false ∧
    (∀ i < 4, ∀ j < i, ([0, 1, 2, 3] : List Nat).getD i 0 % 4 ≠ ([0, 1, 2, 3] : List Nat).getD j 0 % 4) := by
  refine ⟨by unfold State.unitsOk; decide +kernel, by decide +kernel⟩

/-! ### Witnesses: the step and the invariant -/

/-- An add stands where the wave fetches. -/
def ready0 : State := st.withWord 0x0182C501

theorem witness_StepRunsDecodedInstruction : ready0.ready 0x0182C501 ∧ decodeWord 0x0182C501 = .ok (.add 10 11 12) ∧
    (st.withWord 0).ready 0 ∧ decodeWord 0 = .error .illegalMajor ∧ st.due = false ∧ st.agenda = [] ∧ st.fetched = none ∧ st.runs = true ∧
    ({ st with frozen := true } : State).runs = false ∧ whileFrozen .thaw = true ∧ whileFrozen .rendezL = false :=
  by
  refine ⟨?_, rfl, ?_, rfl, by decide +kernel⟩ <;> unfold State.ready <;> decide +kernel

theorem witness_StepKeepsInvariant : ready0.memWf ∧ ready0.unitsOk ∧ ∃ t, step ready0 = .next t := by
  refine ⟨by unfold State.memWf; decide +kernel, by unfold State.unitsOk; decide +kernel, ?_⟩
  have h : (match step ready0 with
    | .next _ => true
    | _ => false) = true := by decide +kernel
  cases e : step ready0 with
  | next t => exact ⟨t, rfl⟩
  | fault f => rw [e] at h; simp at h
  | refused r => rw [e] at h; simp at h

theorem witness_DecodeEncodeAgree : Instr.wf (.vamoCas 126 1 2) = true ∧ isWord (.vamoCas 126 1 2) ∧ decodeWord (encode (.vamoCas 126 1 2)) = .ok (.vamoCas 126 1 2) ∧
    ¬isWord (.thaw) := by
  refine ⟨by decide, by unfold isWord; decide +kernel, rfl, by unfold isWord; decide +kernel⟩

/-! ### Witnesses: boundary clauses -/

/-- A store, a fence for the whole package behind it, and a load behind that. -/
def fenced : State := withOut mc [idle 0 0 .st (.store 4) [part (.loc 0) 4 0 0] [], ⟨1, .fence, 0, 0, .fence 0 2, .llc, [], [], false, false, false, 0⟩,
  idle 2 0 .ld (.loadS 9 4 true) [part (.loc 0) 4 0 0] [9]]

theorem witness_FenceOrders : fenced.th.partner = none ∧ (fenced.th.out.map (·.finished)) = [false, true, false] ∧
    (fenced.th.out.map fun x => (x.kind.isStore, x.kind.isLoad)) = [(true, false), (false, false), (false, true)] := by decide +kernel

theorem witness_PrefetchLine : passB (far 0x100000) (encode (.pf .toL1 1 0)) = true ∧ (far 0x100000).lines.vals.all (fun l => decide (l.ue = none)) = true ∧
    ((far 0x100000).translate 0 1 0x10000 .load).2.toOption = some ⟨0x100000, 16, 0, false, true, true⟩ ∧ (far 0x100000).err.rows = [] ∧
    (far 0x100000).err.found = [] ∧ placeOf 0x100000 0 = .mem 0x100000 0 ∧ ((seen (2 * 2 ^ 45)).hostUp 0 = false) := by decide +kernel

/-- Package 9 holds the word for a commit; host port 0 is up. -/
noncomputable def heldFor9 : State := { far (2 * 2 ^ 45) with locks := [(9, 77, 0x40000)], host := hc.host }

theorem witness_Holds : heldFor9.hostUp 0 = true ∧ heldFor9.unlocked heldFor9.pkg heldFor9.th.uid 0x100000 4 = false := by decide +kernel

/-- The Trellis's one launched member has ended short of two arrivals. -/
noncomputable def ended : State := { tc with trellis := [(5, ⟨1, [tc.blk.task], 2, 1, false, 0, []⟩)], tasks := tc.tasks.map fun p => (p.1, { p.2 with isOver := true }) }

theorem witness_TrellisAbandoned : ended.trellis.filter (fun p => p.1 = 5) = [(5, ⟨1, [tc.blk.task], 2, 1, false, 0, []⟩)] ∧
    (∀ u ∈ [tc.blk.task], (ended.tasks.get? u).any (·.isOver) = true) ∧ ended.unitsOk := ⟨by decide +kernel, by decide +kernel, units (by decide +kernel)⟩

/-- The head slot of the queue lies under an error. -/
def badHead : State := (qc 1).modBlock mc.th.blk fun k => { k with queues := k.queues.map fun p => (p.1, { p.2 with bad := [p.2.head] }) }

theorem witness_QueueHeadLost : passB badHead (encode (.qpop 8 9)) = true ∧ ((badHead.blk.queues.get? 3).map fun x => (x.pop.isSome, decide (x.head ∈ x.bad))) = some (true, true) := by
  decide +kernel

/-- Context 1 has a second package; a wave waits for its answer to a window. -/
def twoPackages : State := sbT.modCtx 1 fun c => { c with packages := [0, 4] }
def windowWait : State := { twoPackages with th := { twoPackages.th with wait := some ⟨.window, 0, 0, none, none, none, [twoPackages.sget 23, twoPackages.sget 21], none⟩ }, winAsks := [(1, 0, 4)] }

theorem witness_ReductionWindow : passB twoPackages (encode (.rwin 23 21)) = true ∧ passB windowWait (encode (.rwin 23 21)) = true ∧ twoPackages.th.wait = none ∧
    (∀ k ∈ (sbT.ctx 1).packages, k = sbT.pkg) ∧ (∃ k ∈ (twoPackages.ctx 1).packages, k ≠ twoPackages.pkg) ∧ (∃ n, (1, 0, n) ∈ windowWait.winAsks) :=
  ⟨by decide +kernel, by decide +kernel, by decide +kernel, by decide +kernel, by decide +kernel, 4, by decide +kernel⟩

theorem witness_PacketWaits : ({ fab with locks := [(9, 77, 0)] } : State).packetWaits (pkt 3 0 0 0 (.load 4)) = true ∧ fab.packetWaits (pkt 3 0 0 0 (.load 4)) = false ∧
    ({ fab with dies := { fab.dies with states := [3, 0, 0, 0] } } : State).packetWaits (pkt 3 0 0 0 (.load 4)) = true := by decide +kernel

theorem witness_GangEnds : ((gang 2 [] [0, 1]).gangs.get? 0).any (fun g => (List.range g.members.length).all fun i => decide (i ∈ g.begun)) = true ∧
    (gang 2 [] []).members.get? 64 = none ∧ ((gang 2 [] [0]).gangs.get? 0).any (fun g => decide (g.begun.length < g.members.length) && !g.abandoned) = true := by
  decide +kernel

/-- The block of a class-C task has its place and has not started. -/
def seated : State :=
  let s : State := { disp with tasks := disp.tasks.map fun p => (p.1, { p.2 with slot := some 0, record := { p.2.record with cls := 0 } }) }
  s.modBlock s.th.blk fun b => { b with started := false }

theorem witness_BlockSeated : (seated.tasks.any fun p => seated.hasUnplaced p.2 && p.2.gangKey.isNone && decide (p.2.die = 0) && (seated.placedC p.2).any (fun y => decide (y.core = 0))) = true ∧
    seated.waitingResume 0 = [] ∧ seated.unitsOk := ⟨by decide +kernel, by decide +kernel, units (by decide +kernel)⟩

/-- Bring-up waits for the service runtime, whose turn is next. -/
def bringUp : State := { atStage 6 with agenda := [.runtimeUp 3 [(4, [40])]] }

theorem witness_RuntimeUp : bringUp.due = false ∧ bringUp.frozen = false ∧ bringUp.agenda = [.runtimeUp 3 [(4, [40])]] ∧ bringUp.host.stage = 6 ∧ bringUp.host.code = 0 ∧
    sysc.host.ready = true ∧ (hosted.host.pcie.getD 0 false = false) ∧ hosted.unlocked hosted.pkg (2 ^ 40) 0x100000 4 = true ∧
    coll1.dies.states.getD 0 0 = 0 ∧ (coll1.pagesOn 0).any coll1.pinned = true := by decide +kernel

/-! ### Single steps: the manual's worked values -/

/-- One step of the word of i. -/
noncomputable def go (s : State) (i : Instr) : State := run s (encode i)

/-- Vector registers 1, 2 and 3 hold x, y and z in every lane; s9 = y. -/
def vec (x y z : W32) : State := (((st.vset 1 fun _ => x).vset 2 fun _ => y).vset 3 fun _ => z).sset 9 (y.setWidth 64)

/-- R178: a sum wraps. -/
theorem test_add_wraps : (run ((st.sset 11 (-1)).sset 12 1) 0x0182C501).sget 10 = 0 := by decide +kernel
/-- R179: `minu.w` looks at bits 31:0 only; `srl.w` by 0 sign-extends. -/
theorem test_minuW : (go ((st.sset 1 0x00000000FFFFFFFF).sset 2 0x0000000100000000) (.minuW 9 1 2)).sget 9 = 0 := by decide +kernel
theorem test_srlW : (go (st.sset 1 0x80000000) (.srlW 9 1 0)).sget 9 = 0xFFFFFFFF80000000 := by decide +kernel
/-- R180: −7 by 2 gives −3 and −1; a divisor of 0 gives all ones. -/
theorem test_div : (go ((st.sset 1 (-7)).sset 2 2) (.div 9 1 2)).sget 9 = -3 ∧ (go ((st.sset 1 (-7)).sset 2 2) (.rem 9 1 2)).sget 9 = -1 ∧
    (go (st.sset 1 7) (.div 9 1 0)).sget 9 = -1 := by decide +kernel
/-- R182: a destination that is also the condition. -/
theorem test_csel : (go (((st.sset 16 0).sset 15 3).sset 14 4) (.csel 16 15 14)).sget 16 = 4 := by decide +kernel
/-- R183: the lane set of the manual's example has 3 lanes, the first of them 0. -/
theorem test_triples : let s := ((st.sset 20 1).sset 21 0x100).sset 22 0x80000000
    (go s (.mcnt3 10 20)).sget 10 = 3 ∧ (go s (.mfirst3 14 20)).sget 14 = 0 ∧ (go s (.mand3 125 125 20)).sget 127 = 0x80000000 := by decide +kernel
/-- R184: `sltiu` by −1 writes 1 but for all ones. -/
theorem test_sltiu : (go (st.sset 1 5) (.sltiu 9 1 0x7FF)).sget 9 = 1 ∧ (go (st.sset 1 (-1)) (.sltiu 9 1 0x7FF)).sget 9 = 0 := by decide +kernel
/-- R185: chunks of 18 bits, most significant first. -/
theorem test_lsh : (go (st.sset 9 (-1)) (.lsh 9 5)).sget 9 = BitVec.ofInt 64 (-2 ^ 18 + 5) := by decide +kernel
/-- R187: `j loop`, eight words back. -/
theorem test_jmp : (run st 0xFFFFFC29).th.pc = 0xFFE0 ∧ st.th.pc = 0x10000 := by decide +kernel
/-- R188: a call links to the next word. -/
theorem test_jalr : (go (st.sset 5 0x20000) (.jalr 1 5)).th.pc = 0x20000 ∧ (go (st.sset 5 0x20000) (.jalr 1 5)).sget 1 = 0x10004 := by decide +kernel
/-- R111: a write of s0 is discarded. -/
theorem test_s0 : (run (st.sset 11 7) 0x00058001).sget 0 = 0 := by decide +kernel
/-- R203: `vmulh`, `vmulhu` and `vmul` of 0x80000000 by itself. -/
theorem test_vmulh : let s := vec 0x80000000 0x80000000 0
    (go s (.vmulh 4 1 2)).elem 4 95 = 0x40000000 ∧ (go s (.vmulhu 4 1 2)).elem 4 0 = 0x40000000 ∧ (go s (.vmulS 4 1 9)).elem 4 7 = 0 := by decide +kernel
/-- R198: inactive lanes keep what they held. -/
theorem test_masked : let s := (vec 5 6 7).sset 127 0x7FFFFFFF
    (go s (.vadd 3 1 2)).elem 3 95 = 7 ∧ (go s (.vadd 3 1 2)).elem 3 94 = 11 := by decide +kernel
/-- R208: a fused sum is rounded once. -/
theorem test_vfma : (go (vec 0x3F800001 0x3F7FFFFE 0xBF800000) (.vfma 3 1 2)).elem 3 0 = 0xA8800000 ∧
    (go (vec 0x3F800001 0x3F7FFFFE 0xBF800000) (.vfma 3 1 2)).th.fstat = 0 := by decide +kernel
/-- R211: the kinds of −0, +∞ and a signalling NaN. -/
theorem test_vfclass : (go (vec 0x80000000 0 0) (.vfclass 4 1)).elem 4 0 = 0x101 ∧ (go (vec 0x7F800000 0 0) (.vfclass 4 1)).elem 4 0 = 8 ∧
    (go (vec 0x7F800001 0 0) (.vfclass 4 1)).elem 4 0 = 0x20 := by decide +kernel
/-- R137, R213: 16,777,217 to FP32, by RNE with NX and by RUP. -/
theorem test_cvt : let s := vec 16777217 0 0
    (go s (.vcvtF32I32 4 1)).elem 4 0 = 0x4B800000 ∧ (go s (.vcvtF32I32 4 1)).th.fstat = 16 ∧
    (go { s with th := { s.th with frm := 2 } } (.vcvtF32I32 4 1)).elem 4 0 = 0x4B800001 := by decide +kernel
/-- R212: clamping to a byte. -/
theorem test_cvt_i8 : (go (vec 300 0 0) (.vcvtI8I32 4 1)).elem 4 0 = 0x7F ∧ (go (vec (-200) 0 0) (.vcvtI8I32 4 1)).elem 4 0 = 0x80 := by decide +kernel
/-- R128, R136: E4M3 0x7E is 448, and E5M2 0x7B is 57344. -/
theorem test_small_formats : (go (vec 0x7E 0 0) (.vcvtF32E4m3 4 1)).elem 4 0 = 0x43E00000 ∧
    (go (vec 0x7B 0 0) (.vcvtF32E5m2 4 1)).elem 4 0 = 0x47600000 := by decide +kernel
/-- R150, R151: a reduction adds in a tree and a scan in lane order: 1, 2^24, 1 and 1. -/
theorem test_fadd_orders : let s := (((st.vset 1 fun j => if j = 1 then 0x4B800000 else 0x3F800000).sset 125 15).sset 126 0).sset 127 0
    (go s (.vrfadd 9 1)).sget 9 = 0x4B800001 ∧ (go s (.vsfadd 4 1)).elem 4 3 = 0x4B800000 := by decide +kernel
/-- R214: a shift past the last lane gives zeros. -/
theorem test_vsldn : let s := (st.vset 8 fun j => BitVec.ofNat 32 j).sset 9 1
    (go s (.vsldn 8 8 9)).elem 8 3 = 4 ∧ (go s (.vsldn 8 8 9)).elem 8 95 = 0 := by decide +kernel
/-- R217: the byte difference and the string compare of the manual's example. -/
theorem test_strings : (go (vec 0x64726163 0x74726163 0) (.vbdif 4 1 2)).elem 4 0 = 0xFFFFFF83 ∧
    (go (vec 0x64726163 0x00006163 0) (.vbeq 20 1 2)).sget 20 = 0 ∧ (go (vec 0x00006163 0 0) (.vbfz 4 1)).elem 4 0 = 2 := by decide +kernel
/-- R218: two lanes of each key. -/
theorem test_vhist : let s := (((st.vset 1 fun j => BitVec.ofNat 32 (j % 4)).sset 125 0xFF).sset 126 0).sset 127 0
    (go s (.vhist 2 1)).elem 2 3 = 0x20000 ∧ (go s (.vhist 2 1)).elem 2 7 = 0x20001 := by decide +kernel
/-- R205, R206: a wrap of `vmsb`, and a compare with the scalar operand. -/
theorem test_vmsb : (go (vec 3 5 1) (.vmsb 3 1 2)).elem 3 0 = 0xFFFFFFF2 := by decide +kernel
theorem test_vcmpLtS : (go ((vec 0xFFFFFFFF 0 0).sset 9 0) (.vcmpLtS 20 1 9)).sget 20 = 0xFFFFFFFF := by decide +kernel
/-- R223: a load into a register that is outstanding counts in LD, and moves no byte yet. -/
theorem test_lw : (go (st.sset 3 0x1000000000000000) (.lw 10 3 4)).th.count .ld = 1 := by decide +kernel
/-- R68, R220: a misaligned local access, and one past the usable window, trap at their instruction. -/
theorem test_local_traps : let s := { st with th := { st.th with tvec := 0x20000 } }
    (go (s.sset 3 0x1000000000000001) (.lw 10 3 0)).th.trapcause = 3 ∧ (go (s.sset 3 0x1000000000010000) (.lw 10 3 0)).th.trapcause = 0x0B ∧
    (go (s.sset 3 0x1000000000010000) (.lw 10 3 0)).th.pc = 0x20000 := by decide +kernel
/-- R189, R223: the store and the load are performed. -/
theorem test_store_load : let s := (st.sset 3 0x1000000000000000).sset 4 0xABCD
    let t := after (exec (.storeCompletion s.th.uid s.th.seq []) (after (exec (.sh 4 3 2) s)))
    t.blk.ls.read 2 = 0xCD ∧ t.blk.ls.read 3 = 0xAB ∧ t.th.out = [] := by decide +kernel
/-- R230: `amo.cas` on a local word that matches. -/
theorem test_amoCas : let s := ((st.sset 3 0x1000000000000000).sset 4 0).sset 5 9
    let t := after (exec (.loadCompletion s.th.uid s.th.seq []) (after (exec (.amoCas 6 3 4) s)))
    t.blk.ls.readN 0 4 = 9 ∧ t.sget 6 = 0 := by decide +kernel
/-- R194: FRM is written whole, and CTX reads the wave's context. -/
theorem test_csr : (go (st.sset 5 2) (.csrw 5 0x00A)).th.frm = 2 ∧ (go st (.csrr 9 0x003)).sget 9 = 1 := by decide +kernel
/-- R387, R267: `trap` saves its pc, and the return goes to the next word. -/
theorem test_trap : let s := ({ st with th := { st.th with tvec := 0x20000 } } : State).sset 21 77
    let t := go s (.trap 21)
    t.th.trapcause = 0x17 ∧ t.th.trapinfo = 77 ∧ t.th.trappc = 0x10000 ∧ t.th.tepc = 0x10004 ∧ t.th.pc = 0x20000 ∧ t.th.trapMode = true ∧
    (after (exec .sret t)).th.pc = 0x10004 := by decide +kernel
/-- R237: `txb` opens the active lanes. -/
theorem test_txb : (go st .txb).th.tx.isOpen = true ∧ (go st .txb).th.tx.lanes.length = 96 := by decide +kernel
/-- R250, R253: the one arrival completes the phase, and `nbtest` reads the barrier. -/
theorem test_nbarr : let t := go bc (.nbarr 8)
    (t.blk.bar 63).phase = true ∧ (t.blk.bar 63).arrived = 0 ∧ (go t (.nbtest 9 8)).sget 9 = BitVec.ofNat 64 (1 * 2 ^ 40 + 16) := by decide +kernel
/-- R327: the first tile has slot 0 and generation 0. -/
theorem test_accalloc : (go lat0 (.accalloc 9 20 21)).sget 9 = 0 ∧ ((go lat0 (.accalloc 9 20 21)).blk.tiles.get? 0).isSome = true := by decide +kernel
/-- R257, R37: a record that names no block is refused with status 2. -/
theorem test_launch_bad : (go (mc.sset 20 0x1000000000000000) (.launch 10 20)).sget 10 = 2 := by decide +kernel
/-- R417: straps that differ but do not form a ring. -/
theorem test_pwrgood : let t := after (exec (.pwrgood true [] [0, 1, 1, 3] [1, 2, 3, 0]) st)
    t.host.detail = 0xD4 ∧ t.host.code = 2 ∧ t.host.stage = 3 := by decide +kernel
/-- R118: an unassigned major traps with its word. -/
theorem test_illegal : (run { st with th := { st.th with tvec := 0x20000 } } 0x00000000).th.trapcause = 1 ∧
    (run { st with th := { st.th with tvec := 0x20000 } } 0xD0000003).th.trapinfo = 0xD0000003 := by decide +kernel

end Sys2Proof.Tests
end

/-! SUPPORT. Proofs of the scalar and control instructions (spec/08_wave_scalar.md): the bits and numbers their results are told by,
what the decoder accepts in their majors, one rule per kind of effect, and the statements. -/

namespace Sys2Proof

/-! ### Little-endian bytes -/

/-- Bit i of a little-endian number is bit i mod 8 of its byte i / 8. -/
theorem testBit_leNat (l : List Byte) (i : Nat) : (leNat l).testBit i = (l.getD (i / 8) 0).getLsbD (i % 8) := by
  induction l generalizing i with
  | nil => simp [leNat]
  | cons b t ih =>
    rw [leNat, Nat.add_comm, show (256 : Nat) = 2 ^ 8 from rfl, Nat.testBit_two_pow_mul_add _ b.isLt]
    split
    next h => simp [Nat.div_eq_of_lt h, Nat.mod_eq_of_lt h, BitVec.getLsbD]
    next h =>
      obtain ⟨j, rfl⟩ := Nat.exists_eq_add_of_le (Nat.not_lt.mp h)
      rw [ih, Nat.add_sub_cancel_left, Nat.add_mod_left, show (8 + j) / 8 = j / 8 + 1 by omega, List.getD_cons_succ]

@[simp] theorem length_leBytes (k x : Nat) : (leBytes k x).length = k := by
  induction k generalizing x with
  | zero => rfl
  | succ k ih => simp [leBytes, ih]

theorem getD_leBytes {k i : Nat} (x : Nat) (h : i < k) : (leBytes k x).getD i 0 = BitVec.ofNat 8 (x / 2 ^ (8 * i)) := by
  induction k generalizing x i with
  | zero => omega
  | succ k ih =>
    cases i with
    | zero => simp [leBytes]
    | succ i =>
      rw [leBytes, List.getD_cons_succ, ih (x / 256) (by omega), Nat.div_div_eq_div_mul, show (256 : Nat) = 2 ^ 8 from rfl, ← pow_add,
        show 8 + 8 * i = 8 * (i + 1) by ring]

theorem getLsbD_getD_leBytes {k i j : Nat} (x : Nat) (h : i < k) (hj : j < 8) :
    ((leBytes k x).getD i 0).getLsbD j = x.testBit (8 * i + j) := by
  rw [getD_leBytes x h, BitVec.getLsbD_ofNat, Nat.testBit_div_two_pow, Nat.add_comm j]
  simp [hj]

end Sys2Proof

namespace Sys2Proof.Machine

open Sys2Proof

/-! ### Counts and bit orders (R181) -/

/-- The search of `ctz` and `mfirst3`: the least index below n at which p holds, or n where there is none. -/
theorem find_range_spec (n : Nat) (p : Nat → Bool) :
    ∃ m, ((List.range n).find? p).getD n = m ∧ m ≤ n ∧ (∀ i < m, p i = false) ∧ (m < n → p m = true) := by
  cases h : (List.range n).find? p with
  | none => exact ⟨n, rfl, le_rfl, by simpa using h, by simp⟩
  | some m =>
    obtain ⟨hm, hn, hlt⟩ := List.find?_range_eq_some.mp h
    exact ⟨m, rfl, (List.mem_range.mp hn).le, by simpa using hlt, fun _ => hm⟩

theorem bitLen_le_iff (x k : Nat) : bitLen x ≤ k ↔ x < 2 ^ k := by
  unfold bitLen
  split
  next h => simp [h]
  next h => rw [Nat.succ_le_iff, Nat.log2_lt h]

/-- x lies below 2 to the number of bits that do not lead with zeros, and has the highest of them set. -/
theorem clzB_spec {n : Nat} (x : BitVec n) :
    clzB x ≤ n ∧ x.toNat < 2 ^ (n - clzB x) ∧ (clzB x < n → 2 ^ (n - 1 - clzB x) ≤ x.toNat) := by
  have hn : bitLen x.toNat ≤ n := (bitLen_le_iff _ _).mpr x.isLt
  unfold clzB
  refine ⟨Nat.sub_le _ _, ?_, fun h => ?_⟩
  · rw [← bitLen_le_iff]; omega
  · rw [← Nat.not_lt, ← bitLen_le_iff]; omega

theorem popB_le {n : Nat} (x : BitVec n) : popB x ≤ n := by
  simpa [popB] using List.countP_le_length (p := fun i => x.getLsbD i) (l := List.range n)

/-- A count of bits or lanes is its own 64-bit value. -/
theorem toNat_ofNat_of_le {k : Nat} (h : k ≤ 96) : (BitVec.ofNat 64 k).toNat = k := by
  rw [BitVec.toNat_ofNat]; omega

/-- The bits of p read in rising order, each into bit 0 of the doubled number, end up in reverse. -/
theorem testBit_foldl_bits (p : Nat → Bool) (k i : Nat) :
    ((List.range k).foldl (fun a j => 2 * a + (p j).toNat) 0).testBit i = (decide (i < k) && p (k - 1 - i)) := by
  induction k generalizing i with
  | zero => simp
  | succ k ih =>
    have hbit := Nat.testBit_two_pow_mul_add (i := 1) ((List.range k).foldl (fun a j => 2 * a + (p j).toNat) 0) (p k).toNat_lt i
    rw [pow_one] at hbit
    rw [List.range_succ, List.foldl_append, List.foldl_cons, List.foldl_nil, hbit]
    cases i with
    | zero => cases hp : p k <;> simp [hp]
    | succ i => simp [ih, show k - 1 - i = k - (i + 1) by omega]

theorem getLsbD_revB {n i : Nat} (x : BitVec n) (h : i < n) : (revB x).getLsbD i = x.getLsbD (n - 1 - i) := by
  rw [revB, BitVec.getLsbD_ofNat, testBit_foldl_bits]
  simp [h]

theorem getLsbD_swapB {n k i : Nat} (x : BitVec n) (hn : n = 8 * k) (h : i < n) :
    (swapB k x).getLsbD i = x.getLsbD (8 * (k - 1 - i / 8) + i % 8) := by
  have hi : i / 8 < k := by omega
  have hr : (leBytes k x.toNat).reverse.getD (i / 8) 0 = (leBytes k x.toNat).getD (k - 1 - i / 8) 0 := by
    rw [List.getD_reverse _ (by simpa using hi), length_leBytes]
  rw [swapB, BitVec.getLsbD_ofNat, testBit_leNat, hr, getLsbD_getD_leBytes _ (by omega) (by omega)]
  simp [h, BitVec.getLsbD]

/-! ### Extensions, products and quotients -/

theorem sextNat_eq_toInt {n k : Nat} (x : BitVec n) (hk : 0 < k) : sextNat x.toNat k = (x.setWidth k).toInt := by
  obtain ⟨k, rfl⟩ := Nat.exists_eq_add_of_le' hk
  have hlt : 2 * (x.toNat % 2 ^ (k + 1)) < 2 ^ (k + 1) ↔ x.toNat % 2 ^ (k + 1) < 2 ^ k := by omega
  simp only [sextNat, BitVec.toInt_eq_toNat_cond, BitVec.toNat_setWidth, Nat.add_sub_cancel, hlt]

theorem sextLow_eq {n k : Nat} (x : BitVec n) (hk : 0 < k) : sextLow k x = (x.setWidth k).signExtend n := by
  rw [sextLow, sextNat_eq_toInt x hk, BitVec.signExtend]

theorem zextLow_eq {n : Nat} (k : Nat) (x : BitVec n) : zextLow k x = (x.setWidth k).setWidth n := by
  apply BitVec.eq_of_toNat_eq
  simp [zextLow]

theorem toInt_sext64 (i : BitVec 11) : (sext64 i).toInt = i.toInt := BitVec.toInt_signExtend_of_le (by decide)

theorem bool64_decide (p : Prop) [Decidable p] : bool64 (decide p) = if p then 1 else 0 := by
  simp [bool64]

theorem bool32_decide (p : Prop) [Decidable p] : bool32 (decide p) = if p then 1 else 0 := by
  simp [bool32]

theorem mul_eq_ofNat {n : Nat} (x y : BitVec n) : x * y = BitVec.ofNat n (x.toNat * y.toNat) := by
  apply BitVec.eq_of_toNat_eq
  simp

/-- The quotient by zero is all ones in the 32 bits, and extends to all 64 bits set. -/
theorem signExtend_sdivB (x y : W32) : (sdivB x y).signExtend 64 =
    if y = 0 then BitVec.allOnes 64 else (BitVec.ofInt 32 (x.toInt.tdiv y.toInt)).signExtend 64 := by
  unfold sdivB; split <;> rfl

theorem signExtend_udivB (x y : W32) : (udivB x y).signExtend 64 =
    if y = 0 then BitVec.allOnes 64 else (BitVec.ofNat 32 (x.toNat / y.toNat)).signExtend 64 := by
  unfold udivB; split <;> rfl

/-- Shifting an immediate in at the low end, as `lsh` does (R185). -/
theorem shiftLeft_or_setWidth {n m k : Nat} (x : BitVec n) (u : BitVec m) (hk : m ≤ k) :
    x <<< k ||| u.setWidth n = BitVec.ofNat n (x.toNat * 2 ^ k + u.toNat) := by
  have hu : u.toNat < 2 ^ k := lt_of_lt_of_le u.isLt (Nat.pow_le_pow_right (by decide) hk)
  apply BitVec.eq_of_toNat_eq
  rw [BitVec.toNat_or, BitVec.toNat_shiftLeft, BitVec.toNat_setWidth, BitVec.toNat_ofNat, Nat.shiftLeft_eq, ← Nat.or_mod_two_pow,
    Nat.mul_comm, ← Nat.two_pow_add_eq_or_of_lt hu]

/-! ### What the decoder accepts (R111, R116, R118) -/

theorem toNat_fD (w : W32) : (fD w).toNat = wordBits w 7 7 := by simp [fD, wordBits]
theorem toNat_fA (w : W32) : (fA w).toNat = wordBits w 14 7 := by simp [fA, wordBits]
theorem toNat_fB (w : W32) : (fB w).toNat = wordBits w 21 7 := by simp [fB, wordBits]

theorem refusesWords_of_ne_ok {p : W32 → Prop} (h : ∀ w i, p w → decodeWord w ≠ .ok i) : refusesWords p := by
  intro w hw
  cases hd : decodeWord w with
  | error e => exact ⟨e, rfl⟩
  | ok i => exact absurd hd (h w i hw)

section Accepts

variable {w : W32} {i : Instr} {k : Except Reject Instr} {r : Reg}

theorem zero_ok (h : zero r k = .ok i) : r.toNat = 0 ∧ k = .ok i := by
  unfold zero at h
  split at h
  next hr => exact ⟨by simp [hr], h⟩
  next => cases h

theorem triple_ok (h : triple r k = .ok i) : r.toNat ≤ 125 ∧ k = .ok i := by
  unfold triple at h
  split at h
  next hr => exact ⟨hr, h⟩
  next => cases h

theorem of_ite_ok {c : Prop} [Decidable c] {j : Instr} {e : Reject} (h : (if c then Except.ok j else .error e) = .ok i) : c := by
  by_contra hc
  simp [hc] at h

theorem dec03_ok (h : dec03 w = .ok i) : fF w ≤ 12 := by
  unfold dec03 at h
  split at h
  case h_14 => cases h
  all_goals omega

theorem dec04_ok (h : dec04 w = .ok i) : fF w ≤ 10 ∧ (fB w).toNat = 0 := by
  unfold dec04 at h
  split at h
  case h_12 => cases h
  all_goals exact ⟨by omega, (zero_ok h).1⟩

theorem dec05_ok (h : dec05 w = .ok i) : fF w = 0 := by
  unfold dec05 at h
  split at h
  next hf => exact hf
  next => cases h

theorem dec06_ok (h : dec06 w = .ok i) : fF w ≤ 6 ∧ (4 ≤ fF w → (fB w).toNat = 0) ∧ (fF w ≤ 4 → (fD w).toNat ≤ 125) ∧
    (fA w).toNat ≤ 125 ∧ (fF w ≤ 3 → (fB w).toNat ≤ 125) := by
  have threeTriples {k} (h : triple (fD w) (triple (fA w) (triple (fB w) k)) = .ok i) :
      (fD w).toNat ≤ 125 ∧ (fA w).toNat ≤ 125 ∧ (fB w).toNat ≤ 125 := by
    obtain ⟨hd, h⟩ := triple_ok h
    obtain ⟨ha, h⟩ := triple_ok h
    exact ⟨hd, ha, (triple_ok h).1⟩
  unfold dec06 at h
  split at h
  case h_5 =>
    obtain ⟨hb, h⟩ := zero_ok h
    obtain ⟨hd, h⟩ := triple_ok h
    exact ⟨by omega, fun _ => hb, fun _ => hd, (triple_ok h).1, by omega⟩
  case h_6 | h_7 =>
    obtain ⟨hb, h⟩ := zero_ok h
    exact ⟨by omega, fun _ => hb, by omega, (triple_ok h).1, by omega⟩
  case h_8 => cases h
  all_goals
    obtain ⟨hd, ha, hb⟩ := threeTriples h
    exact ⟨by omega, by omega, fun _ => hd, ha, fun _ => hb⟩

theorem decodeWord_shift_ok (ho : 0x16 ≤ wOp w ∧ wOp w ≤ 0x18) (h : decodeWord w = .ok i) : (fI w).toNat < 64 := by
  rw [wOp_eq] at ho
  obtain hop | hop | hop : fOp w = 0x16 ∨ fOp w = 0x17 ∨ fOp w = 0x18 := by omega
  · exact of_ite_ok (decodeWord_16 w hop ▸ h)
  · exact of_ite_ok (decodeWord_17 w hop ▸ h)
  · exact of_ite_ok (decodeWord_18 w hop ▸ h)

theorem decodeWord_tripleBranch_ok (ho : 0x26 ≤ wOp w ∧ wOp w ≤ 0x28) (h : decodeWord w = .ok i) :
    (fA w).toNat = 0 ∧ (fD w).toNat ≤ 125 := by
  have fields {k} (h : zero (fA w) (triple (fD w) k) = .ok i) : (fA w).toNat = 0 ∧ (fD w).toNat ≤ 125 :=
    ⟨(zero_ok h).1, (triple_ok (zero_ok h).2).1⟩
  rw [wOp_eq] at ho
  obtain hop | hop | hop : fOp w = 0x26 ∨ fOp w = 0x27 ∨ fOp w = 0x28 := by omega
  · exact fields (decodeWord_26 w hop ▸ h)
  · exact fields (decodeWord_27 w hop ▸ h)
  · exact fields (decodeWord_28 w hop ▸ h)

end Accepts

/-! ### One rule per kind of effect: the word, and the next state where the word passes -/

theorem entered_tbit_eta (s : State) (w : W32) (r : Reg) : (s.entered w).tbit r = s.tbit r :=
  funext (entered_tbit s w r)

section Rules

variable {i : Instr} {op f m : Nat} {d a b : Reg} {x : BitVec 11} {u : BitVec 18} {s : State} {v : Word} {g : State → Word}

theorem isRr_of_encode (he : encode i = encRr op f d a b) (ho : op < 128) (hf : f < 16) : isRr i op f d a b := by
  rw [isRr, he, encRr_toNat _ _ _ _ _ ho hf]

theorem isRi_of_encode (he : encode i = encRi op d a x) (ho : op < 128) (hm : x.toNat = m) : isRi i op d a m := by
  rw [isRi, he, encRi_toNat _ _ _ _ ho, hm]

/-- Where its word passes, the instruction puts v into d and goes on at the next word (R172, R173). -/
def WritesScalar (i : Instr) (s : State) (d : Reg) (v : Word) : Prop :=
  s.passes (encode i) → exec i s = .next ((s.entered (encode i)).sset d v).adv

/-- Where its word passes, the instruction goes to its target if c holds, and to the next word if not (R114). -/
def BranchesOn (i : Instr) (s : State) (x : BitVec 11) (c : Prop) : Prop := s.passes (encode i) →
  (c → exec i s = .next ((s.entered (encode i)).goto (s.th.pc + BitVec.ofInt 64 (4 * x.toInt)))) ∧
  (¬c → exec i s = .next (s.entered (encode i)).adv)

theorem exec_result (hx : exec i s = s.result (encode i) d g) (hv : g (s.entered (encode i)) = v) : WritesScalar i s d v :=
  fun hp => by rw [hx, result_gives hp hv]

/-- A scalar result told by what it satisfies. -/
theorem exec_result_spec {p : Word → Prop} (hx : exec i s = s.result (encode i) d g) (hv : p (g (s.entered (encode i))))
    (hp : s.passes (encode i)) : ∃ v, exec i s = .next ((s.entered (encode i)).sset d v).adv ∧ p v :=
  ⟨_, exec_result hx rfl hp, hv⟩

/-- A 64-bit operation on two registers (R178, R180). -/
theorem binary_gives (g : Word → Word → Word) (hx : exec i s = s.result (encode i) d fun s => g (s.sget a) (s.sget b))
    (hv : g (s.sget a) (s.sget b) = v) (he : encode i = encRr op f d a b := by rfl) (ho : op < 128 := by decide)
    (hf : f < 16 := by decide) : isRr i op f d a b ∧ WritesScalar i s d v :=
  ⟨isRr_of_encode he ho hf, exec_result hx (by simpa using hv)⟩

/-- A 32-bit operation on the low halves of two registers (R179, R180). -/
theorem binaryW_gives {g : W32 → W32 → W32} (hx : exec i s = s.resultW (encode i) d a b g)
    (hv : (g ((s.sget a).setWidth 32) ((s.sget b).setWidth 32)).signExtend 64 = v) (he : encode i = encRr op f d a b := by rfl)
    (ho : op < 128 := by decide) (hf : f < 16 := by decide) : isRr i op f d a b ∧ WritesScalar i s d v :=
  ⟨isRr_of_encode he ho hf, exec_result hx (by simpa [State.sget32, sext64] using hv)⟩

/-- An operation on one register whose B field is zero, its result told by what it satisfies (R181). -/
theorem unary_gives {p : Word → Prop} (g : Word → Word) (hx : exec i s = s.result (encode i) d fun s => g (s.sget a))
    (hv : p (g (s.sget a))) (he : encode i = encRr op f d a 0 := by rfl) (ho : op < 128 := by decide) (hf : f < 16 := by decide) :
    isRr i op f d a 0 ∧ (s.passes (encode i) → ∃ v, exec i s = .next ((s.entered (encode i)).sset d v).adv ∧ p v) :=
  ⟨isRr_of_encode he ho hf, exec_result_spec hx (by simpa using hv)⟩

/-- An operation on two triples, lane by lane from the lanes at issue; `mnot3` has only the first (R183). -/
theorem lanewise_sets {b' : Reg} (g : Bool → Bool → Bool)
    (hx : exec i s = s.resultT (encode i) d fun s j => g (s.tbit a j) (s.tbit b j))
    (he : encode i = encRr 6 f d a b' := by rfl) (hf : f < 16 := by decide) : isRr i 6 f d a b' ∧
      (s.passes (encode i) → exec i s = .next ((s.entered (encode i)).tset d fun j => g (s.tbit a j) (s.tbit b j)).adv) :=
  ⟨isRr_of_encode he (by decide) hf, fun hp => by rw [hx, resultT_passes hp]; simp only [entered_tbit]⟩

/-- An operation on a register and an immediate m, held in the word's eleven bits (R184). -/
theorem immediate_gives (g : Word → Word) (hx : exec i s = s.result (encode i) d fun s => g (s.sget a)) (hv : g (s.sget a) = v)
    (he : encode i = encRi op d a x := by rfl) (hm : x.toNat = m := by rfl) (ho : op < 128 := by decide) :
    isRi i op d a m ∧ WritesScalar i s d v :=
  ⟨isRi_of_encode he ho hm, exec_result hx (by simpa using hv)⟩

/-- A constant in eighteen bits (R185). -/
theorem wide_gives (hx : exec i s = s.result (encode i) d g) (hv : g (s.entered (encode i)) = v)
    (he : encode i = encRu op d u := by rfl) (ho : op < 128 := by decide) :
    (encode i).toNat = op + 2 ^ 7 * d.toNat + 2 ^ 14 * u.toNat ∧ WritesScalar i s d v :=
  ⟨by rw [he, encRu_toNat _ _ _ ho], exec_result hx hv⟩

theorem exec_branch {g : State → Bool} {c : Prop} (hx : exec i s = s.branch (encode i) x g)
    (hc : g (s.entered (encode i)) = true ↔ c) : BranchesOn i s x c := by
  intro hp
  rw [hx, branch_passes hp, target_eq]
  exact ⟨fun h => by rw [if_pos (hc.mpr h)], fun h => by rw [if_neg (hc.not.mpr h)]⟩

/-- A branch on two registers (R186). -/
theorem compare_branches {c : Prop} (r : Word → Word → Bool) (hx : exec i s = s.branch (encode i) x fun s => r (s.sget a) (s.sget b))
    (hc : r (s.sget a) (s.sget b) = true ↔ c) (he : encode i = encBr op a b x := by rfl) (ho : op < 128 := by decide) :
    isRi i op a b x.toNat ∧ BranchesOn i s x c :=
  ⟨isRi_of_encode he ho rfl, exec_branch hx (by simpa using hc)⟩

/-- A branch on a triple (R187). -/
theorem triple_branches {c : Prop} (r : (Nat → Bool) → Bool) (hx : exec i s = s.branch (encode i) x fun s => r (s.tbit a))
    (hc : r (s.tbit a) = true ↔ c) (he : encode i = encBr op a 0 x := by rfl) (ho : op < 128 := by decide) :
    isRi i op a 0 x.toNat ∧ BranchesOn i s x c :=
  ⟨isRi_of_encode he ho rfl, exec_branch hx (by simpa [entered_tbit_eta] using hc)⟩

end Rules

/-! ### The statements -/

/-- Settles O2: each of the sixteen is a 64-bit operation on two registers, and the model's shifts, extrema and comparisons are those
of the integers. -/
theorem scalarIntegerResults : Obligations.ScalarIntegerResults := by
  intro d a b s
  exact ⟨binary_gives (· + ·) (exec_add d a b s) rfl,
    binary_gives (· - ·) (exec_sub d a b s) rfl,
    binary_gives (· &&& ·) (exec_and d a b s) rfl,
    binary_gives (· ||| ·) (exec_or d a b s) rfl,
    binary_gives (· ^^^ ·) (exec_xor d a b s) rfl,
    binary_gives (fun x y => x &&& ~~~y) (exec_andn d a b s) rfl,
    binary_gives (fun x y => x <<< (y.toNat % 64)) (exec_sll d a b s) (shiftLeft_ofNat _ _),
    binary_gives (fun x y => x >>> (y.toNat % 64)) (exec_srl d a b s) (shiftRight_ofNat _ _),
    binary_gives (fun x y => x.sshiftRight (y.toNat % 64)) (exec_sra d a b s) (sshiftRight_ofInt _ _),
    binary_gives sminB (exec_min d a b s) (sminB_eq _ _),
    binary_gives smaxB (exec_max d a b s) (smaxB_eq _ _),
    binary_gives uminB (exec_minu d a b s) (uminB_eq _ _),
    binary_gives umaxB (exec_maxu d a b s) (umaxB_eq _ _),
    binary_gives (fun x y => bool64 (x.slt y)) (exec_slt d a b s) (bool64_decide _),
    binary_gives (fun x y => bool64 (x.ult y)) (exec_sltu d a b s) (bool64_decide _),
    binary_gives (fun x y => bool64 (decide (x = y))) (exec_seq d a b s) (bool64_decide _)⟩

/-- Settles O3: the same operations on the low halves, whose result is sign-extended. -/
theorem scalarWordResults : Obligations.ScalarWordResults := by
  intro d a b s
  exact ⟨binaryW_gives (exec_addW d a b s) rfl,
    binaryW_gives (exec_subW d a b s) rfl,
    binaryW_gives (exec_andW d a b s) rfl,
    binaryW_gives (exec_orW d a b s) rfl,
    binaryW_gives (exec_xorW d a b s) rfl,
    binaryW_gives (exec_andnW d a b s) rfl,
    binaryW_gives (exec_sllW d a b s) (congrArg _ (shiftLeft_ofNat _ _)),
    binaryW_gives (exec_srlW d a b s) (congrArg _ (shiftRight_ofNat _ _)),
    binaryW_gives (exec_sraW d a b s) (congrArg _ (sshiftRight_ofInt _ _)),
    binaryW_gives (exec_minW d a b s) (congrArg _ (sminB_eq _ _)),
    binaryW_gives (exec_maxW d a b s) (congrArg _ (smaxB_eq _ _)),
    binaryW_gives (exec_minuW d a b s) (congrArg _ (uminB_eq _ _)),
    binaryW_gives (exec_maxuW d a b s) (congrArg _ (umaxB_eq _ _)),
    binaryW_gives (exec_sltW d a b s) (congrArg _ (bool32_decide _)),
    binaryW_gives (exec_sltuW d a b s) (congrArg _ (bool32_decide _)),
    binaryW_gives (exec_seqW d a b s) (congrArg _ (bool32_decide _))⟩

/-- Settles O4: the model's quotients and remainders state the divisor 0 themselves, and overflow wraps in `BitVec.ofInt`. -/
theorem multiplyDivideResults : Obligations.MultiplyDivideResults := by
  intro d a b s
  refine ⟨binary_gives (· * ·) (exec_mul d a b s) (mul_eq_ofNat _ _),
    binary_gives (fun x y => BitVec.ofInt 64 (x.toInt * y.toInt / 2 ^ 64)) (exec_mulh d a b s) rfl,
    binary_gives (fun x y => BitVec.ofNat 64 (x.toNat * y.toNat / 2 ^ 64)) (exec_mulhu d a b s) rfl,
    binary_gives (fun x y => BitVec.ofInt 64 (x.toInt * (y.toNat : Int) / 2 ^ 64)) (exec_mulhm d a b s) rfl,
    binary_gives sdivB (exec_div d a b s) rfl,
    binary_gives udivB (exec_divu d a b s) rfl,
    binary_gives sremB (exec_rem d a b s) rfl,
    binary_gives uremB (exec_remu d a b s) rfl,
    binaryW_gives (exec_mulW d a b s) rfl,
    binaryW_gives (exec_divW d a b s) (signExtend_sdivB _ _),
    binaryW_gives (exec_divuW d a b s) (signExtend_udivB _ _),
    binaryW_gives (exec_remW d a b s) (apply_ite _ _ _ _),
    binaryW_gives (exec_remuW d a b s) (apply_ite _ _ _ _), ?refused⟩
  case refused =>
    refine refusesWords_of_ne_ok fun w i ⟨ho, hf⟩ hd => ?_
    exact absurd (dec03_ok (decodeWord_03 w ho ▸ hd)) (Nat.not_le.mpr hf)

/-- Settles O5: the counts by the least power of 2 above x and by the first set bit, the two reversals bit by bit. -/
theorem bitAndSelectResults : Obligations.BitAndSelectResults := by
  intro d a b s
  refine ⟨unary_gives (fun x => BitVec.ofNat 64 (clzB x)) (exec_clz d a s) ?clz,
    unary_gives (fun x => BitVec.ofNat 64 (ctzB x)) (exec_ctz d a s) ?ctz,
    unary_gives (fun x => BitVec.ofNat 64 (popB x)) (exec_popc d a s) ?popc,
    unary_gives (swapB 8) (exec_bswap d a s) fun i hi => getLsbD_swapB _ rfl hi,
    unary_gives revB (exec_brev d a s) fun i hi => getLsbD_revB _ hi,
    unary_gives (sextLow 8) (exec_sextb d a s) (sextLow_eq _ (by decide)),
    unary_gives (sextLow 16) (exec_sexth d a s) (sextLow_eq _ (by decide)),
    unary_gives (sextLow 32) (exec_sextw d a s) (sextLow_eq _ (by decide)),
    unary_gives (zextLow 8) (exec_zextb d a s) (zextLow_eq _ _),
    unary_gives (zextLow 16) (exec_zexth d a s) (zextLow_eq _ _),
    unary_gives (zextLow 32) (exec_zextw d a s) (zextLow_eq _ _),
    isRr_of_encode rfl (by decide) (by decide), exec_result_spec (exec_csel d a b s) (by simp), ?refused, ?refusedSel⟩
  case clz =>
    have h := clzB_spec (s.sget a)
    rwa [toNat_ofNat_of_le (by omega)]
  case ctz =>
    obtain ⟨m, hm, hle, hlow, hset⟩ := find_range_spec 64 fun i => (s.sget a).getLsbD i
    rw [ctzB, hm, toNat_ofNat_of_le (by omega)]
    exact ⟨hle, hlow, hset⟩
  case popc => exact toNat_ofNat_of_le ((popB_le _).trans (by decide))
  case refused =>
    refine refusesWords_of_ne_ok fun w i ⟨ho, h⟩ hd => ?_
    have hok := dec04_ok (decodeWord_04 w ho ▸ hd)
    rw [← toNat_fB, wF_eq] at h
    omega
  case refusedSel =>
    refine refusesWords_of_ne_ok fun w i ⟨ho, h⟩ hd => ?_
    have hok := dec05_ok (decodeWord_05 w ho ▸ hd)
    rw [wF_eq] at h
    omega

/-- Settles O6: entering leaves the triples as they stood at issue, so every lane is computed from those. -/
theorem tripleResults : Obligations.TripleResults := by
  intro d a b s
  refine ⟨lanewise_sets (· && ·) (exec_mand3 d a b s),
    lanewise_sets (· || ·) (exec_mor3 d a b s),
    lanewise_sets (fun x y => x && !y) (exec_mandn3 d a b s),
    lanewise_sets (· != ·) (exec_mxor3 d a b s),
    lanewise_sets (b := b) (fun x _ => !x) (exec_mnot3 d a s),
    exec_result (exec_mcnt3 d a s) ?count, ?first,
    isRr_of_encode rfl (by decide) (by decide), isRr_of_encode rfl (by decide) (by decide), ?refused⟩
  case count => simp only [entered_tbit_eta, lanes]
  case first =>
    intro hp
    obtain ⟨n, hn, hle, hlow, hset⟩ := find_range_spec 96 (s.tbit a)
    refine ⟨n, hle, exec_result (exec_mfirst3 d a s) ?_ hp, hlow, hset⟩
    simp only [entered_tbit_eta, lanes, hn]
  case refused =>
    refine refusesWords_of_ne_ok fun w i ⟨ho, h⟩ hd => ?_
    have hok := dec06_ok (decodeWord_06 w ho ▸ hd)
    simp only [← toNat_fD, ← toNat_fA, ← toNat_fB, wF_eq] at h
    omega

/-- Settles O7: a shift immediate keeps its value in the eleven bits, and a word with a larger one has bit 27 or a higher bit set. -/
theorem immediateResults : Obligations.ImmediateResults := by
  intro d a i k u s
  have hk : (k.setWidth 11).toNat = k.toNat := BitVec.toNat_setWidth_of_le (by decide)
  refine ⟨immediate_gives (· + sext64 i) (exec_addi d a i s) rfl,
    immediate_gives (· &&& zext64 i) (exec_andi d a i s) rfl,
    immediate_gives (· ||| zext64 i) (exec_ori d a i s) rfl,
    immediate_gives (· ^^^ zext64 i) (exec_xori d a i s) rfl,
    immediate_gives (fun x => bool64 (x.slt (sext64 i))) (exec_slti d a i s) ?slti,
    immediate_gives (fun x => bool64 (x.ult (sext64 i))) (exec_sltiu d a i s) (bool64_decide _),
    immediate_gives (· <<< k.toNat) (exec_slli d a k s) (shiftLeft_ofNat _ _) rfl hk,
    immediate_gives (· >>> k.toNat) (exec_srli d a k s) (shiftRight_ofNat _ _) rfl hk,
    immediate_gives (·.sshiftRight k.toNat) (exec_srai d a k s) (sshiftRight_ofInt _ _) rfl hk,
    immediate_gives (fun x => sext64 (x.setWidth 32 + i.signExtend 32)) (exec_addiW d a i s) rfl,
    wide_gives (exec_ldi d u s) rfl,
    wide_gives (exec_lsh d u s) ?lsh,
    wide_gives (exec_pcadd d u s) ?pcadd, ?refused⟩
  case slti => rw [BitVec.slt, bool64_decide, toInt_sext64]
  case lsh => rw [entered_sget, zext64, shiftLeft_or_setWidth _ _ le_rfl]
  case pcadd => rw [entered_pc]; exact target_eq _ _
  case refused =>
    refine refusesWords_of_ne_ok fun w j ⟨hlo, hhi, h⟩ hd => ?_
    have hi := decodeWord_shift_ok ⟨hlo, hhi⟩ hd
    have hw := w.isLt
    simp only [fI, BitVec.toNat_ofNat] at hi
    omega

/-- Settles O8: each condition on two registers is the comparison of their numbers, each on a triple a search of its 96 lanes. -/
theorem branchOutcomes : Obligations.BranchOutcomes := by
  intro a b x s
  refine ⟨compare_branches (fun v w => decide (v = w)) (exec_beq a b x s) decide_eq_true_iff,
    compare_branches (fun v w => decide (v ≠ w)) (exec_bne a b x s) decide_eq_true_iff,
    compare_branches BitVec.slt (exec_blt a b x s) BitVec.slt_iff_toInt_lt,
    compare_branches (fun v w => !v.slt w) (exec_bge a b x s) ?bge,
    compare_branches BitVec.ult (exec_bltu a b x s) BitVec.ult_iff_toNat_lt,
    compare_branches (fun v w => !v.ult w) (exec_bgeu a b x s) ?bgeu,
    triple_branches (fun m => lanes.all fun j => !m j) (exec_bnone a x s) ?bnone,
    triple_branches lanes.any (exec_bany a x s) ?bany,
    triple_branches lanes.all (exec_ball a x s) ?ball, ?refused⟩
  case bge => simp [BitVec.slt]
  case bgeu => simp [BitVec.ult]
  case bnone | bany | ball => simp [lanes]
  case refused =>
    refine refusesWords_of_ne_ok fun w i ⟨hlo, hhi, h⟩ hd => ?_
    have hok := decodeWord_tripleBranch_ok ⟨hlo, hhi⟩ hd
    rw [← toNat_fA, ← toNat_fD] at h
    omega

end Sys2Proof.Machine

/-! SUPPORT. Proofs of the vector instructions (spec/09_wave_vector.md): what the decoder accepts in their majors, one rule per kind of
effect, the numbers their elements are told by, and the statements. -/

namespace Sys2Proof.Machine

open Sys2Proof

/-! ### What the decoder accepts in the vector majors (R111, R116, R118) -/

section VectorAccepts

variable {w : W32} {i : Instr}

theorem dec42_ok (h : dec42 w = .ok i) : fF w ≤ 10 ∧ (fB w).toNat = 0 := by
  unfold dec42 at h
  split at h
  case h_12 => cases h
  all_goals exact ⟨by omega, (zero_ok h).1⟩

theorem dec43_ok (h : dec43 w = .ok i) : fF w ≤ 3 := by
  unfold dec43 at h
  split at h
  case h_5 => cases h
  all_goals omega

theorem dec44_ok (h : dec44 w = .ok i) : fF w ≤ 5 ∧ (fD w).toNat ≤ 125 := by
  unfold dec44 at h
  split at h
  case h_7 => cases h
  all_goals exact ⟨by omega, (triple_ok h).1⟩

theorem dec45_ok (h : dec45 w = .ok i) : fF w ≤ 5 ∧ (fD w).toNat ≤ 125 := by
  unfold dec45 at h
  split at h
  case h_7 => cases h
  all_goals exact ⟨by omega, (triple_ok h).1⟩

theorem dec48_ok (h : dec48 w = .ok i) : fF w ≤ 7 := by
  unfold dec48 at h
  split at h
  case h_9 => cases h
  all_goals omega

theorem dec4A_ok (h : dec4A w = .ok i) : fF w ≤ 3 ∧ (fD w).toNat ≤ 125 := by
  unfold dec4A at h
  split at h
  case h_5 => cases h
  all_goals exact ⟨by omega, (triple_ok h).1⟩

theorem dec4B_ok (h : dec4B w = .ok i) : fF w ≤ 3 ∧ (fD w).toNat ≤ 125 := by
  unfold dec4B at h
  split at h
  case h_5 => cases h
  all_goals exact ⟨by omega, (triple_ok h).1⟩

theorem dec50_ok (h : dec50 w = .ok i) : fF w ≤ 5 ∧ (fF w = 3 → (fD w).toNat ≤ 125) ∧ (fF w = 4 → (fB w).toNat = 0) := by
  unfold dec50 at h
  split at h
  case h_4 => exact ⟨by omega, fun _ => (triple_ok h).1, by omega⟩
  case h_5 => exact ⟨by omega, by omega, fun _ => (zero_ok h).1⟩
  case h_7 => cases h
  all_goals exact ⟨by omega, by omega, by omega⟩

theorem dec51_ok (h : dec51 w = .ok i) : fF w = 0 ∧ (fB w).toNat = 0 := by
  unfold dec51 at h
  split at h
  next hf => exact ⟨hf, (zero_ok h).1⟩
  next => cases h

end VectorAccepts

/-! ### One rule per kind of vector effect: the word, and the next state where the word passes -/

section VectorRules

variable {i k : Instr} {op f : Nat} {d a b : Reg} {s : State} {e : Nat → W32} {m : Nat → Bool}

/-- Where its word passes, the instruction puts the elements e into the active lanes of d and goes on at the next word (R172, R198). -/
def WritesVector (i : Instr) (s : State) (d : Reg) (e : Nat → W32) : Prop :=
  s.passes (encode i) → exec i s = .next ((s.entered (encode i)).vset d e).adv

/-- Where its word passes, the instruction writes the active lanes' bits of m to the triple d, the other lanes' as 0, and goes on at the
next word (R172, R198). -/
def SetsLanes (i : Instr) (s : State) (d : Reg) (m : Nat → Bool) : Prop :=
  s.passes (encode i) → exec i s = .next ((s.entered (encode i)).tset d fun j => s.active j && m j).adv

theorem exec_vector {g : State → Nat → W32} (hx : exec i s = s.resultV (encode i) d g)
    (he : g (s.entered (encode i)) = e) : WritesVector i s d e :=
  fun hp => by rw [hx, resultV_passes hp, he]

theorem exec_lanes {g : State → Nat → Bool} (hx : exec i s = s.cmpV (encode i) d g)
    (hm : g (s.entered (encode i)) = m) : SetsLanes i s d m :=
  fun hp => by simp only [hx, State.cmpV, resultT_passes hp, entered_active, hm]

end VectorRules

/-! ### Results with flags (R201) -/

@[simp] theorem entered_rm (s : State) (w : W32) : (s.entered w).rm = s.rm := by
  rw [entered_eq]; rfl
@[simp] theorem entered_ftz (s : State) (w : W32) : (s.entered w).ftz = s.ftz := by
  rw [entered_eq]; rfl
@[simp] theorem entered_fin (s : State) (w : W32) (x : W32) : (s.entered w).fin x = s.fin x := by
  rw [State.fin, entered_ftz]; rfl
@[simp] theorem entered_opB (s : State) (w : W32) (sc : Bool) (b : Reg) (j : Nat) : (s.entered w).opB sc b j = s.opB sc b j := by
  simp [State.opB]

theorem flag_th (s : State) (n : Nat) : (s.flag n).th = { s.th with fstat := s.th.fstat ||| BitVec.ofNat 5 n } := by
  unfold State.flag State.logArith
  dsimp only
  split <;> rfl

@[simp] theorem flag_icount (s : State) (n : Nat) : (s.flag n).th.icount = s.th.icount := by rw [flag_th]

section FlaggedRules

variable {i : Instr} {d : Reg} {s : State}

theorem exec_flagged {g : State → Nat → Nat × Nat} {e : Nat → Nat × Nat} (hx : exec i s = s.resultF (encode i) d g)
    (he : g (s.entered (encode i)) = e) (hp : s.passes (encode i)) : exec i s = .next (((s.entered (encode i)).vset d fun j =>
      BitVec.ofNat 32 (e j).1).flag ((s.activeLanes.map fun j => (e j).2).foldl (· ||| ·) 0)).adv := by
  rw [hx, State.resultF, guarded_passes hp (.inr (completes_adv (by simp))), he, entered_activeLanes]
  rfl

theorem exec_flaggedLanes {g : State → Nat → Bool × Nat} {e : Nat → Bool × Nat} (hx : exec i s = s.cmpF (encode i) d g)
    (he : g (s.entered (encode i)) = e) (hp : s.passes (encode i)) : exec i s = .next (((s.entered (encode i)).tset d fun j =>
      s.active j && (e j).1).flag ((s.activeLanes.map fun j => (e j).2).foldl (· ||| ·) 0)).adv := by
  rw [hx, State.cmpF, guarded_passes hp (.inr (completes_adv (by simp))), he, entered_activeLanes]
  simp only [entered_active]
  rfl

end FlaggedRules

/-! ### The integer operations (R203 to R206) -/

/-- Settles O13: each pair of the two majors is one operation on 32-bit elements, and the model's shifts and extrema are those of the
integers. -/
theorem vectorIntegerResults : Obligations.VectorIntegerResults := by
  intro d a b s gives both
  have both_of {i k : Instr} {c : Nat} {r g : W32 → W32 → W32} (hi : exec i s = s.vecVV (encode i) d a b g)
      (hk : exec k s = s.vecVS (encode k) d a b g) (hr : ∀ x y, g x y = r x y) (hei : encode i = encRr 0x40 c d a b := by rfl)
      (hek : encode k = encRr 0x41 c d a b := by rfl) (hc : c < 16 := by decide) : both i k c r :=
    ⟨isRr_of_encode hei (by decide) hc, isRr_of_encode hek (by decide) hc, exec_vector hi (by simp [hr]),
      exec_vector hk (by simp [hr, State.sget32])⟩
  clear_value both
  exact ⟨both_of (exec_vadd d a b s) (exec_vaddS d a b s) fun _ _ => rfl,
    both_of (exec_vsub d a b s) (exec_vsubS d a b s) fun _ _ => rfl,
    both_of (exec_vmul d a b s) (exec_vmulS d a b s) mul_eq_ofNat,
    both_of (exec_vmulh d a b s) (exec_vmulhS d a b s) fun _ _ => rfl,
    both_of (exec_vmulhu d a b s) (exec_vmulhuS d a b s) fun _ _ => rfl,
    both_of (exec_vand d a b s) (exec_vandS d a b s) fun _ _ => rfl,
    both_of (exec_vor d a b s) (exec_vorS d a b s) fun _ _ => rfl,
    both_of (exec_vxor d a b s) (exec_vxorS d a b s) fun _ _ => rfl,
    both_of (exec_vsll d a b s) (exec_vsllS d a b s) fun _ _ => shiftLeft_ofNat _ _,
    both_of (exec_vsrl d a b s) (exec_vsrlS d a b s) fun _ _ => shiftRight_ofNat _ _,
    both_of (exec_vsra d a b s) (exec_vsraS d a b s) fun _ _ => sshiftRight_ofInt _ _,
    both_of (exec_vmin d a b s) (exec_vminS d a b s) sminB_eq,
    both_of (exec_vmax d a b s) (exec_vmaxS d a b s) smaxB_eq,
    both_of (exec_vminu d a b s) (exec_vminuS d a b s) uminB_eq,
    both_of (exec_vmaxu d a b s) (exec_vmaxuS d a b s) umaxB_eq,
    both_of (exec_vandn d a b s) (exec_vandnS d a b s) fun _ _ => rfl⟩

/-- The magnitude of the least number wraps to that number (R204). -/
theorem neg_if_msb_eq_ofInt_abs (x : W32) : (if x.msb then -x else x) = BitVec.ofInt 32 |x.toInt| := by
  split
  next h => rw [abs_of_neg (by simpa [BitVec.msb_eq_toInt] using h), BitVec.ofInt_neg, BitVec.ofInt_toInt]
  next h => rw [abs_of_nonneg (by simpa [BitVec.msb_eq_toInt] using h), BitVec.ofInt_toInt]

theorem zero_sub_eq_ofInt_neg (x : W32) : 0 - x = BitVec.ofInt 32 (-x.toInt) := by
  rw [BitVec.ofInt_neg, BitVec.ofInt_toInt]
  exact BitVec.zero_sub x

theorem add_mul_eq_ofNat (z x y : W32) : z + x * y = BitVec.ofNat 32 (z.toNat + x.toNat * y.toNat) := by
  rw [BitVec.ofNat_add, ← mul_eq_ofNat, BitVec.ofNat_toNat, BitVec.setWidth_eq]

theorem sub_mul_eq_ofInt (z x y : W32) : z - x * y = BitVec.ofInt 32 ((z.toNat : Int) - (x.toNat * y.toNat : Nat)) := by
  rw [Int.sub_eq_add_neg, BitVec.ofInt_add, BitVec.ofInt_neg, BitVec.ofInt_natCast, BitVec.ofInt_natCast, ← mul_eq_ofNat,
    BitVec.ofNat_toNat, BitVec.setWidth_eq, BitVec.sub_eq_add_neg]

theorem toNat_sget32 (s : State) (b : Reg) : (s.sget32 b).toNat = (s.sget b).toNat % 2 ^ 32 := BitVec.toNat_setWidth ..

/-- Settles O14: the counts and reversals satisfy what R181 says of them, in 32 bits; the other results are those of the integers. -/
theorem vectorUnaryAndMultiplyAccumulate : Obligations.VectorUnaryAndMultiplyAccumulate := by
  intro d a b s gives unary sums z m ms
  have unary_of {i : Instr} {c : Nat} {p : W32 → W32 → Prop} (g : W32 → W32)
      (hx : exec i s = s.resultV (encode i) d fun s j => g (s.elem a j)) (hp : ∀ x, p x (g x))
      (he : encode i = encRr 0x42 c d a 0 := by rfl) (hc : c < 16 := by decide) : unary i c p :=
    ⟨isRr_of_encode he (by decide) hc, g, hp, exec_vector hx (by simp)⟩
  have sums_of {i : Instr} {c : Nat} {e : Nat → W32} {g : State → Nat → W32} (hx : exec i s = s.resultV (encode i) d g)
      (hg : g (s.entered (encode i)) = e) (he : encode i = encRr 0x43 c d a b := by rfl) (hc : c < 16 := by decide) : sums i c e :=
    ⟨isRr_of_encode he (by decide) hc, exec_vector hx hg⟩
  clear_value unary sums
  refine ⟨unary_of (fun x => if x.msb then -x else x) (exec_vabs d a s) neg_if_msb_eq_ofInt_abs,
    unary_of (0 - ·) (exec_vneg d a s) zero_sub_eq_ofInt_neg,
    unary_of (fun x => BitVec.ofNat 32 (clzB x)) (exec_vclz d a s) ?clz,
    unary_of (fun x => BitVec.ofNat 32 (popB x)) (exec_vpopc d a s) ?popc,
    unary_of revB (exec_vbrev d a s) fun x i hi => getLsbD_revB x hi,
    unary_of (swapB 4) (exec_vbswap d a s) fun x i hi => getLsbD_swapB x rfl hi,
    unary_of (sextLow 8) (exec_vsextb d a s) fun x => sextLow_eq x (by decide),
    unary_of (sextLow 16) (exec_vsexth d a s) fun x => sextLow_eq x (by decide),
    unary_of (zextLow 8) (exec_vzextb d a s) (zextLow_eq 8),
    unary_of (zextLow 16) (exec_vzexth d a s) (zextLow_eq 16),
    unary_of (~~~·) (exec_vnot d a s) fun _ => rfl,
    sums_of (exec_vmad d a b s) ?mad,
    sums_of (exec_vmsb d a b s) ?msb,
    sums_of (exec_vmadS d a b s) ?madS,
    sums_of (exec_vmsbS d a b s) ?msbS, ?refused, ?refusedSum⟩
  case clz =>
    intro x
    obtain ⟨hle, hlt, hge⟩ := clzB_spec x
    have hn : (BitVec.ofNat 32 (clzB x)).toNat = clzB x := by rw [BitVec.toNat_ofNat]; omega
    rw [hn]
    exact ⟨hle, hlt, hge⟩
  case popc =>
    intro x
    have hle := popB_le x
    rw [BitVec.toNat_ofNat, Nat.mod_eq_of_lt (by omega), popB]
  case mad => simp only [z, m, entered_elem, add_mul_eq_ofNat]
  case msb => simp only [z, m, entered_elem, sub_mul_eq_ofInt]
  case madS => simp only [z, ms, entered_elem, entered_sget32, add_mul_eq_ofNat, toNat_sget32]
  case msbS => simp only [z, ms, entered_elem, entered_sget32, sub_mul_eq_ofInt, toNat_sget32]
  case refused =>
    refine refusesWords_of_ne_ok fun w i ⟨ho, h⟩ hd => ?_
    have hok := dec42_ok (decodeWord_42 w ho ▸ hd)
    rw [← toNat_fB, wF_eq] at h
    omega
  case refusedSum =>
    refine refusesWords_of_ne_ok fun w i ⟨ho, hf⟩ hd => ?_
    exact absurd (dec43_ok (decodeWord_43 w ho ▸ hd)) (Nat.not_le.mpr hf)

/-- Settles O15: each pair of the two majors is one comparison of 32-bit elements. -/
theorem vectorCompareResults : Obligations.VectorCompareResults := by
  intro d a b s sets both
  have both_of {i k : Instr} {c : Nat} {r g : W32 → W32 → Bool} (hi : exec i s = s.cmpV (encode i) d fun s j => g (s.elem a j) (s.elem b j))
      (hk : exec k s = s.cmpV (encode k) d fun s j => g (s.elem a j) (s.sget32 b)) (hr : ∀ x y, g x y = r x y)
      (hei : encode i = encRr 0x44 c d a b := by rfl) (hek : encode k = encRr 0x45 c d a b := by rfl) (hc : c < 16 := by decide) :
      both i k c r :=
    ⟨isRr_of_encode hei (by decide) hc, isRr_of_encode hek (by decide) hc, exec_lanes hi (by simp [hr]),
      exec_lanes hk (by simp [hr, State.sget32])⟩
  clear_value both
  refine ⟨both_of (g := fun x y => decide (x = y)) (exec_vcmpEq d a b s) (exec_vcmpEqS d a b s) fun _ _ => rfl,
    both_of (g := fun x y => decide (x ≠ y)) (exec_vcmpNe d a b s) (exec_vcmpNeS d a b s) fun _ _ => rfl,
    both_of (g := BitVec.slt) (exec_vcmpLt d a b s) (exec_vcmpLtS d a b s) fun _ _ => rfl,
    both_of (g := BitVec.sle) (exec_vcmpLe d a b s) (exec_vcmpLeS d a b s) fun _ _ => rfl,
    both_of (g := BitVec.ult) (exec_vcmpLtu d a b s) (exec_vcmpLtuS d a b s) fun _ _ => rfl,
    both_of (g := BitVec.ule) (exec_vcmpLeu d a b s) (exec_vcmpLeuS d a b s) fun _ _ => rfl, ?refused⟩
  case refused =>
    refine refusesWords_of_ne_ok fun w i ⟨ho, h⟩ hd => ?_
    have hok : fF w ≤ 5 ∧ (fD w).toNat ≤ 125 := ho.elim (fun ho => dec44_ok (decodeWord_44 w ho ▸ hd))
      fun ho => dec45_ok (decodeWord_45 w ho ▸ hd)
    rw [← toNat_fD, wF_eq] at h
    omega

/-! ### Hashing, partitioning, byte strings and the histogram (R217, R218) -/

/-- One bit of CRC-32C: the polynomial goes in where a 1 goes out (R217). -/
def crcStep (c : W32) : W32 := (c >>> (1 : Nat)) ^^^ (if c.getLsbD 0 then 0x82F63B78 else 0)

theorem crcBits_eq_iterate (c : W32) (n : Nat) : crcBits c n = crcStep^[n] c := by
  induction n generalizing c with
  | zero => rfl
  | succ n ih =>
    rw [crcBits, ih, Function.iterate_succ_apply]
    congr 1
    unfold crcStep
    split <;> simp

/-- A byte goes through the CRC in eight steps. -/
theorem crcByte_eq_foldl (c : W32) (v : Nat) :
    crcByte c v = (List.range 8).foldl (fun c _ => crcStep c) (c ^^^ BitVec.ofNat 32 (v % 256)) := by
  rw [crcByte, crcBits_eq_iterate, List.foldl_const, List.length_range]

/-- The bytes of an element go through the CRC in rising order (R217). -/
theorem crc32c_eq_foldl (c x : W32) : crc32c c x = (List.range 4).foldl
    (fun c i => (List.range 8).foldl (fun c _ => crcStep c) (c ^^^ BitVec.ofNat 32 (byteOf x i))) c := by
  have hlow : byteOf x 0 = x.toNat % 256 := by simp [byteOf]
  rw [show List.range 4 = [0, 1, 2, 3] from rfl]
  simp only [crc32c, crcByte_eq_foldl, List.foldl_cons, List.foldl_nil, hlow]
  rfl

theorem toNat_top32 (x : W32) {k : Nat} :
    (top32 x k).toNat = if k = 0 then 0 else if 32 ≤ k then x.toNat else x.toNat / 2 ^ (32 - k) := by
  unfold top32
  split
  · rfl
  · split
    · rfl
    · rw [BitVec.toNat_ushiftRight, Nat.shiftRight_eq_div_pow]

/-- n is the first of the four bytes of an element at which p holds, or 4 where there is none (R217). -/
def FirstByte (n : Nat) (p : Nat → Prop) : Prop := (∀ i < n, ¬p i) ∧ (n < 4 → p n) ∧ n ≤ 4

theorem FirstByte.unique {n m : Nat} {p : Nat → Prop} (hn : FirstByte n p) (hm : FirstByte m p) : n = m := by
  obtain ⟨hnlow, hnhit, hnle⟩ := hn
  obtain ⟨hmlow, hmhit, hmle⟩ := hm
  rcases lt_trichotomy n m with h | h | h
  · exact absurd (hnhit (by omega)) (hmlow n h)
  · exact h
  · exact absurd (hmhit (by omega)) (hnlow m h)

/-- The model's search for a byte finds the first one. -/
theorem firstByte_find (p : Nat → Prop) [DecidablePred p] : FirstByte (((List.range 4).find? fun i => p i).getD 4) p := by
  obtain ⟨n, hn, hle, hlow, hhit⟩ := find_range_spec 4 fun i => p i
  rw [hn]
  exact ⟨by simpa using hlow, by simpa using hhit, hle⟩

theorem firstByte_firstZero (x : W32) : FirstByte (firstZero x) fun i => byteOf x i = 0 := firstByte_find _

theorem byteOf_lt (x : W32) (i : Nat) : byteOf x i < 256 := Nat.mod_lt _ (by decide)

/-- A difference of bytes and its index fit an element with their sign. -/
theorem toInt_strDiff (x y : W32) : ∃ n, FirstByte n (fun i => byteOf x i ≠ byteOf y i) ∧
    (strDiff x y).toInt = if n = 4 then 0 else ((byteOf x n : Int) - byteOf y n) * 8 + n := by
  refine ⟨_, firstByte_find _, ?_⟩
  unfold strDiff
  split
  next i hi =>
    have hlt : i < 4 := List.mem_range.mp (List.mem_of_find?_eq_some hi)
    have hx := byteOf_lt x i
    have hy := byteOf_lt y i
    rw [hi, Option.getD_some, if_neg (by omega), BitVec.toInt_ofInt, Int.bmod_eq_of_le (by omega) (by omega)]
  next hi => rw [hi, Option.getD_none, if_pos rfl]; rfl

/-- Two strings of bytes agree up to the end of the first (R217). -/
theorem strEq_iff {x y : W32} {n : Nat} (h : FirstByte n fun i => byteOf x i = 0) :
    strEq x y = true ↔ ∀ i ≤ min n 3, byteOf x i = byteOf y i := by
  rw [h.unique (firstByte_firstZero x)]
  simp [strEq]

theorem countP_active_le (s : State) (p : Nat → Bool) : s.activeLanes.countP p ≤ 96 :=
  List.countP_le_length.trans ((List.length_filter_le _ _).trans (by simp [lanes]))

/-- The two counts of the histogram fit their halves of an element. -/
theorem toNat_histogram {m k : Nat} (hm : m ≤ 96) (hk : k ≤ 96) : (BitVec.ofNat 32 (m * 2 ^ 16 + k)).toNat = m * 2 ^ 16 + k := by
  rw [BitVec.toNat_ofNat]
  omega

/-- Settles O18: the byte searches find the first byte, and the sums of small numbers fit an element. -/
theorem hashAndStringResults : Obligations.HashAndStringResults := by
  intro d a b s gives byte k crc first
  have gives_of {i : Instr} {p : W32 → W32 → W32 → Prop} {g : State → Nat → W32} (hx : exec i s = s.resultV (encode i) d g)
      (hp : ∀ j, p (s.elem a j) (s.elem b j) (g (s.entered (encode i)) j)) : gives i p :=
    fun h => ⟨_, exec_vector hx rfl h, fun j _ _ => hp j⟩
  clear_value gives
  refine ⟨gives_of (exec_vhcrc d a b s) ?crc, gives_of (exec_vhmix d a b s) ?mix, gives_of (exec_vpart d a b s) ?part,
    gives_of (exec_vbfz d a s) ?zero, gives_of (exec_vbdif d a b s) ?diff, ?eq, ?hist,
    isRr_of_encode rfl (by decide) (by decide), isRr_of_encode rfl (by decide) (by decide), isRr_of_encode rfl (by decide) (by decide),
    isRr_of_encode rfl (by decide) (by decide), isRr_of_encode rfl (by decide) (by decide), isRr_of_encode rfl (by decide) (by decide),
    isRr_of_encode rfl (by decide) (by decide), ?refused, ?refusedHist⟩
  case crc =>
    intro j
    rw [entered_elem, entered_sget32]
    exact crc32c_eq_foldl _ _
  case mix => intro j; rw [entered_elem, entered_elem]; rfl
  case part => intro j; rw [entered_elem, entered_sget, toNat_top32]
  case zero =>
    intro j
    have h := firstByte_firstZero (s.elem a j)
    have ⟨_, _, hle⟩ := h
    have hn : (BitVec.ofNat 32 (firstZero (s.elem a j))).toNat = firstZero (s.elem a j) := by
      rw [BitVec.toNat_ofNat, Nat.mod_eq_of_lt (by omega)]
    rw [entered_elem, hn]
    exact h
  case diff => intro j; rw [entered_elem, entered_elem]; exact toInt_strDiff _ _
  case eq =>
    intro h
    refine ⟨fun j => strEq (s.elem a j) (s.elem b j), exec_lanes (exec_vbeq d a b s) (by simp) h, fun j _ n hn => ?_⟩
    rw [Bool.eq_iff_iff, decide_eq_true_iff]
    exact strEq_iff hn
  case hist =>
    intro h
    refine ⟨_, exec_vector (exec_vhist d a s) rfl h, fun j _ _ => ?_⟩
    simp only [entered_elem, entered_activeLanes, List.filter_filter, ← List.countP_eq_length_filter]
    rw [toNat_histogram (countP_active_le s _) (countP_active_le s _)]
  case refused =>
    refine refusesWords_of_ne_ok fun w i ⟨ho, h⟩ hd => ?_
    have hok := dec50_ok (decodeWord_50 w ho ▸ hd)
    rw [← toNat_fD, ← toNat_fB, wF_eq] at h
    omega
  case refusedHist =>
    refine refusesWords_of_ne_ok fun w i ⟨ho, h⟩ hd => ?_
    have hok := dec51_ok (decodeWord_51 w ho ▸ hd)
    rw [← toNat_fB, wF_eq] at h
    omega

/-! ### One rounding of an exact number (R133, R207, R208) -/

/-- The number an operand stands for, 0 for an infinity or a NaN. -/
def FpVal.num : FpVal → ℚ
  | .fin s m e => (if s then -1 else 1) * m * (2 : ℚ) ^ e
  | _ => 0

/-- r is q rounded once, from its magnitude cut to an integer multiple of a power of two and whether that lost anything; a zero has
sign z. -/
def Rounded (rm : Nat) (ftz : Bool) (q : ℚ) (z : Bool) (r : Nat × Nat) : Prop :=
  (q = 0 → r = (0 + if z then 2 ^ 31 else 0, 0)) ∧
  (q ≠ 0 → ∃ (m : Nat) (e : Int) (t : Bool), 1 ≤ m ∧ (t = true → 2 ^ 30 ≤ m) ∧ m * (2 : ℚ) ^ e ≤ |q| ∧ |q| < (m + 1) * (2 : ℚ) ^ e ∧
    (t = false ↔ |q| = m * (2 : ℚ) ^ e) ∧ r = fp32.round rm ftz (decide (q < 0)) m e t)

theorem num_fin (s : Bool) (m : Nat) (e : Int) : (FpVal.fin s m e).num = signed s m * (2 : ℚ) ^ e := by
  cases s <;> simp [FpVal.num, signed]

theorem abs_sign_mul (b : Bool) {x : ℚ} (hx : 0 ≤ x) : |(if b then -1 else 1) * x| = x := by
  cases b <;> simp [abs_of_nonneg hx]

theorem sign_mul_neg_iff {b : Bool} {x : ℚ} (hx : 0 < x) : (if b then -1 else 1) * x < 0 ↔ b = true := by
  cases b <;> simp [hx, hx.le]

theorem num_mul (p n : Bool) (m k : Nat) (e g : Int) :
    (FpVal.fin p m e).num * (FpVal.fin n k g).num = (FpVal.fin (p != n) (m * k) (e + g)).num := by
  cases p <;> cases n <;> simp [FpVal.num, zpow_add₀] <;> ring

theorem num_div (p n : Bool) (m k : Nat) (e g : Int) :
    (FpVal.fin p m e).num / (FpVal.fin n k g).num = (if p != n then -1 else 1) * ((m : ℚ) / k * (2 : ℚ) ^ (e - g)) := by
  cases p <;> cases n <;> simp [FpVal.num, zpow_sub₀, neg_div, div_neg] <;> ring

/-- An integer multiple of a power of two is a multiple of any smaller one. -/
theorem scaled_down (x : Int) {e lo : Int} (h : lo ≤ e) : ((x * 2 ^ (e - lo).toNat : Int) : ℚ) * (2 : ℚ) ^ lo = x * (2 : ℚ) ^ e := by
  have hpow : (2 : ℚ) ^ (e - lo).toNat = (2 : ℚ) ^ (e - lo) := by
    rw [← zpow_natCast, Int.toNat_of_nonneg (by omega)]
  push_cast
  rw [hpow, mul_assoc, ← zpow_add₀ two_ne_zero, Int.sub_add_cancel]

section OneRounding

variable (rm : Nat) (ftz : Bool)

theorem roundInt_rounded (x e : Int) (z : Bool) : Rounded rm ftz (x * (2 : ℚ) ^ e) z (fp32.roundInt rm ftz x e z) := by
  have hpos : (0 : ℚ) < 2 ^ e := by positivity
  unfold FpFmt.roundInt
  split
  next hx => subst hx; simpa [Rounded] using by cases z <;> rfl
  next hx =>
    have habs : |(x : ℚ) * 2 ^ e| = x.natAbs * (2 : ℚ) ^ e := by
      rw [abs_mul, abs_of_pos hpos, Nat.cast_natAbs, Int.cast_abs]
    have hneg : (x : ℚ) * 2 ^ e < 0 ↔ x < 0 := by rw [mul_neg_iff]; simp [hpos, hpos.not_gt]
    refine ⟨fun h => ?_, fun _ => ⟨x.natAbs, e, false, Int.natAbs_pos.mpr hx, by simp, habs.ge, ?_, by simp [habs], by simp only [hneg]⟩⟩
    · exact absurd h (by simpa using ⟨hx, hpos.ne'⟩)
    · rw [habs]; nlinarith

/-- The model adds on the smaller of the two exponents (R207). -/
theorem addV_fin_fin (p n : Bool) (m k : Nat) (e g : Int) :
    Rounded rm ftz ((FpVal.fin p m e).num + (FpVal.fin n k g).num) (if p = n then p else decide (rm = 3))
      (fp32.addV rm ftz (.fin p m e) (.fin n k g)) := by
  have hsum : (FpVal.fin p m e).num + (FpVal.fin n k g).num =
      ((signed p m * 2 ^ (e - min e g).toNat + signed n k * 2 ^ (g - min e g).toNat : Int) : ℚ) * 2 ^ (min e g) := by
    rw [Int.cast_add, add_mul, scaled_down _ (min_le_left e g), scaled_down _ (min_le_right e g), num_fin, num_fin]
  rw [hsum]
  exact roundInt_rounded rm ftz _ _ _

theorem ofVal_fin (p : Bool) (m : Nat) (e : Int) : Rounded rm ftz (FpVal.fin p m e).num p (fp32.ofVal rm ftz (.fin p m e)) := by
  rw [num_fin]
  exact roundInt_rounded rm ftz _ _ _

theorem cast_div_le_lt {k n : Nat} (hn : 0 < n) : ((k / n : Nat) : ℚ) ≤ k / n ∧ (k : ℚ) / n < (k / n : Nat) + 1 := by
  have hn' : (0 : ℚ) < n := by exact_mod_cast hn
  refine ⟨Nat.cast_div_le, ?_⟩
  rw [div_lt_iff₀ hn']
  exact_mod_cast Nat.lt_mul_of_div_lt (Nat.lt_succ_self (k / n)) hn

theorem mod_eq_zero_iff_cast_div {k n : Nat} (hn : 0 < n) : k % n = 0 ↔ (k : ℚ) / n = (k / n : Nat) := by
  have hn' : (n : ℚ) ≠ 0 := by exact_mod_cast hn.ne'
  rw [← Nat.dvd_iff_mod_eq_zero]
  refine ⟨fun h => (Nat.cast_div h hn').symm, fun h => ⟨k / n, ?_⟩⟩
  rw [div_eq_iff hn'] at h
  rw [Nat.mul_comm]
  exact_mod_cast h

/-- The quotient is cut at 80 bits below the dividend's, far more than the format keeps (R207). -/
theorem divV_fin_fin (p n : Bool) {m k : Nat} (e g : Int) (hk : k ≠ 0) (hlt : k < 2 ^ 24) :
    Rounded rm ftz ((FpVal.fin p m e).num / (FpVal.fin n k g).num) (p != n) (fp32.divV rm ftz (.fin p m e) (.fin n k g)) := by
  have hpos : 0 < k := Nat.pos_of_ne_zero hk
  unfold FpFmt.divV
  simp only [if_neg hk]
  split
  next hm => subst hm; simpa [Rounded, FpVal.num] using by cases p != n <;> rfl
  next hm =>
    have hm' : 1 ≤ m := Nat.pos_of_ne_zero hm
    have hquot : (0 : ℚ) < (m : ℚ) / k * 2 ^ (e - g) := by positivity
    have hscale : (m : ℚ) / k * 2 ^ (e - g) = ((m * 2 ^ 80 : Nat) : ℚ) / k * (2 : ℚ) ^ (e - g - 80) := by
      rw [zpow_sub₀ two_ne_zero (e - g)]
      push_cast
      field_simp
    have habs := (abs_sign_mul (p != n) hquot.le).trans hscale
    have hneg := sign_mul_neg_iff (b := p != n) hquot
    rw [← num_div] at habs hneg
    have hbig : 2 ^ 30 ≤ m * 2 ^ 80 / k := by
      rw [Nat.le_div_iff_mul_le hpos]
      omega
    obtain ⟨hle, hlt'⟩ := cast_div_le_lt (k := m * 2 ^ 80) hpos
    have hpow : (0 : ℚ) < 2 ^ (e - g - 80) := by positivity
    have hzero : (FpVal.fin p m e).num / (FpVal.fin n k g).num ≠ 0 := by rw [← abs_pos, habs, ← hscale]; exact hquot
    refine ⟨fun h => absurd h hzero, fun _ => ⟨m * 2 ^ 80 / k, e - g - 80, decide (m * 2 ^ 80 % k ≠ 0), by omega, fun _ => hbig,
      ?_, ?_, ?_, ?_⟩⟩
    · rw [habs]; exact mul_le_mul_of_nonneg_right hle hpow.le
    · rw [habs]; exact mul_lt_mul_of_pos_right hlt' hpow
    · rw [habs, mul_left_inj' hpow.ne', ← mod_eq_zero_iff_cast_div hpos]; simp
    · simp only [hneg, Bool.decide_eq_true]

end OneRounding

/-! ### The values of FP32 patterns (R128, R134) -/

/-- An FP32 pattern has its exponent in bits 30:23 and its fraction in bits 22:0. -/
theorem fp32_val_eq (x : Nat) : fp32.val x =
    if x / 2 ^ 23 % 256 = 255 then
      if x % 2 ^ 23 = 0 then .inf (decide (x / 2 ^ 31 % 2 = 1)) else .nan (decide (x % 2 ^ 23 < 2 ^ 22))
    else if x / 2 ^ 23 % 256 = 0 then .fin (decide (x / 2 ^ 31 % 2 = 1)) (x % 2 ^ 23) (-149)
    else .fin (decide (x / 2 ^ 31 % 2 = 1)) (2 ^ 23 + x % 2 ^ 23) ((x / 2 ^ 23 % 256 : Nat) - 150) := by
  have hex : x % 2 ^ 31 / 2 ^ 23 = x / 2 ^ 23 % 256 := by omega
  have hfr : x % 2 ^ 31 % 2 ^ 23 = x % 2 ^ 23 := by omega
  simp only [FpFmt.val, FpFmt.signBit, FpFmt.bias, fp32, hex, hfr, Bool.false_and, Bool.false_eq_true, if_false, Bool.not_false,
    Bool.true_and, decide_eq_true_eq, Nat.reduceAdd, sub_sub]
  rfl

/-- Under FTZ the fraction of a subnormal is not read. -/
theorem fp32_input_eq (ftz : Bool) (x : Nat) : fp32.input ftz x =
    if x / 2 ^ 23 % 256 = 255 then
      if x % 2 ^ 23 = 0 then .inf (decide (x / 2 ^ 31 % 2 = 1)) else .nan (decide (x % 2 ^ 23 < 2 ^ 22))
    else if x / 2 ^ 23 % 256 = 0 then .fin (decide (x / 2 ^ 31 % 2 = 1)) (if ftz then 0 else x % 2 ^ 23) (-149)
    else .fin (decide (x / 2 ^ 31 % 2 = 1)) (2 ^ 23 + x % 2 ^ 23) ((x / 2 ^ 23 % 256 : Nat) - 150) := by
  have hfr : x % 2 ^ 23 < 2 ^ 23 := Nat.mod_lt _ (by decide)
  rw [FpFmt.input, fp32_val_eq]
  split_ifs <;> simp_all [fp32]

theorem input_fin_lt {ftz : Bool} {x : Nat} {s : Bool} {m : Nat} {e : Int} (h : fp32.input ftz x = .fin s m e) : m < 2 ^ 24 := by
  have hfr : x % 2 ^ 23 < 2 ^ 23 := Nat.mod_lt _ (by decide)
  rw [fp32_input_eq] at h
  split_ifs at h <;> cases h <;> omega

/-! ### NaN operands, and 0 · ∞ (R129, R207, R208) -/

/-- The canonical NaN, with NV where a NaN among the operands signals (R129). -/
def nanOf (vs : List FpVal) : Nat × Nat := (0x7FC00000, if vs.any FpVal.isSnan then 1 else 0)

section NanOperands

variable {x y z : FpVal} {rm : Nat} {ftz : Bool}

theorem addV_of_nan (h : [x, y].any FpVal.isNan = true) : fp32.addV rm ftz x y = nanOf [x, y] := by
  cases x <;> cases y
  case nan.nan p n => cases p <;> cases n <;> rfl
  case nan.inf p _ | nan.fin p _ _ _ | inf.nan _ p | fin.nan _ _ _ p => cases p <;> rfl
  all_goals exact nomatch h

theorem divV_of_nan (h : [x, y].any FpVal.isNan = true) : fp32.divV rm ftz x y = nanOf [x, y] := by
  cases x <;> cases y
  case nan.nan p n => cases p <;> cases n <;> rfl
  case nan.inf p _ | nan.fin p _ _ _ | inf.nan _ p | fin.nan _ _ _ p => cases p <;> rfl
  all_goals exact nomatch h

theorem mulV_of_nan (h : [x, y].any FpVal.isNan = true) : mulV x y = (.nan ([x, y].any FpVal.isSnan), false) := by
  cases x <;> cases y
  case nan.nan p n => cases p <;> cases n <;> rfl
  case nan.inf p _ | nan.fin p _ _ _ | inf.nan _ p | fin.nan _ _ _ p => cases p <;> rfl
  all_goals exact nomatch h

theorem fpMul_of_nan (h : [x, y].any FpVal.isNan = true) : fpMul rm ftz x y = nanOf [x, y] := by
  rw [fpMul, mulV_of_nan h]
  rfl

/-- A product fails only for zero and an infinity. -/
theorem mulV_fails (h : (mulV x y).2 = true) :
    (∃ p n e, x = .inf p ∧ y = .fin n 0 e) ∨ ∃ p n e, x = .fin n 0 e ∧ y = .inf p := by
  cases x <;> cases y
  case inf.fin p n k g =>
    rcases k with _ | k
    · exact .inl ⟨p, n, g, rfl, rfl⟩
    · cases h
  case fin.inf n k g p =>
    rcases k with _ | k
    · exact .inr ⟨p, n, g, rfl, rfl⟩
    · cases h
  all_goals cases h

/-- A product that does not fail carries the NaNs of its factors. -/
theorem mulV_isNan (h : (mulV x y).2 = false) :
    (mulV x y).1.isNan = (x.isNan || y.isNan) ∧ (mulV x y).1.isSnan = (x.isSnan || y.isSnan) := by
  cases hn : [x, y].any FpVal.isNan
  · cases x <;> cases y
    case inf.inf | fin.fin => exact ⟨rfl, rfl⟩
    case inf.fin _ _ k _ | fin.inf _ k _ _ =>
      rcases k with _ | k
      · cases h
      · exact ⟨rfl, rfl⟩
    all_goals cases hn
  · simpa [mulV_of_nan hn, FpVal.isNan, FpVal.isSnan] using hn.symm

theorem mulV_inf_fin {p n : Bool} {m : Nat} {e : Int} (h : (mulV (.inf p) (.fin n m e)).2 = false) :
    (mulV (.inf p) (.fin n m e)).1 = .inf (p != n) := by
  rcases m with _ | m
  · cases h
  · rfl

theorem mulV_fin_inf {p n : Bool} {m : Nat} {e : Int} (h : (mulV (.fin n m e) (.inf p)).2 = false) :
    (mulV (.fin n m e) (.inf p)).1 = .inf (p != n) := by
  rcases m with _ | m
  · cases h
  · cases p <;> cases n <;> rfl

/-- An infinity of sign p (R128). -/
def infOf (p : Bool) : Nat := 0x7F800000 + if p then 2 ^ 31 else 0

theorem fp32_inf (p : Bool) : fp32.top + (if p then fp32.signBit else 0) = infOf p := by
  cases p <;> rfl

theorem addV_inf_inf (p n : Bool) : fp32.addV rm ftz (.inf p) (.inf n) = if p = n then (infOf n, 0) else (0x7FC00000, 1) := by
  cases p <;> cases n <;> rfl

theorem addV_inf_left (p : Bool) (hz : z.isNan = false) (hi : ∀ n, z ≠ .inf n) : fp32.addV rm ftz (.inf p) z = (infOf p, 0) := by
  cases z with
  | nan n => cases hz
  | inf n => exact absurd rfl (hi n)
  | fin n k g => cases p <;> rfl

theorem addV_inf_right (n : Bool) (hz : z.isNan = false) (hi : ∀ p, z ≠ .inf p) : fp32.addV rm ftz z (.inf n) = (infOf n, 0) := by
  cases z with
  | nan p => cases hz
  | inf p => exact absurd rfl (hi p)
  | fin p m e => cases n <;> rfl

theorem fpMul_inf_fin (p n : Bool) (m : Nat) (e : Int) :
    fpMul rm ftz (.inf p) (.fin n m e) = if m = 0 then (0x7FC00000, 1) else (infOf (p != n), 0) := by
  rcases m with _ | m
  · rfl
  · cases p <;> cases n <;> simp [fpMul, mulV, FpFmt.ofVal] <;> rfl

theorem fpMul_fin_inf (p n : Bool) (m : Nat) (e : Int) :
    fpMul rm ftz (.fin n m e) (.inf p) = if m = 0 then (0x7FC00000, 1) else (infOf (p != n), 0) := by
  rcases m with _ | m
  · rfl
  · cases p <;> cases n <;> simp [fpMul, mulV, FpFmt.ofVal] <;> rfl

theorem fpMul_fin_fin (p n : Bool) (m k : Nat) (e g : Int) :
    Rounded rm ftz ((FpVal.fin p m e).num * (FpVal.fin n k g).num) (p != n) (fpMul rm ftz (.fin p m e) (.fin n k g)) := by
  rw [num_mul, show fpMul rm ftz (.fin p m e) (.fin n k g) = fp32.ofVal rm ftz (.fin (p != n) (m * k) (e + g)) by simp [fpMul, mulV]]
  exact ofVal_fin rm ftz (p != n) (m * k) (e + g)

theorem fpMul_inf_inf (p n : Bool) : fpMul rm ftz (.inf p) (.inf n) = (infOf (p != n), 0) := by
  cases p <;> cases n <;> rfl

theorem divV_inf_fin (p n : Bool) (k : Nat) (g : Int) : fp32.divV rm ftz (.inf p) (.fin n k g) = (infOf (p != n), 0) := by
  cases p <;> cases n <;> rfl

theorem divV_fin_inf (p n : Bool) (m : Nat) (e : Int) :
    fp32.divV rm ftz (.fin p m e) (.inf n) = (0 + if p != n then 2 ^ 31 else 0, 0) := by
  cases p <;> cases n <;> rfl

theorem divV_fin_zero (p n : Bool) (m : Nat) (e g : Int) :
    fp32.divV rm ftz (.fin p m e) (.fin n 0 g) = if m = 0 then (0x7FC00000, 1) else (infOf (p != n), 2) := by
  simp only [FpFmt.divV, if_true, fp32_inf]
  rfl

theorem fmaV_of_exact (h : (mulV x y).2 = false) : fp32.fmaV rm ftz x y z = fp32.addV rm ftz (mulV x y).1 z := by
  simp [FpFmt.fmaV, h]

theorem fmaV_of_fails (h : (mulV x y).2 = true) : fp32.fmaV rm ftz x y z = (0x7FC00000, 1) := by
  simp only [FpFmt.fmaV, h, if_true]
  rfl

theorem fmaV_of_nan (h : (mulV x y).2 = false) (hn : [x, y, z].any FpVal.isNan = true) : fp32.fmaV rm ftz x y z = nanOf [x, y, z] := by
  obtain ⟨hnan, hsnan⟩ := mulV_isNan h
  rw [fmaV_of_exact h, addV_of_nan (by simpa [hnan, Bool.or_assoc] using hn)]
  simp [nanOf, hsnan, Bool.or_assoc]

end NanOperands

/-- Settles O22: NaNs, infinities and 0 times infinity are told apart first; what is left is an exact sum or product handed to one
rounding, or a quotient cut at 80 bits with its remainder noted. -/
theorem floatArithmeticResults : Obligations.FloatArithmeticResults := by
  intro d a b s gives both num sgn inf nan rounded nans sum prod quot fused
  have nans_intro {vs : List FpVal} {r : Nat × Nat} {p : Prop} (hnan : vs.any FpVal.isNan = true → r = nanOf vs)
      (hp : vs.any FpVal.isNan = false → p) : nans vs r p := by
    unfold nans
    split
    next h => exact hnan h
    next h => exact hp (Bool.eq_false_of_not_eq_true h)
  have sum_addV (x y : FpVal) : sum x y (fp32.addV s.rm s.ftz x y) := by
    refine nans_intro addV_of_nan fun hn => ?_
    rcases x with p | p | ⟨p, m, e⟩ <;> rcases y with n | n | ⟨n, k, g⟩
    case fin.fin => exact addV_fin_fin s.rm s.ftz p n m k e g
    case inf.inf => exact (addV_inf_inf p n).trans (ite_congr rfl (fun h => h ▸ rfl) fun _ => rfl)
    case inf.fin => exact addV_inf_left p rfl nofun
    case fin.inf => exact addV_inf_right n rfl nofun
    all_goals exact nomatch hn
  have prod_fpMul (x y : FpVal) : prod x y (fpMul s.rm s.ftz x y) := by
    refine nans_intro fpMul_of_nan fun hn => ?_
    rcases x with p | p | ⟨p, m, e⟩ <;> rcases y with n | n | ⟨n, k, g⟩
    case fin.fin => exact fpMul_fin_fin p n m k e g
    case inf.inf => exact fpMul_inf_inf p n
    case inf.fin => exact fpMul_inf_fin p n k g
    case fin.inf => exact fpMul_fin_inf n p m e
    all_goals exact nomatch hn
  have quot_divV (x y : FpVal) (hy : ∀ n k g, y = .fin n k g → k < 2 ^ 24) : quot x y (fp32.divV s.rm s.ftz x y) := by
    refine nans_intro divV_of_nan fun hn => ?_
    rcases x with p | p | ⟨p, m, e⟩ <;> rcases y with n | n | ⟨n, k, g⟩
    case fin.fin =>
      rcases k with _ | k
      · exact divV_fin_zero p n m e g
      · exact divV_fin_fin s.rm s.ftz p n e g k.succ_ne_zero (hy n _ g rfl)
    case inf.inf => exact rfl
    case inf.fin => exact divV_inf_fin p n k g
    case fin.inf => exact divV_fin_inf p n m e
    all_goals exact nomatch hn
  have fused_fmaV (x y z : FpVal) : fused x y z (fp32.fmaV s.rm s.ftz x y z) := by
    unfold fused
    split
    next => exact fmaV_of_fails rfl
    next => exact fmaV_of_fails rfl
    next hxy hyx =>
      have hm : (mulV x y).2 = false := by
        refine Bool.eq_false_of_not_eq_true fun h => ?_
        obtain ⟨p, n, e, hx, hy⟩ | ⟨p, n, e, hx, hy⟩ := mulV_fails h
        · exact hxy p n e hx hy
        · exact hyx n e p hx hy
      refine nans_intro (fmaV_of_nan hm) fun hn => ?_
      rw [fmaV_of_exact hm]
      obtain ⟨hx, hy, hz⟩ : x.isNan = false ∧ y.isNan = false ∧ z.isNan = false := by simpa using hn
      split
      case h_1 p n k => exact addV_inf_inf _ _
      case h_2 p n _ _ k => rw [mulV_inf_fin hm]; exact addV_inf_inf _ _
      case h_3 n _ _ p k => rw [mulV_fin_inf hm]; exact addV_inf_inf _ _
      case h_4 _ p n hk => exact addV_inf_left (p != n) hz hk
      case h_5 p n _ _ hk => rw [mulV_inf_fin hm]; exact addV_inf_left (p != n) hz hk
      case h_6 n _ _ p hk => rw [mulV_fin_inf hm]; exact addV_inf_left (p != n) hz hk
      case h_7 k hii hif hfi =>
        cases x <;> cases y
        case fin.fin => exact addV_inf_right _ rfl nofun
        case inf.inf => exact (hii _ _ rfl rfl).elim
        case inf.fin => exact (hif _ _ _ _ rfl rfl).elim
        case fin.inf => exact (hfi _ _ _ _ rfl rfl).elim
        case nan.nan | nan.inf | nan.fin => cases hx
        case inf.nan | fin.nan => cases hy
      case h_8 p m e n k g c l h =>
        have hsum := addV_fin_fin s.rm s.ftz (p != n) c (m * k) l (e + g) h
        have hsign : (if (p != n) = c then p != n else decide (s.rm = 3)) = if (p != n) = c then c else decide (s.rm = 3) :=
          ite_congr rfl id fun _ => rfl
        rw [← num_mul, hsign] at hsum
        exact hsum
      case h_9 => trivial
  have gives_of {i : Instr} {p : FpVal → FpVal → FpVal → Nat × Nat → Prop} {y : Nat → W32} {g : State → Nat → Nat × Nat}
      (hx : exec i s = s.resultF (encode i) d g)
      (hg : ∀ j, p (s.fin (s.elem a j)) (s.fin (y j)) (s.fin (s.elem d j)) (g (s.entered (encode i)) j)) : gives i p y :=
    fun hp => ⟨_, exec_flagged hx rfl hp, fun j _ _ => hg j⟩
  have both_of {i k : Instr} {p : FpVal → FpVal → FpVal → Nat × Nat → Prop} {f : Nat → Bool → FpVal → FpVal → Nat × Nat}
      (hi : exec i s = s.fp2 (encode i) d a b false f) (hk : exec k s = s.fp2 (encode k) d a b true f)
      (hf : ∀ x y z, (∀ n m e, y = .fin n m e → m < 2 ^ 24) → p x y z (f s.rm s.ftz x y)) : both i k p := by
    refine ⟨gives_of hi fun j => ?_, gives_of hk fun j => ?_⟩ <;> simp only [entered_rm, entered_ftz, entered_fin, entered_elem, entered_opB]
    · exact hf _ _ _ fun _ _ _ => input_fin_lt
    · exact hf _ _ _ fun _ _ _ => input_fin_lt
  have fusedBoth_of {i k : Instr} {p : FpVal → FpVal → FpVal → Nat × Nat → Prop} {neg sub : Bool}
      (hi : exec i s = s.fp3 (encode i) d a b false neg sub) (hk : exec k s = s.fp3 (encode k) d a b true neg sub)
      (hf : ∀ x y z, p x y z (fp32.fmaV s.rm s.ftz (if neg then x.neg else x) y (if sub then z.neg else z))) : both i k p := by
    refine ⟨gives_of hi fun j => ?_, gives_of hk fun j => ?_⟩ <;> simp only [entered_rm, entered_ftz, entered_fin, entered_elem, entered_opB]
    · exact hf _ _ _
    · exact hf _ _ _
  clear_value both
  refine ⟨both_of (exec_vfadd d a b s) (exec_vfaddS d a b s) fun x y _ _ => sum_addV x y,
    both_of (exec_vfsub d a b s) (exec_vfsubS d a b s) fun x y _ _ => sum_addV x y.neg,
    both_of (exec_vfmul d a b s) (exec_vfmulS d a b s) fun x y _ _ => prod_fpMul x y,
    both_of (exec_vfdiv d a b s) (exec_vfdivS d a b s) fun x y _ hy => quot_divV x y hy,
    fusedBoth_of (exec_vfma d a b s) (exec_vfmaS d a b s) fun x y z => fused_fmaV x y z,
    fusedBoth_of (exec_vfms d a b s) (exec_vfmsS d a b s) fun x y z => fused_fmaV x y z.neg,
    fusedBoth_of (exec_vfnma d a b s) (exec_vfnmaS d a b s) fun x y z => fused_fmaV x.neg y z.neg,
    fusedBoth_of (exec_vfnms d a b s) (exec_vfnmsS d a b s) fun x y z => fused_fmaV x.neg y z,
    isRr_of_encode rfl (by decide) (by decide), isRr_of_encode rfl (by decide) (by decide), isRr_of_encode rfl (by decide) (by decide),
    isRr_of_encode rfl (by decide) (by decide), isRr_of_encode rfl (by decide) (by decide), isRr_of_encode rfl (by decide) (by decide),
    isRr_of_encode rfl (by decide) (by decide), isRr_of_encode rfl (by decide) (by decide), ?refused⟩
  case refused =>
    refine refusesWords_of_ne_ok fun w i ⟨ho, hf⟩ hd => ?_
    exact absurd (dec48_ok (decodeWord_48 w ho ▸ hd)) (Nat.not_le.mpr hf)

/-! ### FP32 elements as bit patterns (R128 to R130, R134) -/

/-- The pattern without its sign. -/
def magBits (x : W32) : Nat := x.toNat % 2 ^ 31

def nanBits (x : W32) : Bool := decide (0x7F800000 < x.toNat % 2 ^ 31)

def snanBits (x : W32) : Bool := nanBits x && !x.getLsbD 22

/-- The pattern an instruction reads: under FTZ a subnormal is a zero of its sign (R134). -/
def readBits (ftz : Bool) (x : W32) : W32 := if ftz && decide (x.toNat / 2 ^ 23 % 256 = 0) then x &&& 0x80000000 else x

/-- The significand of a finite magnitude, as an integer. -/
def fracOf (g : Nat) : Nat := if g < 2 ^ 23 then g else 2 ^ 23 + g % 2 ^ 23

/-- The exponent that goes with it. -/
def expOf (g : Nat) : Int := if g < 2 ^ 23 then -149 else (g / 2 ^ 23 : Nat) - 150

theorem msb_eq_div (x : W32) : decide (x.toNat / 2 ^ 31 % 2 = 1) = x.msb := by
  rw [BitVec.msb_eq_decide, decide_eq_decide]
  have := x.isLt
  omega

theorem val_nan {x : W32} (h : 0x7F800000 < magBits x) : fp32.val x.toNat = .nan (!x.getLsbD 22) := by
  have hbit : (!x.getLsbD 22) = decide (x.toNat % 2 ^ 23 < 2 ^ 22) := by
    rw [BitVec.getLsbD, Nat.testBit_eq_decide_div_mod_eq, ← decide_not, decide_eq_decide]
    omega
  unfold magBits at h
  rw [fp32_val_eq, if_pos (by omega), if_neg (by omega), hbit]

theorem val_inf {x : W32} (h : magBits x = 0x7F800000) : fp32.val x.toNat = .inf x.msb := by
  unfold magBits at h
  rw [fp32_val_eq, if_pos (by omega), if_pos (by omega), msb_eq_div]

theorem val_fin {x : W32} (h : magBits x < 0x7F800000) :
    fp32.val x.toNat = .fin x.msb (fracOf (magBits x)) (expOf (magBits x)) := by
  unfold magBits at *
  have hfr : x.toNat % 2 ^ 31 % 2 ^ 23 = x.toNat % 2 ^ 23 := by omega
  have hex : x.toNat % 2 ^ 31 / 2 ^ 23 = x.toNat / 2 ^ 23 % 256 := by omega
  rw [fp32_val_eq, if_neg (by omega), msb_eq_div, fracOf, expOf, hfr, hex]
  split
  next h0 => rw [if_pos (by omega), if_pos (by omega), show x.toNat % 2 ^ 31 = x.toNat % 2 ^ 23 by omega]
  next h0 => rw [if_neg (by omega), if_neg (by omega)]

theorem nanBits_eq_false {x : W32} : nanBits x = false ↔ magBits x ≤ 0x7F800000 := by
  simp [nanBits, magBits]

theorem nanBits_eq_true {x : W32} : nanBits x = true ↔ 0x7F800000 < magBits x := decide_eq_true_iff

theorem val_isNan (x : W32) : (fp32.val x.toNat).isNan = nanBits x := by
  rcases lt_trichotomy (magBits x) 0x7F800000 with h | h | h
  · rw [val_fin h, nanBits_eq_false.mpr h.le]; rfl
  · rw [val_inf h, nanBits_eq_false.mpr h.le]; rfl
  · rw [val_nan h, nanBits_eq_true.mpr h]; rfl

theorem val_isSnan (x : W32) : (fp32.val x.toNat).isSnan = snanBits x := by
  rcases lt_trichotomy (magBits x) 0x7F800000 with h | h | h
  · rw [val_fin h, snanBits, nanBits_eq_false.mpr h.le]; rfl
  · rw [val_inf h, snanBits, nanBits_eq_false.mpr h.le]; rfl
  · rw [val_nan h, snanBits, nanBits_eq_true.mpr h]; rfl

theorem val_sign {x : W32} (h : nanBits x = false) : (fp32.val x.toNat).sign = x.msb := by
  rcases (nanBits_eq_false.mp h).lt_or_eq with h | h
  · rw [val_fin h]; rfl
  · rw [val_inf h]; rfl

/-! ### Reading under FTZ -/

theorem toNat_and_signBit (x : W32) : (x &&& 0x80000000).toNat = 2 ^ 31 * (x.toNat / 2 ^ 31) := by
  have hx := x.isLt
  rw [BitVec.toNat_and, show (0x80000000 : W32).toNat = 2 ^ 31 from rfl, Nat.and_two_pow, Nat.testBit_eq_decide_div_mod_eq, Nat.mul_comm]
  obtain h | h : x.toNat / 2 ^ 31 = 0 ∨ x.toNat / 2 ^ 31 = 1 := by omega
  · rw [h]; rfl
  · rw [h]; rfl

/-- Reading clears a subnormal under FTZ, and nothing else. -/
theorem readBits_cases (ftz : Bool) (x : W32) :
    ((ftz = true → x.toNat / 2 ^ 23 % 256 ≠ 0) ∧ readBits ftz x = x) ∨
    ftz = true ∧ x.toNat / 2 ^ 23 % 256 = 0 ∧ (readBits ftz x).toNat = 2 ^ 31 * (x.toNat / 2 ^ 31) := by
  unfold readBits
  split
  next h =>
    rw [Bool.and_eq_true, decide_eq_true_iff] at h
    exact .inr ⟨h.1, h.2, toNat_and_signBit x⟩
  next h => exact .inl ⟨by simpa using h, rfl⟩

theorem input_eq_val (ftz : Bool) (x : W32) : fp32.input ftz x.toNat = fp32.val (readBits ftz x).toNat := by
  rw [fp32_input_eq, fp32_val_eq]
  obtain ⟨hex, h⟩ | ⟨rfl, hex, h⟩ := readBits_cases ftz x
  · rw [h]
    cases ftz
    · rfl
    · simp only [if_neg (hex rfl)]
  · rw [h, if_neg (by omega), if_pos hex, if_pos rfl, if_neg (by omega), if_pos (by omega),
      show 2 ^ 31 * (x.toNat / 2 ^ 31) / 2 ^ 31 % 2 = x.toNat / 2 ^ 31 % 2 by omega,
      show 2 ^ 31 * (x.toNat / 2 ^ 31) % 2 ^ 23 = 0 by omega]

theorem readBits_of_nan {ftz : Bool} {x : W32} (hn : nanBits x = true) : readBits ftz x = x := by
  rw [nanBits_eq_true, magBits] at hn
  obtain ⟨-, h⟩ | ⟨-, hex, -⟩ := readBits_cases ftz x
  · exact h
  · omega

theorem nanBits_readBits (ftz : Bool) (x : W32) : nanBits (readBits ftz x) = nanBits x := by
  cases hn : nanBits x
  · rw [nanBits_eq_false, magBits] at hn ⊢
    obtain ⟨-, h⟩ | ⟨-, hex, h⟩ := readBits_cases ftz x <;> rw [h]
    · exact hn
    · omega
  · rw [readBits_of_nan hn, hn]

theorem snanBits_readBits (ftz : Bool) (x : W32) : snanBits (readBits ftz x) = snanBits x := by
  unfold snanBits
  rw [nanBits_readBits]
  cases hn : nanBits x
  · rfl
  · rw [readBits_of_nan hn]

theorem msb_readBits (ftz : Bool) (x : W32) : (readBits ftz x).msb = x.msb := by
  have hx := x.isLt
  rw [BitVec.msb_eq_decide, BitVec.msb_eq_decide, decide_eq_decide]
  obtain ⟨-, h⟩ | ⟨-, hex, h⟩ := readBits_cases ftz x <;> rw [h]
  omega

/-! ### From a value back to its pattern -/

theorem fracOf_eq_zero {g : Nat} : fracOf g = 0 ↔ g = 0 := by
  unfold fracOf
  split <;> omega

/-- A finite magnitude rounds to itself: its significand has exactly the format's bits. -/
theorem round_fin (n : Bool) {g : Nat} (hg : g < 0x7F800000) :
    (fp32.round 0 false n (fracOf g) (expOf g) false).1 = g + if n then 2 ^ 31 else 0 := by
  have hlow : fracOf g < 2 ^ 24 := by unfold fracOf; split <;> omega
  have hlen := (bitLen_le_iff (fracOf g) 24).mpr hlow
  have hq : (if expOf g + bitLen (fracOf g) - 1 < -126 then -126 else expOf g + bitLen (fracOf g) - 1) - 23 = expOf g := by
    unfold expOf
    by_cases hs : g < 2 ^ 23
    · have := (bitLen_le_iff (fracOf g) 23).mpr (by rwa [fracOf, if_pos hs])
      rw [if_pos hs, if_pos (by omega)]; rfl
    · have : ¬bitLen (fracOf g) ≤ 23 := by rw [bitLen_le_iff, fracOf, if_neg hs]; omega
      rw [if_neg hs, if_neg (by omega)]; omega
  have henc : (expOf g - (-126 - 23)).toNat * 2 ^ 23 + fracOf g = g := by
    unfold expOf fracOf
    split
    · omega
    · omega
  have hmin : (1 : Int) - (fp32.bias : Nat) = -126 := rfl
  have hfb : fp32.fb = 23 := rfl
  have hno (odd : Bool) : roundAway 0 n odd 0 1 false = false := by simp [roundAway]
  unfold FpFmt.round
  simp only [hmin, hfb, Nat.cast_ofNat, hq, le_refl, if_true, sub_self, Int.toNat_zero, pow_zero, mul_one, hno, Bool.false_eq_true,
    if_false, henc]
  rw [if_neg]
  · simp only [Bool.and_false, Bool.false_eq_true, if_false]
    exact Nat.add_comm _ _
  · have htop : ¬fp32.top ≤ g := Nat.not_le.mpr hg
    simp [htop, show fp32.e4m3 = false from rfl]

/-- A value with a sign goes to its own magnitude with that sign. -/
theorem withSign_val (n : Bool) {x : W32} (hx : nanBits x = false) :
    withSign n (fp32.val x.toNat) = (magBits x + if n then 2 ^ 31 else 0, 0) := by
  rcases (nanBits_eq_false.mp hx).lt_or_eq with h | h
  · rw [val_fin h]
    by_cases h0 : magBits x = 0
    · rw [h0]; cases n <;> rfl
    · have hm : fracOf (magBits x) ≠ 0 := mt fracOf_eq_zero.mp h0
      have hs : signed n (fracOf (magBits x)) ≠ 0 := by cases n <;> simpa [signed] using hm
      have hneg : decide (signed n (fracOf (magBits x)) < 0) = n := by cases n <;> simp [signed]; omega
      have habs : (signed n (fracOf (magBits x))).natAbs = fracOf (magBits x) := by cases n <;> simp [signed]
      simp only [withSign, FpFmt.ofVal, FpFmt.roundInt, if_neg hs, hneg, habs, round_fin n h]
  · rw [val_inf h, h]; cases n <;> rfl

theorem withSign_of_nan (n : Bool) {x : W32} (hx : nanBits x = true) :
    withSign n (fp32.val x.toNat) = (0x7FC00000, nvIf (snanBits x)) := by
  have hsnan := val_isSnan x
  rw [val_nan (nanBits_eq_true.mp hx)] at hsnan ⊢
  rw [← hsnan]
  rfl

/-! ### The order of values and of patterns (R130, R211) -/

/-- A finite magnitude as a number of units of the least subnormal. -/
def unitsOf (g : Nat) : Nat := fracOf g * 2 ^ (expOf g + 149).toNat

theorem unitsOf_subnormal {g : Nat} (h : g < 2 ^ 23) : unitsOf g = g := by
  rw [unitsOf, fracOf, expOf, if_pos h, if_pos h]
  exact Nat.mul_one g

theorem unitsOf_normal {g : Nat} (h : 2 ^ 23 ≤ g) : unitsOf g = (2 ^ 23 + g % 2 ^ 23) * 2 ^ (g / 2 ^ 23 - 1) := by
  have hlt : ¬g < 2 ^ 23 := by omega
  rw [unitsOf, fracOf, expOf, if_neg hlt, if_neg hlt, show ((g / 2 ^ 23 : Nat) - 150 + 149 : Int).toNat = g / 2 ^ 23 - 1 by omega]

/-- The next pattern is the next number: the fraction goes up by one, or the exponent where the fraction is full. -/
theorem unitsOf_lt_succ (g : Nat) : unitsOf g < unitsOf (g + 1) := by
  rcases Nat.lt_trichotomy (g + 1) (2 ^ 23) with h | h | h
  · rw [unitsOf_subnormal (by omega), unitsOf_subnormal h]; omega
  · rw [unitsOf_subnormal (by omega), unitsOf_normal (by omega), h]; omega
  · rw [unitsOf_normal (by omega), unitsOf_normal (by omega)]
    have hpow : 0 < 2 ^ (g / 2 ^ 23 - 1) := by positivity
    by_cases hr : g % 2 ^ 23 = 2 ^ 23 - 1
    · rw [hr, show (g + 1) % 2 ^ 23 = 0 by omega, show (g + 1) / 2 ^ 23 - 1 = g / 2 ^ 23 - 1 + 1 by omega, pow_succ 2 (g / 2 ^ 23 - 1)]
      omega
    · rw [show (g + 1) % 2 ^ 23 = g % 2 ^ 23 + 1 by omega, show (g + 1) / 2 ^ 23 = g / 2 ^ 23 by omega]
      exact Nat.mul_lt_mul_of_pos_right (by omega) hpow

theorem unitsOf_strictMono : StrictMono unitsOf := strictMono_nat_of_lt_succ unitsOf_lt_succ

theorem unitsOf_eq_zero {g : Nat} : unitsOf g = 0 ↔ g = 0 := by
  simp [unitsOf, fracOf_eq_zero]

theorem signed_lt_iff (p n : Bool) (g h : Nat) : signed p (unitsOf g) < signed n (unitsOf h) ↔ signed p g < signed n h := by
  have hlt := unitsOf_strictMono.lt_iff_lt (a := g) (b := h)
  have hgt := unitsOf_strictMono.lt_iff_lt (a := h) (b := g)
  have hg := unitsOf_eq_zero (g := g)
  have hh := unitsOf_eq_zero (g := h)
  cases p <;> cases n <;> simp only [signed, if_true, if_false, Bool.false_eq_true] <;> omega

theorem le_expOf (g : Nat) : -149 ≤ expOf g := by
  unfold expOf
  split <;> omega

theorem signed_mul (n : Bool) (m k : Nat) : signed n m * k = signed n (m * k) := by
  cases n <;> simp [signed]

theorem signed_eq_zero {n : Bool} {m : Nat} : signed n m = 0 ↔ m = 0 := by
  cases n <;> simp [signed]

/-- Significands on a common exponent, as multiples of the least subnormal. -/
theorem scaled_units (n : Bool) (g : Nat) {lo : Int} (h : -149 ≤ lo) (hle : lo ≤ expOf g) :
    signed n (fracOf g) * 2 ^ (expOf g - lo).toNat * 2 ^ (lo + 149).toNat = signed n (unitsOf g) := by
  rw [mul_assoc, ← pow_add, show (expOf g - lo).toNat + (lo + 149).toNat = (expOf g + 149).toNat by omega, unitsOf, ← signed_mul]
  push_cast
  rfl

theorem lt_fin_iff (p n : Bool) (g h : Nat) (strict : Bool) :
    (FpVal.fin p (fracOf g) (expOf g)).lt strict (.fin n (fracOf h) (expOf h)) =
      (decide (signed p g < signed n h) || (strict && decide (g = 0) && decide (h = 0) && p && !n)) := by
  have hlo : -149 ≤ min (expOf g) (expOf h) := le_min (le_expOf g) (le_expOf h)
  have hpos (k : Nat) : (0 : Int) < 2 ^ k := by positivity
  have hzero (n : Bool) (g : Nat) (k : Nat) : signed n (fracOf g) * 2 ^ k = 0 ↔ g = 0 := by
    rw [mul_eq_zero, signed_eq_zero, fracOf_eq_zero, or_iff_left (hpos k).ne']
  simp only [FpVal.lt, hzero, ← signed_lt_iff, ← scaled_units _ _ hlo (min_le_left ..), ← scaled_units _ _ hlo (min_le_right ..),
    mul_lt_mul_iff_left₀ (hpos _)]

/-- Of two numbers, the order of values is that of the signed magnitudes, -0 below +0 where that is asked. -/
theorem val_lt {x y : W32} (hx : nanBits x = false) (hy : nanBits y = false) (strict : Bool) :
    (fp32.val x.toNat).lt strict (fp32.val y.toNat) = (decide (signed x.msb (magBits x) < signed y.msb (magBits y)) ||
      (strict && decide (magBits x = 0) && decide (magBits y = 0) && x.msb && !y.msb)) := by
  rcases (nanBits_eq_false.mp hx).lt_or_eq with h | h <;> rcases (nanBits_eq_false.mp hy).lt_or_eq with k | k
  · rw [val_fin h, val_fin k, lt_fin_iff]
  · rw [val_fin h, val_inf k, k]
    cases x.msb <;> cases y.msb <;> simp [FpVal.lt, signed] <;> omega
  · rw [val_inf h, val_fin k, h]
    cases x.msb <;> cases y.msb <;> simp [FpVal.lt, signed] <;> omega
  · rw [val_inf h, val_inf k, h, k]
    cases x.msb <;> cases y.msb <;> simp [FpVal.lt, signed]

/-! ### The selections on patterns (R207, R209 to R211) -/

/-- The magnitude of a pattern with a sign. -/
def setSign (n : Bool) (x : W32) : W32 := (x &&& 0x7FFFFFFF) ||| (if n then 0x80000000 else 0)

/-- A NaN gives the canonical NaN, any other pattern itself (R129). -/
def canonBits (x : W32) : W32 := if nanBits x then 0x7FC00000 else x

/-- Patterns in the order of `vfmin` and `vfmax`: -0 lies just below +0 (R130). -/
def orderBits (x : W32) : Int := if x.msb then -((x.toNat % 2 ^ 31 : Nat) : Int) - 1 else x.toNat

/-- Patterns in the order of the comparisons: -0 equals +0 (R211). -/
def valueBits (x : W32) : Int := if x.msb then -((x.toNat % 2 ^ 31 : Nat) : Int) else x.toNat

theorem toNat_eq_magBits_add (x : W32) : x.toNat = magBits x + if x.msb then 2 ^ 31 else 0 := by
  have hx := x.isLt
  have hm := BitVec.msb_eq_decide x
  unfold magBits
  split
  next h => rw [h] at hm; simp at hm; omega
  next h => rw [Bool.eq_false_of_not_eq_true h] at hm; simp at hm; omega

theorem toNat_setSign (n : Bool) (x : W32) : (setSign n x).toNat = magBits x + if n then 2 ^ 31 else 0 := by
  have hlt : magBits x < 2 ^ 31 := Nat.mod_lt _ (by decide)
  have hand : (x &&& 0x7FFFFFFF).toNat = magBits x := by
    rw [BitVec.toNat_and]
    exact Nat.and_two_pow_sub_one_eq_mod x.toNat 31
  rw [setSign, BitVec.toNat_or, hand]
  cases n
  · exact Nat.or_zero _
  · have h := Nat.two_pow_add_eq_or_of_lt hlt 1
    rw [Nat.mul_one] at h
    exact (Nat.or_comm _ _).trans (h.symm.trans (Nat.add_comm _ _))

theorem setSign_msb (x : W32) : setSign x.msb x = x :=
  BitVec.eq_of_toNat_eq ((toNat_setSign _ x).trans (toNat_eq_magBits_add x).symm)

theorem ofNat_withSign (n : Bool) (x : W32) :
    BitVec.ofNat 32 (withSign n (fp32.val x.toNat)).1 = if nanBits x then 0x7FC00000 else setSign n x := by
  split
  next h => rw [withSign_of_nan n h]; rfl
  next h => rw [withSign_val n (Bool.eq_false_of_not_eq_true h), ← toNat_setSign, BitVec.ofNat_toNat, BitVec.setWidth_eq]

theorem ofNat_withSign_self (x : W32) :
    BitVec.ofNat 32 (withSign (fp32.val x.toNat).sign (fp32.val x.toNat)).1 = canonBits x := by
  rw [ofNat_withSign, canonBits]
  split
  · rfl
  next h => rw [val_sign (Bool.eq_false_of_not_eq_true h), setSign_msb]

theorem withSign_flags (n : Bool) (x : W32) : (withSign n (fp32.val x.toNat)).2 = nvIf (snanBits x) := by
  cases hx : nanBits x
  · rw [withSign_val n hx, snanBits, hx]; rfl
  · rw [withSign_of_nan n hx]

/-! ### Order -/

theorem valueBits_eq (x : W32) : valueBits x = signed x.msb (magBits x) := by
  have h := toNat_eq_magBits_add x
  unfold valueBits
  cases hm : x.msb
  · rw [hm] at h
    exact congrArg Nat.cast h
  · rfl

theorem orderBits_eq (x : W32) : orderBits x = signed x.msb (magBits x) - if x.msb then 1 else 0 := by
  rw [← valueBits_eq, orderBits, valueBits]
  cases x.msb
  · exact (Int.sub_zero _).symm
  · rfl

theorem orderBits_injective {x y : W32} (h : orderBits x = orderBits y) : x = y := by
  have hx := toNat_eq_magBits_add x
  have hy := toNat_eq_magBits_add y
  apply BitVec.eq_of_toNat_eq
  rw [orderBits_eq, orderBits_eq] at h
  rw [hx, hy]
  cases hp : x.msb <;> cases hn : y.msb <;> simp [signed, hp, hn] at h ⊢ <;> omega

theorem val_lt_order {x y : W32} (hx : nanBits x = false) (hy : nanBits y = false) :
    (fp32.val x.toNat).lt true (fp32.val y.toNat) = decide (orderBits x < orderBits y) := by
  rw [val_lt hx hy, orderBits_eq, orderBits_eq, Bool.eq_iff_iff]
  cases x.msb <;> cases y.msb <;> simp [signed] <;> omega

theorem lt_of_nan {u v : FpVal} {strict : Bool} (h : (u.isNan || v.isNan) = true) : u.lt strict v = false := by
  cases u <;> cases v
  case inf.inf | inf.fin | fin.inf | fin.fin => cases h
  all_goals rfl

theorem val_lt_value (x y : W32) :
    (fp32.val x.toNat).lt false (fp32.val y.toNat) = (!nanBits x && !nanBits y && decide (valueBits x < valueBits y)) := by
  cases hn : nanBits x || nanBits y
  · obtain ⟨hx, hy⟩ := Bool.or_eq_false_iff.mp hn
    rw [val_lt hx hy, hx, hy, valueBits_eq, valueBits_eq]
    simp
  · rw [lt_of_nan (by rwa [val_isNan, val_isNan]), ← Bool.not_or, hn]
    rfl

theorem fpEq_value (x y : W32) :
    fpEq (fp32.val x.toNat) (fp32.val y.toNat) = (!nanBits x && !nanBits y && decide (valueBits x = valueBits y)) := by
  rw [fpEq, val_isNan, val_isNan, val_lt_value, val_lt_value]
  have hvalue : (!decide (valueBits x < valueBits y) && !decide (valueBits y < valueBits x)) = decide (valueBits x = valueBits y) := by
    rw [Bool.eq_iff_iff]
    simp only [Bool.and_eq_true, Bool.not_eq_true', decide_eq_false_iff_not, decide_eq_true_iff]
    omega
  rw [← hvalue]
  cases nanBits x <;> cases nanBits y <;> simp

theorem val_le_value (x y : W32) : ((fp32.val x.toNat).lt false (fp32.val y.toNat) || fpEq (fp32.val x.toNat) (fp32.val y.toNat)) =
    (!nanBits x && !nanBits y && decide (valueBits x ≤ valueBits y)) := by
  have hle : (decide (valueBits x < valueBits y) || decide (valueBits x = valueBits y)) = decide (valueBits x ≤ valueBits y) := by
    rw [← Bool.decide_or, decide_eq_decide, le_iff_lt_or_eq]
  rw [val_lt_value, fpEq_value, ← Bool.and_or_distrib_left, hle]

/-! ### Minimum and maximum -/

/-- The operand `vfmin` and `vfmax` answer (R130). -/
def minMaxOf (isMax : Bool) (u v : FpVal) : FpVal :=
  if u.isNan then v else if v.isNan then u else if u.lt true v then (if isMax then v else u) else (if isMax then u else v)

theorem fpMinMax_eq (isMax : Bool) (u v : FpVal) : fpMinMax isMax u v =
    ((withSign (minMaxOf isMax u v).sign (minMaxOf isMax u v)).1, nvIf (u.isSnan || v.isSnan)) := by
  unfold fpMinMax
  change (match minMaxOf isMax u v with | .nan _ => _ | .inf s => _ | .fin s m e => _) = _
  cases minMaxOf isMax u v <;> rfl

/-- The answer is a number where there is one, and the lesser or the greater of two. -/
theorem ofNat_fpMinMax (least : Bool) (x y : W32) : BitVec.ofNat 32 (fpMinMax (!least) (fp32.val x.toNat) (fp32.val y.toNat)).1 =
    if nanBits x then canonBits y else if nanBits y then x else if (orderBits x ≤ orderBits y) = (least = true) then x else y := by
  rw [fpMinMax_eq, minMaxOf, val_isNan, val_isNan]
  by_cases hx : nanBits x = true
  · simp only [if_pos hx, ofNat_withSign_self]
  by_cases hy : nanBits y = true
  · simp only [if_neg hx, if_pos hy, ofNat_withSign_self, canonBits]
  have hx' := Bool.eq_false_of_not_eq_true hx
  have hy' := Bool.eq_false_of_not_eq_true hy
  rw [if_neg hx, if_neg hy, if_neg hx, if_neg hy, val_lt_order hx' hy']
  rcases lt_trichotomy (orderBits x) (orderBits y) with h | h | h
  · cases least <;> simp [h, h.le, ofNat_withSign_self, canonBits, hx', hy']
  · obtain rfl := orderBits_injective h
    cases least <;> simp [ofNat_withSign_self, canonBits, hx']
  · cases least <;> simp [h.not_ge, h.not_gt, ofNat_withSign_self, canonBits, hx', hy']

/-! ### Signs, comparisons and classes -/

theorem ofNat_copySign (inv : Bool) (x y : W32) : BitVec.ofNat 32 (copySign inv (fp32.val x.toNat) (fp32.val y.toNat)).1 =
    if nanBits x then 0x7FC00000 else setSign ((y.msb && !nanBits y) != inv) x := by
  have hsign : (fp32.val y.toNat).sign = (y.msb && !nanBits y) := by
    cases hy : nanBits y
    · rw [val_sign hy, Bool.not_false, Bool.and_true]
    · rw [val_nan (nanBits_eq_true.mp hy), Bool.not_true, Bool.and_false]; rfl
  rw [copySign, hsign, ofNat_withSign]

theorem copySign_flags (inv : Bool) (x y : W32) :
    (copySign inv (fp32.val x.toNat) (fp32.val y.toNat)).2 = nvIf (snanBits x || snanBits y) := by
  change (withSign _ _).2 ||| nvIf _ = _
  rw [withSign_flags, val_isSnan]
  cases snanBits x <;> cases snanBits y <;> rfl

/-- The bit of the sign stands apart from the bit of the kind (R210). -/
theorem ofNat_kind_add_sign (n : Bool) : ∀ k < 64,
    BitVec.ofNat 32 (k + if n then 256 else 0) = (if n then 0x100 else 0) ||| BitVec.ofNat 32 k := by
  cases n <;> decide

/-- The kind of a pattern (R210). -/
def kindBits (x : W32) : Nat := if snanBits x then 0x20 else if nanBits x then 0x10 else if x.toNat / 2 ^ 23 % 256 = 255 then 8
  else if x.toNat / 2 ^ 23 % 256 ≠ 0 then 4 else if x.toNat % 2 ^ 23 ≠ 0 then 2 else 1

theorem fpClass_eq (x : W32) : fpClass x.toNat = kindBits x + if x.msb then 256 else 0 := by
  have hsign : x.toNat / 2 ^ 31 % 2 = 1 ↔ x.msb = true := by rw [← msb_eq_div, decide_eq_true_iff]
  unfold fpClass kindBits
  simp only [hsign]
  congr 1
  rcases lt_trichotomy (magBits x) 0x7F800000 with h | h | h
  · have hex : x.toNat / 2 ^ 23 % 256 ≠ 255 := by unfold magBits at h; omega
    have hfr : x.toNat % 2 ^ 23 < 2 ^ 23 := Nat.mod_lt _ (by decide)
    rw [fp32_val_eq, snanBits, nanBits_eq_false.mpr h.le, if_neg hex, if_neg hex, Bool.false_and, if_neg Bool.false_ne_true,
      if_neg Bool.false_ne_true]
    by_cases h0 : x.toNat / 2 ^ 23 % 256 = 0
    · rw [if_pos h0, if_neg (not_not_intro h0)]
      change (if x.toNat % 2 ^ 23 = 0 then 1 else if x.toNat % 2 ^ 23 < 2 ^ 23 then 2 else 4) = _
      rw [if_pos hfr, ite_not]
    · rw [if_neg h0, if_pos h0]
      simp
  · have hex : x.toNat / 2 ^ 23 % 256 = 255 := by unfold magBits at h; omega
    rw [val_inf h, snanBits, nanBits_eq_false.mpr h.le, if_pos hex]
    rfl
  · rw [val_nan h, snanBits, nanBits_eq_true.mpr h]
    cases x.getLsbD 22 <;> rfl

theorem kindBits_lt (x : W32) : kindBits x < 64 := by
  unfold kindBits
  split_ifs <;> decide

theorem ofNat_fpClass (x : W32) : BitVec.ofNat 32 (fpClass x.toNat) = (if x.msb then 0x100 else 0) |||
    (if snanBits x then 0x20 else if nanBits x then 0x10 else if x.toNat / 2 ^ 23 % 256 = 255 then 8
      else if x.toNat / 2 ^ 23 % 256 ≠ 0 then 4 else if x.toNat % 2 ^ 23 ≠ 0 then 2 else 1) := by
  rw [fpClass_eq, ofNat_kind_add_sign _ _ (kindBits_lt x)]
  congr 1
  unfold kindBits
  split_ifs <;> rfl

/-- Settles O23: an operand is the value of the pattern it is read as, values go back to their patterns, and values are ordered as the
signed magnitudes of their patterns. -/
theorem floatSelectionResults : Obligations.FloatSelectionResults := by
  intro d a b s flags gives sets nan snan rd canon order value withSign pick x nvIf both compares num
  have gives_of {i : Instr} {f : Nat → W32} {g : Nat → Nat} {h : State → Nat → Nat × Nat} (hx : exec i s = s.resultF (encode i) d h)
      (hf : ∀ j, BitVec.ofNat 32 (h (s.entered (encode i)) j).1 = f j) (hg : ∀ j, (h (s.entered (encode i)) j).2 = g j) :
      gives i f g := by
    intro hp
    have he := exec_flagged hx rfl hp
    simp only [hf, hg] at he
    exact he
  have sets_of {i : Instr} {f : Nat → Bool} {g : Nat → Nat} {h : State → Nat → Bool × Nat} (hx : exec i s = s.cmpF (encode i) d h)
      (hf : ∀ j, (h (s.entered (encode i)) j).1 = f j) (hg : ∀ j, (h (s.entered (encode i)) j).2 = g j) : sets i f g := by
    intro hp
    have he := exec_flaggedLanes hx rfl hp
    simp only [hf, hg] at he
    exact he
  have fin_eq (x : W32) : s.fin x = fp32.val (rd x).toNat := input_eq_val s.ftz x
  have both_of {i k : Instr} {f : W32 → W32 → W32} {u : FpVal → FpVal → Nat × Nat}
      (hi : exec i s = s.fp2 (encode i) d a b false fun _ _ x y => u x y)
      (hk : exec k s = s.fp2 (encode k) d a b true fun _ _ x y => u x y)
      (hf : ∀ x y, BitVec.ofNat 32 (u (fp32.val (rd x).toNat) (fp32.val (rd y).toNat)).1 = f x y)
      (hg : ∀ x y, (u (fp32.val (rd x).toNat) (fp32.val (rd y).toNat)).2 = nvIf (snan x || snan y)) : both i k f := by
    refine ⟨gives_of hi (fun j => ?_) fun j => ?_, gives_of hk (fun j => ?_) fun j => ?_⟩
    all_goals simp only [entered_fin, entered_elem, entered_opB, fin_eq]
    · exact hf _ _
    · exact hg _ _
    · exact hf _ _
    · exact hg _ _
  have compares_of {i k : Instr} {quiet : Bool} {f : W32 → W32 → Bool} {u : FpVal → FpVal → Bool × Nat}
      (hi : exec i s = s.fpCmp (encode i) d a b false u) (hk : exec k s = s.fpCmp (encode k) d a b true u)
      (hf : ∀ x y, (u (fp32.val (rd x).toNat) (fp32.val (rd y).toNat)).1 = f x y)
      (hg : ∀ x y, (u (fp32.val (rd x).toNat) (fp32.val (rd y).toNat)).2 = nvIf (if quiet then snan x || snan y else nan x || nan y)) :
      compares i k quiet f := by
    refine ⟨sets_of hi (fun j => ?_) fun j => ?_, sets_of hk (fun j => ?_) fun j => ?_⟩
    all_goals simp only [entered_fin, entered_elem, entered_opB, fin_eq]
    · exact hf _ _
    · exact hg _ _
    · exact hf _ _
    · exact hg _ _
  have hnan (x : W32) : nanBits (rd x) = nan x := nanBits_readBits s.ftz x
  have hsnan (x : W32) : snanBits (rd x) = snan x := snanBits_readBits s.ftz x
  have hmsb (x : W32) : (rd x).msb = x.msb := msb_readBits s.ftz x
  have fp1_gives {i : Instr} (f : W32 → W32) {u : FpVal → Nat × Nat} (hi : exec i s = s.fp1 (encode i) d a fun _ _ x => u x)
      (hf : ∀ x, BitVec.ofNat 32 (u (fp32.val (rd x).toNat)).1 = f x) (hg : ∀ x, (u (fp32.val (rd x).toNat)).2 = nvIf (snan x)) :
      gives i (fun j => f (x j)) (fun j => nvIf (snan (x j))) := by
    refine gives_of hi (fun j => ?_) fun j => ?_
    all_goals simp only [entered_fin, entered_elem, fin_eq]
    · exact hf _
    · exact hg _
  clear_value gives sets both compares
  refine ⟨both_of (exec_vfmin d a b s) (exec_vfminS d a b s) ?min ?minFlags,
    both_of (exec_vfmax d a b s) (exec_vfmaxS d a b s) ?max ?maxFlags,
    both_of (exec_vfcsign d a b s) (exec_vfcsignS d a b s) ?csign ?csignFlags,
    both_of (exec_vfnsign d a b s) (exec_vfnsignS d a b s) ?nsign ?nsignFlags,
    fp1_gives (fun x => canon x (withSign false x)) (exec_vfabs d a s) ?abs ?absFlags,
    fp1_gives (fun x => canon x (withSign (!x.msb) x)) (exec_vfneg d a s) ?neg ?negFlags,
    compares_of (exec_vfcmpFeq d a b s) (exec_vfcmpFeqS d a b s) ?feq ?feqFlags,
    compares_of (exec_vfcmpFlt d a b s) (exec_vfcmpFltS d a b s) ?flt ?fltFlags,
    compares_of (exec_vfcmpFle d a b s) (exec_vfcmpFleS d a b s) ?fle ?fleFlags,
    compares_of (exec_vfcmpFun d a b s) (exec_vfcmpFunS d a b s) ?unordered ?unorderedFlags, ?cls, ?words, ?refused⟩
  case min =>
    intro x y
    have h := ofNat_fpMinMax true (rd x) (rd y)
    rw [canonBits, hnan, hnan] at h
    exact h
  case max =>
    intro x y
    have h := ofNat_fpMinMax false (rd x) (rd y)
    rw [canonBits, hnan, hnan] at h
    exact h
  case minFlags | maxFlags =>
    intro x y
    rw [fpMinMax_eq, val_isSnan, val_isSnan, hsnan, hsnan]
    rfl
  case csign =>
    intro x y
    rw [ofNat_copySign, hnan, hnan, hmsb, Bool.bne_false]
    rfl
  case nsign =>
    intro x y
    rw [ofNat_copySign, hnan, hnan, hmsb, Bool.bne_true]
    rfl
  case csignFlags | nsignFlags =>
    intro x y
    rw [copySign_flags, hsnan, hsnan]
    rfl
  case abs =>
    intro x
    rw [ofNat_withSign, hnan]
    rfl
  case neg =>
    intro x
    rw [ofNat_withSign, hnan]
    change _ = if nan x then 0x7FC00000 else setSign (!x.msb) (rd x)
    split
    · rfl
    next h => rw [val_sign (by rw [hnan, Bool.eq_false_of_not_eq_true h]), hmsb]
  case absFlags | negFlags =>
    intro x
    rw [withSign_flags, hsnan]
    rfl
  case feq =>
    intro x y
    rw [cmpFeq, fpEq_value, hnan, hnan]
    rfl
  case flt =>
    intro x y
    rw [cmpFlt, val_lt_value, hnan, hnan]
    rfl
  case fle =>
    intro x y
    rw [cmpFle, val_le_value, hnan, hnan]
    rfl
  case unordered =>
    intro x y
    rw [cmpFun, val_isNan, val_isNan, hnan, hnan]
  case feqFlags | unorderedFlags =>
    intro x y
    simp only [cmpFeq, cmpFun, val_isSnan, hsnan]
    rfl
  case fltFlags | fleFlags =>
    intro x y
    simp only [cmpFlt, cmpFle, val_isNan, hnan]
    rfl
  case cls =>
    refine exec_vector (exec_vfclass d a s) (funext fun j => ?_)
    rw [entered_elem]
    exact ofNat_fpClass _
  case words =>
    intro p hp
    simp only [List.mem_cons, List.not_mem_nil, or_false] at hp
    rcases hp with rfl | rfl | rfl | rfl
    all_goals
      dsimp only
      exact ⟨isRr_of_encode rfl (by decide) (by decide), isRr_of_encode rfl (by decide) (by decide)⟩
  case refused =>
    refine refusesWords_of_ne_ok fun w i ⟨ho, h⟩ hd => ?_
    have hok : fF w ≤ 3 ∧ (fD w).toNat ≤ 125 := ho.elim (fun ho => dec4A_ok (decodeWord_4A w ho ▸ hd))
      fun ho => dec4B_ok (decodeWord_4B w ho ▸ hd)
    rw [← toNat_fD, wF_eq] at h
    omega

end Sys2Proof.Machine
